-- ==== Sys2Proof/Word.lean ====
section
/-! DEFINITION. The word types of the model and their plainest operations (spec 00, R3, R4). -/

namespace Sys2Proof

/-- A byte. -/
abbrev Byte := BitVec 8
/-- A 32-bit value: one lane of a vector register. -/
abbrev W32 := BitVec 32
/-- A 64-bit value: a uniform register, an instruction word, an address. -/
abbrev W64 := BitVec 64
/-- One bit for each of the 32 lanes of a group. -/
abbrev Mask := BitVec 32

end Sys2Proof
end

