-- ==== Sys2Proof/Machine/Formats.lean ====
section
/-! DEFINITION. Number formats and exact arithmetic with one rounding (spec 04, R84–R101, R108–R110). -/

namespace Sys2Proof

/-! ### Values -/

/-- A value read from a floating-point code: not a number, an infinity, or ± n/d with d positive.
The sign of a zero is kept. -/
inductive Num where
  | nan
  | inf (neg : Bool)
  | fin (neg : Bool) (n d : Nat)
  deriving DecidableEq, Repr

/-- How a format spends its top codes (R84): the IEEE way, E4M3's single NaN, or none at all. -/
inductive Specials where
  | ieee | e4m3 | none
  deriving DecidableEq, Repr

/-- A floating-point element format (R84). -/
structure Fmt where
  ebits : Nat
  mbits : Nat
  bias : Nat
  specials : Specials
  deriving DecidableEq, Repr

/-- FP32. -/
def fp32 : Fmt := ⟨8, 23, 127, .ieee⟩
/-- FP16. -/
def fp16 : Fmt := ⟨5, 10, 15, .ieee⟩
/-- BF16. -/
def bf16 : Fmt := ⟨8, 7, 127, .ieee⟩
/-- FP8 E4M3. -/
def e4m3 : Fmt := ⟨4, 3, 7, .e4m3⟩
/-- FP8 E5M2. -/
def e5m2 : Fmt := ⟨5, 2, 15, .ieee⟩
/-- FP4 E2M1 (R85). -/
def fp4 : Fmt := ⟨2, 1, 1, .none⟩

/-- The rounding modes of R95, .rn .rz .rp .rm and .rs; the stochastic one carries its z (R96). -/
inductive RMode where
  | near | zero | up | down
  | stoch (z : Nat)
  deriving DecidableEq, Repr

/-- Width of a code, sign included. -/
def Fmt.width (f : Fmt) : Nat := f.ebits + f.mbits + 1
/-- The sign bit of a code. -/
def Fmt.signBit (f : Fmt) (neg : Bool) : Nat := if neg then 2 ^ (f.ebits + f.mbits) else 0
/-- The magnitude code of the largest finite value (R84). -/
def Fmt.maxCode (f : Fmt) : Nat :=
  match f.specials with
  | .ieee => 2 ^ (f.ebits + f.mbits) - 2 ^ f.mbits - 1
  | .e4m3 => 2 ^ (f.ebits + f.mbits) - 2
  | .none => 2 ^ (f.ebits + f.mbits) - 1
/-- The canonical NaN of a format (R97); FP4 has none and takes +0 (R98). -/
def Fmt.nanCode (f : Fmt) : Nat :=
  match f.specials with
  | .ieee => 2 ^ (f.ebits + f.mbits) - 2 ^ (f.mbits - 1)
  | .e4m3 => 2 ^ (f.ebits + f.mbits) - 1
  | .none => 0
/-- The magnitude code of infinity in an IEEE-style format. -/
def Fmt.infCode (f : Fmt) : Nat := 2 ^ (f.ebits + f.mbits) - 2 ^ f.mbits

/-- The rational m · 2^e. -/
def ratPow (m : Nat) (e : Int) : Nat × Nat :=
  match e with
  | .ofNat k => (m * 2 ^ k, 1)
  | .negSucc k => (m, 2 ^ (k + 1))

/-- The value of a code (R84, R85). -/
def Fmt.decode (f : Fmt) (code : Nat) : Num :=
  let c := code % 2 ^ f.width
  let neg := decide (2 ^ (f.ebits + f.mbits) ≤ c)
  let mag := c % 2 ^ (f.ebits + f.mbits)
  if f.maxCode < mag then
    match f.specials with
    | .ieee => if mag = f.infCode then .inf neg else .nan
    | _ => .nan
  else
    let e := mag / 2 ^ f.mbits
    let m := mag % 2 ^ f.mbits
    let (n, d) := if e = 0 then ratPow m (1 - (f.bias : Int) - f.mbits)
                  else ratPow (2 ^ f.mbits + m) ((e : Int) - f.bias - f.mbits)
    .fin neg n d

/-! ### Rounding -/

/-- ⌊log2 (n/d)⌋ of a positive rational. -/
def ratLog2 (n d : Nat) : Int :=
  let e : Int := (n.log2 : Int) - d.log2
  let (a, b) := ratPow 1 e
  if n * b < d * a then e - 1 else e

/-- ⌊(n/d) · 2^s⌋, the remainder, and the divisor it is a remainder of. -/
def scaledDiv (n d : Nat) (s : Int) : Nat × Nat × Nat :=
  let (a, b) := ratPow 1 s
  ((n * a) / (d * b), (n * a) % (d * b), d * b)

/-- Whether a magnitude that lies `r/q` of a unit above a representable one rounds up (R95, R96). -/
def roundsUp (rm : RMode) (neg odd : Bool) (r q : Nat) : Bool :=
  match rm with
  | .near => decide (q < 2 * r) || (decide (q = 2 * r) && odd)
  | .zero => false
  | .up => !neg && decide (0 < r)
  | .down => neg && decide (0 < r)
  | .stoch z => decide (256 ≤ r * 256 / q + z)

/-- The magnitude code of a positive rational after one rounding, with an unbounded exponent:
a code above `maxCode` means overflow (R98). -/
def Fmt.roundCode (f : Fmt) (rm : RMode) (neg : Bool) (n d : Nat) : Nat :=
  if n = 0 then 0 else
  let emin : Int := 1 - (f.bias : Int)
  let e := max (ratLog2 n d) emin
  let (k, r, q) := scaledDiv n d ((f.mbits : Int) - e)
  let k' := if roundsUp rm neg (k % 2 == 1) r q then k + 1 else k
  (e - emin).toNat * 2 ^ f.mbits + k'

/-- What a finite overflow becomes without saturation (R98). -/
def Fmt.overflow (f : Fmt) (rm : RMode) (neg : Bool) : Nat :=
  match f.specials with
  | .none => f.signBit neg + f.maxCode
  | .e4m3 => f.nanCode
  | .ieee =>
    let toInf := match rm with
      | .near | .stoch _ => true
      | .zero => false
      | .up => !neg
      | .down => neg
    f.signBit neg + (if toInf then f.infCode else f.maxCode)

/-- Round a finite value into a format (R95–R98). FP4 never yields −0 (R85). -/
def Fmt.encodeFin (f : Fmt) (rm : RMode) (sat neg : Bool) (n d : Nat) : Nat :=
  let c := f.roundCode rm neg n d
  if f.maxCode < c then
    if sat then f.signBit neg + f.maxCode else f.overflow rm neg
  else if c = 0 && decide (f.specials = .none) then 0
  else f.signBit neg + c

/-- Round any value into a format (R97, R98). -/
def Fmt.encode (f : Fmt) (rm : RMode) (sat : Bool) (x : Num) : Nat :=
  match x with
  | .nan => f.nanCode
  | .inf neg =>
    if sat then f.signBit neg + f.maxCode else
    match f.specials with
    | .ieee => f.signBit neg + f.infCode
    | .e4m3 => f.nanCode
    | .none => f.signBit neg + f.maxCode
  | .fin neg n d => f.encodeFin rm sat neg n d

/-- A subnormal read under .ftz is a zero of its sign (R99). -/
def Fmt.flushIn (f : Fmt) (x : Num) : Num :=
  match x with
  | .fin neg n d =>
    let (a, b) := ratPow 1 (1 - (f.bias : Int))
    if n * b < d * a then .fin neg 0 1 else x
  | _ => x

/-- A result smaller than the smallest normal becomes a zero of its sign under .ftz (R99). -/
def Fmt.flushOut (f : Fmt) (code : Nat) : Nat :=
  let mag := code % 2 ^ (f.ebits + f.mbits)
  if mag < 2 ^ f.mbits then code - mag else code

/-! ### Exact operations -/

/-- The signed numerator of ± n. -/
def signed (neg : Bool) (n : Nat) : Int := if neg then -(n : Int) else n

/-- The exact integer value `v/d` as a number whose zero, when `v` is 0, has sign `zneg`. -/
def Num.ofInt (zneg : Bool) (v : Int) (d : Nat) : Num :=
  if v = 0 then .fin zneg 0 1 else .fin (decide (v < 0)) v.natAbs d

/-- Negation. -/
def Num.negate : Num → Num
  | .nan => .nan
  | .inf s => .inf !s
  | .fin s n d => .fin (!s) n d

/-- Sign bit; a NaN counts as positive. -/
def Num.isNeg : Num → Bool
  | .nan => false
  | .inf s => s
  | .fin s _ _ => s

/-- Whether the value is a NaN. -/
def Num.isNan : Num → Bool
  | .nan => true
  | _ => false

/-- Whether the value is a zero of either sign. -/
def Num.isZero : Num → Bool
  | .fin _ n _ => n == 0
  | _ => false

/-- Exact sum; an exact zero is +0, or −0 under .rm, unless both terms are zeros of one sign (R195). -/
def Num.add (rm : RMode) (x y : Num) : Num :=
  match x, y with
  | .nan, _ => .nan
  | _, .nan => .nan
  | .inf s, .inf t => if s = t then .inf s else .nan
  | .inf s, .fin .. => .inf s
  | .fin .., .inf t => .inf t
  | .fin s n d, .fin t m e =>
    let z := if n = 0 ∧ m = 0 ∧ s = t then s else decide (rm = .down)
    .ofInt z (signed s n * e + signed t m * d) (d * e)

/-- Exact product. -/
def Num.mul (x y : Num) : Num :=
  match x, y with
  | .nan, _ => .nan
  | _, .nan => .nan
  | .inf s, .inf t => .inf (s != t)
  | .inf s, .fin t m _ => if m = 0 then .nan else .inf (s != t)
  | .fin s n _, .inf t => if n = 0 then .nan else .inf (s != t)
  | .fin s n d, .fin t m e => .fin (s != t) (n * m) (d * e)

/-- Exact quotient by IEEE 754 (R101). -/
def Num.div (x y : Num) : Num :=
  match x, y with
  | .nan, _ => .nan
  | _, .nan => .nan
  | .inf _, .inf _ => .nan
  | .inf s, .fin t _ _ => .inf (s != t)
  | .fin s _ _, .inf t => .fin (s != t) 0 1
  | .fin s n d, .fin t m e =>
    if m = 0 then (if n = 0 then .nan else .inf (s != t)) else .fin (s != t) (n * e) (d * m)

/-- x < y on the numbers; both are taken not to be NaN, and zeros of either sign are equal. -/
def Num.lt (x y : Num) : Bool :=
  match x, y with
  | .nan, _ => false
  | _, .nan => false
  | .inf s, .inf t => s && !t
  | .inf s, .fin .. => s
  | .fin .., .inf t => !t
  | .fin s n d, .fin t m e => decide (signed s n * e < signed t m * d)

/-- x = y on the numbers, −0 and +0 being equal; a NaN equals nothing. -/
def Num.beq (x y : Num) : Bool :=
  match x, y with
  | .inf s, .inf t => s == t
  | .fin s n d, .fin t m e => decide (signed s n * e = signed t m * d)
  | _, _ => false

/-- minimumNumber of IEEE 754-2019, −0 below +0 (R195). -/
def Num.min (x y : Num) : Num :=
  if x.isNan then y else if y.isNan then x
  else if x.lt y then x else if y.lt x then y
  else if x.isNeg then x else y

/-- maximumNumber of IEEE 754-2019, −0 below +0 (R195). -/
def Num.max (x y : Num) : Num :=
  if x.isNan then y else if y.isNan then x
  else if x.lt y then y else if y.lt x then x
  else if x.isNeg then y else x

/-! ### Roots and transcendental functions (R101)

An irrational result is carried as a dyadic rational that lies strictly between the same two multiples of
2^-S as the exact value, so that every rounding of it agrees with the rounding of the exact value. -/

/-- The rational for an exact result, or one just above `k` units of 2^-S otherwise. -/
def stickyRat (k : Nat) (exact : Bool) (S : Nat) : Nat × Nat :=
  (2 * k + (if exact then 0 else 1), 2 ^ (S + 1))

/-- Newton's iteration for the integer square root, with fuel. -/
def isqrtLoop (n : Nat) : Nat → Nat → Nat
  | 0, x => x
  | fuel + 1, x =>
    let y := (x + n / x) / 2
    if y < x then isqrtLoop n fuel y else x

/-- ⌊√n⌋. -/
def isqrt (n : Nat) : Nat :=
  if n = 0 then 0 else isqrtLoop n (n.log2 + 8) (2 ^ (n.log2 / 2 + 1))

/-- √(n/d) of a positive rational, with 64 bits below its leading bit. -/
def sqrtRat (n d : Nat) : Nat × Nat :=
  let h : Int := ratLog2 n d / 2
  let s : Int := 64 - h
  let (q, r, _) := scaledDiv n d (2 * s)
  let k := isqrt q
  let exact := decide (r = 0 ∧ k * k = q)
  let (a, b) := ratPow 1 (-(s + 1))
  ((2 * k + (if exact then 0 else 1)) * a, b)

/-- ⌊ln 2 · 2^320⌋. -/
def ln2Scaled : Nat := 0xb17217f7d1cf79abc9e3b39803f2f6af40f343267298b62d8a0d175b8baafa2be7b876206debac98
/-- ⌊π · 2^400⌋. -/
def piScaled : Nat :=
  0x3243f6a8885a308d313198a2e03707344a4093822299f31d0082efa98ec4e6c89452821e638d01377be5466cf34e90c6cc0ac

/-- Σ t·x^k/k! from a term on, in units of 2^-S, with fuel. -/
def expSeries (S x : Nat) : Nat → Nat → Nat → Nat
  | 0, _, _ => 0
  | fuel + 1, k, t => t + expSeries S x fuel (k + 1) (t * x / 2 ^ S / (k + 1))

/-- 2^(n/d) for 0 ≤ n/d < 1, in units of 2^-320. -/
def exp2Frac (n d : Nat) : Nat :=
  expSeries 320 (ln2Scaled * n / d) 80 0 (2 ^ 320)

/-- Σ of the inverse hyperbolic tangent series z + z³/3 + …, in units of 2^-S, with fuel. -/
def atanhSeries (S zz : Nat) : Nat → Nat → Nat → Nat
  | 0, _, _ => 0
  | fuel + 1, k, t => t / k + atanhSeries S zz fuel (k + 2) (t * zz / 2 ^ S)

/-- |log2 (n/d)| for a rational near 1, in units of 2^-300; the second part says that it is negative. -/
def log2Near (n d : Nat) : Nat × Bool :=
  let neg := decide (n < d)
  let diff := if neg then d - n else n - d
  let z := diff * 2 ^ 320 / (n + d)
  let l := 2 * atanhSeries 320 (z * z / 2 ^ 320) 130 1 z
  (l * 2 ^ 300 / ln2Scaled, neg)

/-- Σ of the alternating sine or cosine series, in units of 2^-S, with fuel: `pos` and `neg` parts. -/
def trigSeries (S xx : Nat) : Nat → Nat → Nat → Bool → Nat × Nat
  | 0, _, _, _ => (0, 0)
  | fuel + 1, k, t, minus =>
    let (p, m) := trigSeries S xx fuel (k + 2) (t * xx / 2 ^ S / ((k + 1) * (k + 2))) (!minus)
    if minus then (p, m + t) else (p + t, m)

/-- sin (2π·n/d) for 0 < n/d < 1/4, in units of 2^-400. -/
def sinQuarter (n d : Nat) : Nat :=
  let x := 2 * piScaled * n / d
  let (p, m) := trigSeries 400 (x * x / 2 ^ 400) 60 1 x false
  p - m

/-- sin (2π·n/d) of a rational 0 ≤ n/d < 1 with d even: its sign and magnitude; multiples of 1/4 are exact (R101). -/
def sinTurn (n d : Nat) : Bool × Nat × Nat :=
  let neg := decide (d ≤ 2 * n)
  let n1 := if neg then n - d / 2 else n
  let n1 := if 2 * n1 ≥ d then 0 else n1
  if n1 = 0 then (neg, 0, 1)
  else if 4 * n1 = d then (neg, 1, 1)
  else
    let n2 := if 4 * n1 > d then d / 2 - n1 else n1
    let (a, b) := stickyRat (sinQuarter n2 d) false 400
    (neg, a, b)

/-- FRCP (R101). -/
def Num.rcp (x : Num) : Num := Num.div (.fin false 1 1) x

/-- FSQRT (R101). -/
def Num.sqrt : Num → Num
  | .nan => .nan
  | .inf s => if s then .nan else .inf false
  | .fin s n d => if n = 0 then .fin s 0 1 else if s then .nan else
    let (a, b) := sqrtRat n d; .fin false a b

/-- FRSQ (R101). -/
def Num.rsq : Num → Num
  | .nan => .nan
  | .inf s => if s then .nan else .fin false 0 1
  | .fin s n d => if n = 0 then .inf s else if s then .nan else
    let (a, b) := sqrtRat d n; .fin false a b

/-- FEXP2 (R101). Beyond ±2,000 the result overflows or underflows every format, so the exponent is held there. -/
def Num.exp2 : Num → Num
  | .nan => .nan
  | .inf s => if s then .fin false 0 1 else .inf false
  | .fin s n d =>
    if 2000 * d ≤ n then (if s then .fin false 1 (2 ^ 2000) else .fin false (2 ^ 2000) 1) else
    let q := n / d
    let r := n % d
    -- x = i + f with 0 ≤ f < 1
    let (i, f) : Int × Nat := if s then (if r = 0 then (-(q : Int), 0) else (-(q : Int) - 1, d - r)) else (q, r)
    let (a, b) := if f = 0 then (1, 1) else stickyRat (exp2Frac f d) false 320
    let (p, u) := ratPow 1 i
    .fin false (a * p) (b * u)

/-- FLOG2 (R101). -/
def Num.log2 : Num → Num
  | .nan => .nan
  | .inf s => if s then .nan else .inf false
  | .fin s n d => if n = 0 then .inf true else if s then .nan else
    let e := ratLog2 n d
    let (a, b) := ratPow 1 e
    -- n/d = 2^e · m with 1 ≤ m < 2; m above 4/3 is taken as 2^(e+1) · m/2
    let m := n * b
    let k := d * a
    let (e, k) := if 3 * m > 4 * k then (e + 1, 2 * k) else (e, k)
    if m = k then .ofInt false e 1 else
    let (l, neg) := log2Near m k
    let (u, v) := stickyRat l false 300
    .ofInt false (e * v + signed neg u) v

/-- FSINR: sin 2πx (R101). -/
def Num.sinr : Num → Num
  | .nan => .nan
  | .inf _ => .nan
  | .fin s n d =>
    let d4 := 4 * d
    let n4 := (4 * n) % d4
    let (neg, a, b) := sinTurn n4 d4
    if a = 0 then .fin s 0 1 else .fin (neg != s) a b

/-- FCOSR: cos 2πx (R101). -/
def Num.cosr : Num → Num
  | .nan => .nan
  | .inf _ => .nan
  | .fin _ n d =>
    let d4 := 4 * d
    let n4 := (4 * n + d) % d4
    let (neg, a, b) := sinTurn n4 d4
    if a = 0 then .fin false 0 1 else .fin neg a b

/-- a · 2^k for FSCALE; beyond ±1,000 every finite value has left every format, so k is held there. -/
def Num.scale (x : Num) (k : Int) : Num :=
  match x with
  | .fin s n d =>
    let (a, b) := ratPow 1 (Max.max (-1000) (Min.min 1000 k))
    .fin s (n * a) (d * b)
  | _ => x

/-- The integer nearest to n/d by a rounding mode, as a magnitude. -/
def roundNat (rm : RMode) (neg : Bool) (n d : Nat) : Nat :=
  let k := n / d
  if roundsUp rm neg (k % 2 == 1) (n % d) d then k + 1 else k

/-- FRND: the value rounded to an integral one (R195). -/
def Num.integral (rm : RMode) : Num → Num
  | .fin s n d => .fin s (roundNat rm s n d) 1
  | x => x

/-- A number rounded to an integer and saturated to [lo, hi]; NaN gives 0 (R98). -/
def Num.toIntSat (rm : RMode) (lo hi : Int) : Num → Int
  | .nan => 0
  | .inf s => if s then lo else hi
  | .fin s n d => Max.max lo (Min.min hi (signed s (roundNat rm s n d)))

/-! ### Scale formats (R88, R89) and block quantisation -/

/-- The value of an E3M5 code (R88). -/
def e3m5Decode (c : Nat) : Num :=
  let c := c % 256
  if c = 255 then .nan
  else if c < 32 then .fin false c 128
  else
    let (a, b) := ratPow (32 + c % 32) ((c / 32 : Nat) - 8 : Int)
    .fin false a b

/-- The least E3M5 code at or above n/d, 0xFE beyond the largest (R92, R98). -/
def e3m5Ceil (n d : Nat) : Nat :=
  match (List.range 255).find? (fun c => match e3m5Decode c with
    | .fin _ m e => decide (n * e ≤ m * d)
    | _ => false) with
  | some c => c
  | none => 0xFE

/-- The value of an E8M0 code (R89). -/
def e8m0Decode (c : Nat) : Num :=
  if c % 256 = 255 then .nan
  else let (a, b) := ratPow 1 ((c % 256 : Nat) - 127 : Int); .fin false a b

/-- The largest magnitude of a block. A NaN anywhere gives NaN. -/
def blockMax (xs : List Num) : Num :=
  xs.foldl (fun m x =>
    match m, x with
    | .nan, _ => .nan
    | _, .nan => .nan
    | .inf _, _ => .inf false
    | _, .inf _ => .inf false
    | .fin _ n d, .fin _ k e => if n * e < k * d then .fin false k e else .fin false n d) (.fin false 0 1)

/-- The NB8 scale of a block (R92). -/
def nb8Scale (xs : List Num) : Nat :=
  match blockMax xs with
  | .nan => 0xFF
  | .inf _ => 0xFE
  | .fin _ n d => if n = 0 then 0 else e3m5Ceil n (6 * d)

/-- The NB8 code of one element under its block's scale (R92). -/
def nb8Code (rm : RMode) (scale : Nat) (x : Num) : Nat :=
  if scale = 0xFF ∨ scale = 0 then 0 else fp4.encode rm true (x.div (e3m5Decode scale))

/-- The element formats of OCP MX: 0 E4M3, 1 E5M2, 2 E2M1 (R93). -/
def mxFmt (k : Nat) : Fmt := if k = 0 then e4m3 else if k = 1 then e5m2 else fp4
/-- emax of R94. -/
def mxEmax (k : Nat) : Int := if k = 0 then 8 else if k = 1 then 15 else 2

/-- The MX scale code of a block (R94). -/
def mxScale (k : Nat) (xs : List Num) : Nat :=
  match blockMax xs with
  | .nan => 0xFF
  | .inf _ => 0xFE
  | .fin _ n d => if n = 0 then 127 else
    (Max.max (-127) (Min.min 127 (ratLog2 n d - mxEmax k)) + 127).toNat

/-- The MX code of one element under its block's scale code (R94). A zero keeps its sign in E4M3 and E5M2, in a block
with a = 0 too (log entry 37). -/
def mxCode (k : Nat) (rm : RMode) (scale : Nat) (x : Num) : Nat :=
  if scale = 0xFF then 0 else (mxFmt k).encode rm true (x.scale (127 - (scale : Int)))

/-- DQMX: the value of an MX element (R93), before rounding; an FP4 −0 counts as +0 (R85). -/
def mxValue (k scale code : Nat) : Num :=
  let f := match k, (mxFmt k).decode code with
    | 2, .fin _ 0 _ => Num.fin false 0 1
    | _, x => x
  f.mul (e8m0Decode scale)

/-! ### Block exponents of the two-phase reduction (R109) -/

/-- The block exponent of FP32 values: the largest unbiased exponent, 0x7F with a NaN or an infinity. -/
def f32BlockExp (xs : List Num) : Int :=
  match blockMax xs with
  | .nan => 127
  | .inf _ => 127
  | .fin _ n d => if n = 0 then -126 else Max.max (-126) (ratLog2 n d)

/-- The block exponent of an NB8 scale code. -/
def nb8BlockExp (c : Nat) : Int :=
  let c := c % 256
  if c = 255 then 127
  else if 32 ≤ c then (c / 32 : Nat)
  else if c = 0 then -128
  else (c.log2 : Int) - 4

/-- The block exponent of an MX scale code; one beyond a signed 8-bit integer is the marker 127 (log entry 97). -/
def mxBlockExp (k c : Nat) : Int :=
  let c := c % 256
  if c = 255 then 127 else Min.min 127 ((c : Int) - 127 + mxEmax k + (if k = 2 then 1 else 0))

/-- CVTFX (R110, R205): x · 2^(22 − E) rounded and saturated to 32 bits. -/
def cvtfx (x : Num) (e : Int) : Int :=
  if e = 127 then 0 else
  (x.scale (22 - e)).toIntSat .near (-(2 ^ 31)) (2 ^ 31 - 1)

/-- CVTXF (R110, R205): Q · 2^(E − 22) in FP32. -/
def cvtxf (q e : Int) : Nat :=
  if e = 127 then fp32.nanCode else fp32.encode .near false ((Num.ofInt false q 1).scale (e - 22))

end Sys2Proof
end

