-- ==== Sys2Proof/Machine/Flags.lean ====
section
/-! DEFINITION. Conditions, carries and sticky bits: everything the part computes as a flag.
Integer and floating-point conditions (R189, R196), FCLASS (R195), the carry of IADDC (R189) and CHKINT (R54, R55). -/

namespace Sys2Proof

/-- The integer conditions of ICMP by OPX (R189). -/
def intCond {w : Nat} (uns : Bool) (cc : Nat) (a b : BitVec w) : Bool :=
  let lt := if uns then a.ult b else a.slt b
  match cc with
  | 0 => a == b
  | 1 => a != b
  | 2 => lt
  | 3 => lt || a == b
  | 4 => !(lt || a == b)
  | _ => !lt

/-- The floating-point conditions of FCMP and HCMP2 by CC (R196). -/
def floatCond (cc : Nat) (x y : Num) : Bool :=
  let un := x.isNan || y.isNan
  match cc with
  | 0 => x.beq y
  | 1 => !x.beq y
  | 2 => x.lt y
  | 3 => x.lt y || x.beq y
  | 4 => y.lt x
  | 5 => y.lt x || x.beq y
  | 6 => un
  | _ => !un

/-- The class bit of a value: its code is needed to tell a signalling NaN from a quiet one (R195). -/
def floatClass (f : Fmt) (code : Nat) (x : Num) : Nat :=
  match x with
  | .inf s => if s then 1 else 2 ^ 7
  | .nan => if (code / 2 ^ (f.mbits - 1)) % 2 = 1 then 2 ^ 9 else 2 ^ 8
  | .fin s n d =>
    if n = 0 then (if s then 2 ^ 3 else 2 ^ 4)
    else
      let (a, b) := ratPow 1 (1 - (f.bias : Int))
      if n * b < d * a then (if s then 2 ^ 2 else 2 ^ 5) else (if s then 2 ^ 1 else 2 ^ 6)

/-- Sum and carry out of `a + b + k` (R189). -/
def addCarry {w : Nat} (a b : BitVec w) (k : Bool) : BitVec w × Bool :=
  let t := a.toNat + b.toNat + k.toNat
  (BitVec.ofNat w t, decide (2 ^ w ≤ t))

/-- CHKINT of a group (R54). -/
structure ChkInt where
  poison : Bool
  multi : Bool
  firstVa : BitVec 48
  /-- The word that FIRSTVA names, by the number it took at issue (R390). -/
  word : Nat
  deriving DecidableEq, Repr

/-- CHKINT at group start. -/
def ChkInt.clear : ChkInt := ⟨false, false, 0, 0⟩
/-- CHKINT as the special register reads it (R54). -/
def ChkInt.read (c : ChkInt) : W64 :=
  (c.firstVa ++ (0 : BitVec 14) ++ BitVec.ofBool c.multi ++ BitVec.ofBool c.poison)
/-- Poison consumed by word `n`: the first sets POISON, a further one MULTI; FIRSTVA is the first such word's in program
order (R54, R390). -/
def ChkInt.consume (c : ChkInt) (n : Nat) (va : W64) : ChkInt :=
  if c.poison then (if n < c.word then { c with multi := true, firstVa := va.truncate 48, word := n } else { c with multi := true })
  else { c with poison := true, firstVa := va.truncate 48, word := n }
/-- Write-1-to-clear; FIRSTVA clears when POISON becomes 0 (R55). -/
def ChkInt.writeClear (c : ChkInt) (v : W64) : ChkInt :=
  let p := c.poison && !v.getLsbD 0
  ⟨p, c.multi && !v.getLsbD 1, if p then c.firstVa else 0, if p then c.word else 0⟩

end Sys2Proof
end

