-- ==== Sys2Proof/Syntax.lean ====
section
/-! DEFINITION. The instructions: one constructor for each row of the opcode table.
The words of the cores (05), the queue bytecode (12), the commands of the system command port (01, R15–R18)
and the steps the device takes on its own (95). -/

namespace Sys2Proof

/-- The special registers, in the order of their codes 0x170–0x17B (R53). -/
inductive SReg where
  | exec | plane | pmask | lane | group | wg | nbh | sched | chkint | cycle | time | role
  deriving DecidableEq, Repr

/-- The causes the device reports (R170, R174–R179). -/
inductive Cause where
  | illClass | illOpc | illOperand | illPair | illMod | planeSplit | planeRange | briRange | stackOvf |
  extMissing | offsetRange | stackUnder | tretState | csrIndex | trapSw | pfNotPresent | pfWrite | pfExec |
  ptBad | accessKey | alignAtomic | splitAttr | atomicPath | scratchRange | nbhWindow | updSpan | addrCanon |
  hostAbort | poisonConsumed | idivZero | texDesc | hgDesc | bvhNode | meshOvf | barIndex | barOver |
  bytesOver | copyFault | monAddr | macroState | qbBudget | qbVerify | bindRefused | redStoreMismatch |
  redLoadMismatch | redRetryFail | redSlackTimeout | sigMismatch | matSelfcheck | auditMismatch | quarantine |
  selftestFail | dramUeEvict | dramUe | tdispLockedWrite | debugDenied | pasidClosing | relocRange | imageSig
  | pageHash | imageDesc
  deriving DecidableEq, Repr

/-- An operand of a full word (R115). An inline integer holds its code less 0x180, so its value is that less 32. -/
inductive Opnd where
  | v (n : BitVec 8)
  | s (n : BitVec 6)
  | p (n : Fin 48)
  | sr (r : SReg)
  | imm (k : BitVec 6)
  deriving DecidableEq, Repr

/-- A guard field as written (R114). -/
structure Guard where
  neg : Bool
  idx : BitVec 6
  deriving DecidableEq, Repr

/-- The fields of an RRR or TILE word (R118, R122). A tile number stands in an operand field as its code 0–7. -/
structure RRR where
  g : Guard
  d : Opnd
  a : Opnd
  b : Opnd
  c : Opnd
  m : BitVec 9
  deriving DecidableEq, Repr

/-- The fields of CVT, whose b field is the second modifier field CMOD (R199). -/
structure CVTW where
  g : Guard
  d : Opnd
  a : Opnd
  cm : BitVec 9
  c : Opnd
  m : BitVec 9
  deriving DecidableEq, Repr

/-- The fields of an RI word; `ext` is the immediate part of an extension word that follows it (R112, R118). -/
structure RI where
  g : Guard
  d : Opnd
  a : Opnd
  imm : BitVec 27
  ext : Option (BitVec 37)
  deriving DecidableEq, Repr

/-- The fields of a BR word (R118, R120). -/
structure BR where
  g : Guard
  target : BitVec 24
  join : BitVec 21
  deriving DecidableEq, Repr

/-- The fields of a MEM word (R118, R121). -/
structure MEM where
  g : Guard
  d : Opnd
  base : Opnd
  ofs : BitVec 18
  m : BitVec 9
  deriving DecidableEq, Repr

/-- The half-opcodes of a pair word (R128). -/
inductive HOp where
  | hnop | mov | iadd | isub | and | or | xor | shl | shr | sar | imin | imax
  | fadd | fsub | fmul | fmin | fmax | cvtF32S32 | cvtS32F32 | hadd2 | hmul2
  | movi | iaddi | shli | shri | sari | andi
  deriving DecidableEq, Repr

/-- A half of a pair word (R123). -/
structure Half where
  op : HOp
  neg : Bool
  idx : BitVec 3
  d : BitVec 8
  a : BitVec 8
  m : BitVec 4
  deriving DecidableEq, Repr

/-- Every operation and event of the part. A command carries the address of its block; a device step carries the
numbers that say which group, access, command or record it is about. -/
inductive Instr where
  /-- NOP (R146): Spends one issue of its plane and changes nothing. -/
  | nop (w : RRR)
  /-- PNOP (R146): Plane no-operation that spends no issue; an offset whose occupied planes all hold PNOP advances for free. -/
  | pnop
  /-- BRA (R147): Congruent branch that sets OFFSET to o + target for the whole group. -/
  | bra (w : BR)
  /-- BRC (R148): Congruent conditional branch that splits lanes into paths and pushes divergence entries toward the join. -/
  | brc (w : BR)
  /-- BRI (R149): Congruent indirect branch that reads a jump table and sends each lane to its entry's target. -/
  | bri (w : RRR)
  /-- CALL (R150): Pushes a call frame and transfers to o + target with CJ cleared. -/
  | call (w : BR)
  /-- RET (R151): Parks the returning lanes in the top call frame and pops it once no callee paths remain. -/
  | ret (w : RRR)
  /-- EXIT (R152): Removes the guarded active lanes from LIVE and EXEC and continues or resumes another path. -/
  | exit (w : RRR)
  /-- PSET (R154): Sets PLANE of the guarded active lanes from a register value, effective from the next offset. -/
  | pset (w : RRR)
  /-- PSETI (R154): Sets PLANE of the guarded active lanes from an immediate, effective from the next offset. -/
  | pseti (w : RI)
  /-- VOTE (R155): Congruent ballot, any, all or uniformity vote over the participating lanes. -/
  | vote (w : RRR)
  /-- LSHF (R156): Congruent lane shuffle that moves values between participating lanes. -/
  | lshf (w : RRR)
  /-- LRED (R157): Congruent fixed-tree reduction of a vector over the participants. -/
  | lred (w : RRR)
  /-- PLOG (R158): Sets a predicate from a three-input truth table of predicates. -/
  | plog (w : RRR)
  /-- PMOV (R159): Moves values between predicates, vectors and uniform registers. -/
  | pmov (w : RRR)
  /-- TRAP (R162): Raises TRAP_SW with a software code if any active lane's guard is true. -/
  | trap (w : RI)
  /-- TRET (R163): Returns from a trap handler by popping the trap frame and resuming at the recorded offset and planes. -/
  | tret (w : RRR)
  /-- CSRR (R164): Reads a control and status register into a uniform register. -/
  | csrr (w : RI)
  /-- CSRW (R164): Writes a control and status register, such as TRESUME. -/
  | csrw (w : RI)
  /-- CLOCK (R165): Samples TIME and CYCLE, or with .until holds the group until TIME reaches a value first. -/
  | clock (w : RRR)
  /-- CLOCK_UNTIL_EXPIRY (R165): The CLOCK.until hold ends when TIME reaches the target and the clock values are sampled. -/
  | clockUntilExpiry (core slot : Nat)
  /-- CHKERR (R166): Waits for earlier loads and replays, then reports or traps on consumed poison. -/
  | chkerr (w : RRR)
  /-- PHASE (R167): Holds the group until every group of the neighbourhood reaches the same PHASE, then the selector updates SCHED and releases them. -/
  | phase (w : RRR)
  /-- CKPT (R168): Takes a checkpoint in a redundant launch once earlier stores are matched, otherwise does nothing. -/
  | ckpt (w : RRR)
  /-- PREFC (R169): Requests the code rows of up to 64 pages to be loaded or brought toward the core. -/
  | prefc (w : RI)
  /-- IADD (R189): Integer add, wrapping or saturating. -/
  | iadd (w : RRR)
  /-- ISUB (R189): Integer subtract, wrapping or saturating. -/
  | isub (w : RRR)
  /-- IMUL (R189): Low half of an integer product. -/
  | imul (w : RRR)
  /-- IMULH (R189): High half of the exact signed or unsigned product. -/
  | imulh (w : RRR)
  /-- IMAD (R189): Integer multiply-add modulo the width. -/
  | imad (w : RRR)
  /-- IMADW (R189): Widening 32×32 multiply plus a 64-bit addend. -/
  | imadw (w : RRR)
  /-- IDIV (R190): Integer division truncating toward zero, trapping IDIV_ZERO on a zero divisor. -/
  | idiv (w : RRR)
  /-- IREM (R190): Integer remainder taking the sign of the dividend, trapping IDIV_ZERO on a zero divisor. -/
  | irem (w : RRR)
  /-- IMIN (R189): Smaller of two integers in signed or unsigned order. -/
  | imin (w : RRR)
  /-- IMAX (R189): Larger of two integers in signed or unsigned order. -/
  | imax (w : RRR)
  /-- IABS (R189): Integer absolute value, optionally saturating. -/
  | iabs (w : RRR)
  /-- INEG (R189): Integer negation, optionally saturating. -/
  | ineg (w : RRR)
  /-- ICMP (R189): Integer compare writing a predicate. -/
  | icmp (w : RRR)
  /-- IADDC (R189): Add or subtract with carry in and carry out through one predicate. -/
  | iaddc (w : RRR)
  /-- AND (R191): Bitwise AND. -/
  | and (w : RRR)
  /-- OR (R191): Bitwise OR. -/
  | or (w : RRR)
  /-- XOR (R191): Bitwise exclusive OR. -/
  | xor (w : RRR)
  /-- ANDN (R191): Bitwise a AND NOT b. -/
  | andn (w : RRR)
  /-- NOT (R191): Bitwise complement. -/
  | not (w : RRR)
  /-- SHL (R191): Logical shift left. -/
  | shl (w : RRR)
  /-- SHR (R191): Logical shift right. -/
  | shr (w : RRR)
  /-- SAR (R191): Arithmetic shift right. -/
  | sar (w : RRR)
  /-- ROL (R191): Rotate left. -/
  | rol (w : RRR)
  /-- BFX (R191): Bit-field extract, sign- or zero-extended. -/
  | bfx (w : RRR)
  /-- BFI (R191): Bit-field insert. -/
  | bfi (w : RRR)
  /-- POPC (R191): Population count. -/
  | popc (w : RRR)
  /-- CLZ (R191): Count leading zeros. -/
  | clz (w : RRR)
  /-- CTZ (R191): Count trailing zeros. -/
  | ctz (w : RRR)
  /-- BREV (R191): Bit reversal. -/
  | brev (w : RRR)
  /-- PERMB (R192): Byte permute with sign replication from eight source bytes. -/
  | permb (w : RRR)
  /-- SEL (R192): Per-lane select by a predicate. -/
  | sel (w : RRR)
  /-- LEA (R192): 64-bit address add with an extended, shifted index. -/
  | lea (w : RRR)
  /-- MOV (R192): Register move, including writes of EXEC and CHKINT. -/
  | mov (w : RRR)
  /-- MOVI (R192): Moves a 64-bit immediate taken with its required extension word. -/
  | movi (w : RI)
  /-- DOT4 (R192): Four-way byte dot product plus an accumulator. -/
  | dot4 (w : RRR)
  /-- IADD_RI (R193): RI form of IADD with an immediate operand. -/
  | iaddRi (w : RI)
  /-- ISUB_RI (R193): RI form of ISUB. -/
  | isubRi (w : RI)
  /-- IMUL_RI (R193): RI form of IMUL. -/
  | imulRi (w : RI)
  /-- IMIN_RI (R193): RI form of IMIN. -/
  | iminRi (w : RI)
  /-- IMAX_RI (R193): RI form of IMAX. -/
  | imaxRi (w : RI)
  /-- ICMP_RI (R193): RI form of ICMP, comparing for equality only. -/
  | icmpRi (w : RI)
  /-- AND_RI (R193): RI form of AND. -/
  | andRi (w : RI)
  /-- OR_RI (R193): RI form of OR. -/
  | orRi (w : RI)
  /-- XOR_RI (R193): RI form of XOR. -/
  | xorRi (w : RI)
  /-- SHL_RI (R193): RI form of SHL, count from immediate bits [7:0]. -/
  | shlRi (w : RI)
  /-- SHR_RI (R193): RI form of SHR. -/
  | shrRi (w : RI)
  /-- SAR_RI (R193): RI form of SAR. -/
  | sarRi (w : RI)
  /-- ROL_RI (R193): RI form of ROL. -/
  | rolRi (w : RI)
  /-- LEA_RI (R193): RI form of LEA adding the whole signed 64-bit immediate. -/
  | leaRi (w : RI)
  /-- MOV_RI (R193): RI form of MOV with an immediate source. -/
  | movRi (w : RI)
  /-- FADD (R195): Floating-point add rounded once. -/
  | fadd (w : RRR)
  /-- FSUB (R195): Floating-point subtract rounded once. -/
  | fsub (w : RRR)
  /-- FMUL (R195): Floating-point multiply rounded once. -/
  | fmul (w : RRR)
  /-- FFMA (R195): Fused multiply-add rounded once. -/
  | ffma (w : RRR)
  /-- FMIN (R195): IEEE minimumNumber. -/
  | fmin (w : RRR)
  /-- FMAX (R195): IEEE maximumNumber. -/
  | fmax (w : RRR)
  /-- FCMP (R196): Floating-point compare writing a predicate. -/
  | fcmp (w : RRR)
  /-- FCLASS (R195): Classifies a value into a one-hot class mask. -/
  | fclass (w : RRR)
  /-- FRND (R195): Rounds to an integral value by the rounding mode. -/
  | frnd (w : RRR)
  /-- FRCP (R101): Correctly rounded reciprocal. -/
  | frcp (w : RRR)
  /-- FRSQ (R101): Correctly rounded reciprocal square root. -/
  | frsq (w : RRR)
  /-- FSQRT (R101): Correctly rounded square root. -/
  | fsqrt (w : RRR)
  /-- FDIV (R101): Correctly rounded division. -/
  | fdiv (w : RRR)
  /-- FEXP2 (R101): Correctly rounded base-2 exponential. -/
  | fexp2 (w : RRR)
  /-- FLOG2 (R101): Correctly rounded base-2 logarithm. -/
  | flog2 (w : RRR)
  /-- FSINR (R101): Correctly rounded sin(2πx). -/
  | fsinr (w : RRR)
  /-- FCOSR (R101): Correctly rounded cos(2πx). -/
  | fcosr (w : RRR)
  /-- FSCALE (R195): Multiplies by 2^k with k an integer register, rounded once. -/
  | fscale (w : RRR)
  /-- HADD2 (R197): Packed 16-bit floating-point add. -/
  | hadd2 (w : RRR)
  /-- HMUL2 (R197): Packed 16-bit floating-point multiply. -/
  | hmul2 (w : RRR)
  /-- HFMA2 (R197): Packed 16-bit fused multiply-add. -/
  | hfma2 (w : RRR)
  /-- HMIN2 (R197): Packed 16-bit minimumNumber. -/
  | hmin2 (w : RRR)
  /-- HMAX2 (R197): Packed 16-bit maximumNumber. -/
  | hmax2 (w : RRR)
  /-- HCMP2 (R197): Packed 16-bit compare writing element masks. -/
  | hcmp2 (w : RRR)
  /-- FADD_RI (R198): RI form of FADD with an FP32 immediate. -/
  | faddRi (w : RI)
  /-- FMUL_RI (R198): RI form of FMUL with an FP32 immediate. -/
  | fmulRi (w : RI)
  /-- FFMA_RI (R198): RI form of FFMA computing d = a·imm + d. -/
  | ffmaRi (w : RI)
  /-- FMIN_RI (R198): RI form of FMIN. -/
  | fminRi (w : RI)
  /-- FMAX_RI (R198): RI form of FMAX. -/
  | fmaxRi (w : RI)
  /-- FCMP_RI (R198): RI form of FCMP, comparing for equality only. -/
  | fcmpRi (w : RI)
  /-- CVT (R200): Converts between integer and floating-point formats with rounding and saturation. -/
  | cvt (w : CVTW)
  /-- CVTP (R201): Converts two FP32 values and packs them into a narrow-format position. -/
  | cvtp (w : RRR)
  /-- QNB8 (R202): Quantises eight FP32 values per lane into an NB8 block and its scale. -/
  | qnb8 (w : RRR)
  /-- DQNB8 (R202): Dequantises an NB8 block to eight FP32 values. -/
  | dqnb8 (w : RRR)
  /-- QMX (R203): Quantises an MX block across the lanes of its issue. -/
  | qmx (w : RRR)
  /-- DQMX (R203): Dequantises an MX element by its E8M0 scale. -/
  | dqmx (w : RRR)
  /-- SMAX (R204): Produces block exponents or NB8 scales for the two-phase reduction. -/
  | smax (w : RRR)
  /-- CVTFX (R205): Fixes an FP32 contribution at the common exponent as .s32. -/
  | cvtfx (w : RRR)
  /-- CVTXF (R205): Converts an integer sum back to FP32 at the common exponent. -/
  | cvtxf (w : RRR)
  /-- PAIR_WORD (R125): Issues a pair word: both halves read their sources, then each writes its destination in its guarded lanes. -/
  | pairWord (h0 h1 : Half)
  /-- LD (R210): Lane-wise load, optionally acquiring at a scope. -/
  | ld (w : MEM)
  /-- LDU (R210): Load of one element into a uniform register. -/
  | ldu (w : MEM)
  /-- ST (R211): Lane-wise store, optionally releasing at a scope. -/
  | st (w : MEM)
  /-- STU (R211): One store of a uniform or inline value. -/
  | stu (w : MEM)
  /-- UPD (R215): Sends one update unit per participating lane with no return. -/
  | upd (w : MEM)
  /-- UPDR (R215): Sends update units and returns each element's prior value. -/
  | updr (w : MEM)
  /-- UCAS (R216): Compare-and-swap update returning the old value. -/
  | ucas (w : MEM)
  /-- VISMAX (R217): Unsigned 64-bit maximum update for visibility entries. -/
  | vismax (w : MEM)
  /-- FENCE (R219): Orders the group's accesses at a scope, optionally waiting for its copies and units. -/
  | fence (w : RRR)
  /-- RFENCE (R220): Range fence that orders, writes back and invalidates lines of a byte range. -/
  | rfence (w : RRR)
  /-- PREF (R221): Brings lines toward the L1 or memory-side cache without faulting. -/
  | pref (w : MEM)
  /-- DISCARD (R222): Drops cache lines without write-back. -/
  | discard (w : MEM)
  /-- CPY (R225): Queues a linear copy reported through a token. -/
  | cpy (w : RRR)
  /-- CPYG (R225): Queues a gather copy of indexed rows. -/
  | cpyg (w : RRR)
  /-- CPYS (R225): Queues a scatter copy to indexed rows. -/
  | cpys (w : RRR)
  /-- CPYT (R225): Queues a strided tensor copy, packing or unpacking. -/
  | cpyt (w : RRR)
  /-- QFENCE (R232): Places a join in an engine queue behind earlier commands of named queues. -/
  | qfence (w : RRR)
  /-- COLL (R233): Queues a collective over a communicator. -/
  | coll (w : RRR)
  /-- BINIT (R236): Initialises a barrier object's arrival and byte expectations. -/
  | binit (w : RRR)
  /-- ARRIVE (R236): Adds arrivals to a barrier object with a release. -/
  | arrive (w : RRR)
  /-- EXPECT (R236): Raises a barrier object's byte expectation. -/
  | expect (w : RRR)
  /-- WAITP (R236): Holds the group until a phase has passed, then acquires. -/
  | waitp (w : RRR)
  /-- BPOLL (R236): Reads a barrier object's phase and whether a phase has passed. -/
  | bpoll (w : RRR)
  /-- MONA (R238): Arms a monitor on an 8-byte word that adds an arrival on a write or timeout. -/
  | mona (w : RRR)
  /-- MONA_CANCEL (R240): Removes the group's pending monitor or timer on a word and reports whether its arrival was withdrawn. -/
  | monaCancel (w : RRR)
  /-- BLD (R254): Queues a load of B from scratchpad into a CIM slot. -/
  | bld (w : RRR)
  /-- MMA (R255): Queues an accumulate of A·B into a tile by K-steps. -/
  | mma (w : RRR)
  /-- MMAP (R256): Queues a K-step that writes exact partials to the partials buffer. -/
  | mmap (w : RRR)
  /-- MSA (R257): Queues a scaled fold of the partials into a tile. -/
  | msa (w : RRR)
  /-- MZERO (R258): Queues zeroing of a tile or region. -/
  | mzero (w : RRR)
  /-- MDR (R260): Queues a drain of a tile region with conversion, requantisation or add. -/
  | mdr (w : RRR)
  /-- MMOV (R259): Queues a tile-to-tile region copy or a scratchpad load into a tile. -/
  | mmov (w : RRR)
  /-- MMT (R264): Queues a whole matrix multiply on the sequencer under a K-step budget. -/
  | mmt (w : RRR)
  /-- MRES (R266): Continues or aborts a held MMT sequencer. -/
  | mres (w : RRR)
  /-- MCHK (R268): Turns the rotated self-check on or off for later commands. -/
  | mchk (w : RRR)
  /-- MSTAT (R267): Reads the matrix engine status, optionally waiting for queued commands. -/
  | mstat (w : RRR)
  /-- TEX (R281): Filtered texture sample with level selection. -/
  | tex (w : RRR)
  /-- TLD (R282): Unfiltered texel load. -/
  | tld (w : RRR)
  /-- TGATH (R283): Gathers one channel of the four bilinear corners. -/
  | tgath (w : RRR)
  /-- TDIM (R284): Reports a level's dimensions from the descriptor. -/
  | tdim (w : RRR)
  /-- IST (R285): Stores one texel per lane with format conversion. -/
  | ist (w : RRR)
  /-- HGF (R287): Fetches interpolated multi-level hash-grid features. -/
  | hgf (w : RRR)
  /-- HGS (R290): Scatters hash-grid gradients as combined update units. -/
  | hgs (w : RRR)
  /-- RBOX (R293): Tests the four child boxes of a BVH node against a ray. -/
  | rbox (w : RRR)
  /-- RTRI (R294): Tests a leaf's triangles and updates the ray state. -/
  | rtri (w : RRR)
  /-- MVTX (R295): Writes words of a mesh output vertex. -/
  | mvtx (w : RRR)
  /-- MPRIM (R295): Writes a mesh output primitive. -/
  | mprim (w : RRR)
  /-- MCOMMIT (R297): Hands the workgroup's vertices and primitives to the rasteriser. -/
  | mcommit (w : RRR)
  /-- QB_LDB (R305): Loads one byte from a window. -/
  | qbLdb (d : BitVec 4) (a : BitVec 4) (w : BitVec 4) (o : BitVec 14)
  /-- QB_LDH (R305): Loads two bytes from a window. -/
  | qbLdh (d : BitVec 4) (a : BitVec 4) (w : BitVec 4) (o : BitVec 14)
  /-- QB_LDW (R305): Loads four bytes from a window. -/
  | qbLdw (d : BitVec 4) (a : BitVec 4) (w : BitVec 4) (o : BitVec 14)
  /-- QB_LDD (R305): Loads eight bytes from a window. -/
  | qbLdd (d : BitVec 4) (a : BitVec 4) (w : BitVec 4) (o : BitVec 14)
  /-- QB_STB (R305): Stores one byte to a writable window. -/
  | qbStb (d : BitVec 4) (a : BitVec 4) (w : BitVec 4) (o : BitVec 14)
  /-- QB_STH (R305): Stores two bytes to a writable window. -/
  | qbSth (d : BitVec 4) (a : BitVec 4) (w : BitVec 4) (o : BitVec 14)
  /-- QB_STW (R305): Stores four bytes to a writable window. -/
  | qbStw (d : BitVec 4) (a : BitVec 4) (w : BitVec 4) (o : BitVec 14)
  /-- QB_STD (R305): Stores eight bytes to a writable window. -/
  | qbStd (d : BitVec 4) (a : BitVec 4) (w : BitVec 4) (o : BitVec 14)
  /-- QB_ADD (R304): 64-bit add. -/
  | qbAdd (d : BitVec 4) (a : BitVec 4) (b : BitVec 4)
  /-- QB_SUB (R304): 64-bit subtract. -/
  | qbSub (d : BitVec 4) (a : BitVec 4) (b : BitVec 4)
  /-- QB_AND (R304): Bitwise AND. -/
  | qbAnd (d : BitVec 4) (a : BitVec 4) (b : BitVec 4)
  /-- QB_OR (R304): Bitwise OR. -/
  | qbOr (d : BitVec 4) (a : BitVec 4) (b : BitVec 4)
  /-- QB_XOR (R304): Bitwise XOR. -/
  | qbXor (d : BitVec 4) (a : BitVec 4) (b : BitVec 4)
  /-- QB_SHL (R304): Shift left by a register mod 64. -/
  | qbShl (d : BitVec 4) (a : BitVec 4) (b : BitVec 4)
  /-- QB_SHR (R304): Logical shift right by a register mod 64. -/
  | qbShr (d : BitVec 4) (a : BitVec 4) (b : BitVec 4)
  /-- QB_MUL (R304): Low 64 bits of a product. -/
  | qbMul (d : BitVec 4) (a : BitVec 4) (b : BitVec 4)
  /-- QB_ADDI (R304): Add of a sign-extended 18-bit immediate. -/
  | qbAddi (d : BitVec 4) (a : BitVec 4) (i : BitVec 18)
  /-- QB_ANDI (R304): AND with a zero-extended immediate. -/
  | qbAndi (d : BitVec 4) (a : BitVec 4) (i : BitVec 18)
  /-- QB_ORI (R304): OR with a zero-extended immediate. -/
  | qbOri (d : BitVec 4) (a : BitVec 4) (i : BitVec 18)
  /-- QB_XORI (R304): XOR with a zero-extended immediate. -/
  | qbXori (d : BitVec 4) (a : BitVec 4) (i : BitVec 18)
  /-- QB_SHLI (R304): Shift left by an immediate 0–63. -/
  | qbShli (d : BitVec 4) (a : BitVec 4) (s : BitVec 6)
  /-- QB_SHRI (R304): Logical shift right by an immediate 0–63. -/
  | qbShri (d : BitVec 4) (a : BitVec 4) (s : BitVec 6)
  /-- QB_MOVI (R304): Moves a sign-extended 18-bit immediate. -/
  | qbMovi (d : BitVec 4) (i : BitVec 18)
  /-- QB_SHLOR (R304): Shifts a register left by 18 and ORs in an immediate. -/
  | qbShlor (d : BitVec 4) (i : BitVec 18)
  /-- QB_CEQ (R304): Sets 1 if equal, otherwise 0. -/
  | qbCeq (d : BitVec 4) (a : BitVec 4) (b : BitVec 4)
  /-- QB_CNE (R304): Sets 1 if not equal, otherwise 0. -/
  | qbCne (d : BitVec 4) (a : BitVec 4) (b : BitVec 4)
  /-- QB_CLTU (R304): Sets 1 if less, unsigned. -/
  | qbCltu (d : BitVec 4) (a : BitVec 4) (b : BitVec 4)
  /-- QB_CLTS (R304): Sets 1 if less, signed. -/
  | qbClts (d : BitVec 4) (a : BitVec 4) (b : BitVec 4)
  /-- QB_BZ (R304): Forward branch if a register is zero. -/
  | qbBz (a : BitVec 4) (i : BitVec 18)
  /-- QB_BNZ (R304): Forward branch if a register is nonzero. -/
  | qbBnz (a : BitVec 4) (i : BitVec 18)
  /-- QB_JMP (R304): Unconditional forward jump. -/
  | qbJmp (i : BitVec 18)
  /-- QB_LOOP (R306): Runs a body a bounded number of times. -/
  | qbLoop (a : BitVec 4) (n : BitVec 6) (l : BitVec 12)
  /-- QB_LIDX (R304): Reads the innermost loop's iteration index. -/
  | qbLidx (d : BitVec 4)
  /-- LAUNCH (R308): Firmware service that passes a launch request and waits for the verdict. -/
  | launch (d : BitVec 4)
  /-- SIGNAL (R308): Firmware service that stores a value with a sys-scope release and optionally sends MSI-X. -/
  | signal (d : BitVec 4)
  /-- HASH (R308): Firmware service that initialises, absorbs into or finishes a SHA-384 context. -/
  | hash (d : BitVec 4)
  /-- SIGN (R308): Firmware service that signs a digest with the device attestation key. -/
  | sign (d : BitVec 4)
  /-- RANDOM (R308): Firmware service that writes DRBG bytes. -/
  | random (d : BitVec 4)
  /-- DOESEND (R308): Firmware service that places a DOE response object in the slot's mailbox. -/
  | doesend (d : BitVec 4)
  /-- MEASREAD (R308): Firmware service that copies a measurement slot. -/
  | measread (d : BitVec 4)
  /-- EMIT (R307): Passes a 64-byte launch request from a window to dispatch with a dev-scope release. -/
  | emit (a : BitVec 4) (w : BitVec 4) (o : BitVec 14)
  /-- HALT (R302): Ends the packet as consumed with a sys-scope release. -/
  | halt
  /-- FAULT (R302): Ends the packet as failed with the program's code. -/
  | fault (i : BitVec 18)
  /-- PACKET_START (R302): A mapped queue slot acquires and starts running the packet at HEAD. -/
  | packetStart (hw : Nat)
  /-- DOORBELL_WRITE (R353): An aligned 8-byte doorbell write updates a queue's TAIL or marks OVERRUN. -/
  | doorbellWrite (addr : BitVec 48) (value : W64)
  /-- MANIFEST_VERIFY (R29): Verifies the signed manifest, copies it and the firmware, writes digests and latches the lists. -/
  | manifestVerify (blk : W64)
  /-- MEAS_EXTEND (R33): Extends a measurement slot with a 48-byte value under the slot's owner rules. -/
  | measExtend (blk : W64)
  /-- LANTERN_LOAD (R34): Reads and verifies the Lantern section and loads it into Lantern. -/
  | lanternLoad (blk : W64)
  /-- LANTERN_SHOW (R437): Arms or hides the camera route on a pipe and starts the sensor and link. -/
  | lanternShow (blk : W64)
  /-- DRAM_TRAIN (R18): Trains the masked DRAM channels and retires the rest. -/
  | dramTrain (blk : W64)
  /-- PITCH_CFG (R19): Configures or reissues a pitch's cores, ways, shares, slots, key and save area. -/
  | pitchCfg (blk : W64)
  /-- PITCH_REMOVE (R19): PITCH_CFG with REMOVE unconfigures an Open idle pitch and zeroes its keys. -/
  | pitchRemove (blk : W64)
  /-- PITCH_CORE_CLEARED (R82): A PITCH_CFG that dropped a busy core writes its status once the core holds nothing of the pitch. -/
  | pitchCoreCleared
  /-- QPROG_LOAD (R310): Checks and loads a queue program into a slot number and extends slot 4. -/
  | qprogLoad (blk : W64)
  /-- IMAGE_MAP (R41): Resolves relocations and writes flash-pending page-table entries for a kernel image. -/
  | imageMap (blk : W64)
  /-- TLB_INVAL (R386): Removes translations of a range everywhere and waits for accesses using them. -/
  | tlbInval (blk : W64)
  /-- PASID_SET (R414): Creates or replaces a PASID context. -/
  | pasidSet (blk : W64)
  /-- PASID_CLOSE (R417): PASID_SET with CLOSE starts the teardown of a PASID. -/
  | pasidClose (blk : W64)
  /-- PASID_DRAIN_ACK (R417): The base die's drain acknowledgement completes teardown and frees the context. -/
  | pasidDrainAck
  /-- COMM_CFG (R420): Defines a collective communicator of a pitch. -/
  | commCfg (blk : W64)
  /-- LINK_STAT (R421): Returns a port's width, mode and retrain count. -/
  | linkStat (blk : W64)
  /-- SURF_SET (R427): Binds or unbinds a surface to a pipe. -/
  | surfSet (blk : W64)
  /-- LAYER_SET (R429): Sets a layer and recomputes its reference signatures. -/
  | layerSet (blk : W64)
  /-- HUD_SET (R440): Sets a pipe's head-up warp and latch. -/
  | hudSet (blk : W64)
  /-- ERRREC_READ (R448): Copies an error record, optionally clearing it in the same step. -/
  | errrecRead (blk : W64)
  /-- FAULT_INJECT (R449): Plants, cancels or queries a vector-register fault injection. -/
  | faultInject (blk : W64)
  /-- GRAPH_SET (R459): Sets, enables or disables a work graph. -/
  | graphSet (blk : W64)
  /-- KEY_GRANT (R477): Grants a key slot to a pitch with a fresh key, or revokes and zeroes it. -/
  | keyGrant (blk : W64)
  /-- TDI_STATE_LOCK (R480): Moves an idle Open pitch to Locked with a fresh key and debug level 0. -/
  | tdiStateLock (blk : W64)
  /-- TDI_STATE_START (R480): Moves a Locked pitch to Run. -/
  | tdiStateStart (blk : W64)
  /-- TDI_STATE_STOP (R480): Returns a pitch to Open, through Error if needed, with a fresh key. -/
  | tdiStateStop (blk : W64)
  /-- TDI_STATE_ERROR (R480): Moves a pitch to Error, ending its work and zeroing its keys. -/
  | tdiStateError (blk : W64)
  /-- DEBUG_SET (R477): Sets an Open pitch's debug level. -/
  | debugSet (blk : W64)
  /-- DEBUG_CHALLENGE (R477): Writes and keeps a fresh 32-byte debug challenge. -/
  | debugChallenge (blk : W64)
  /-- DEBUG_TOKEN (R484): Checks a signed token and enters device debug level 3. -/
  | debugToken (blk : W64)
  /-- DEBUG_HALT (R486): Halts a group at its next offset boundary. -/
  | debugHalt (blk : W64)
  /-- DEBUG_STEP (R486): Lets a halted group finish its current offset and halt again. -/
  | debugStep (blk : W64)
  /-- DEBUG_RESUME (R486): Clears a group's halt. -/
  | debugResume (blk : W64)
  /-- POWER_SET_RUN (R477): POWER_SET requesting Run. -/
  | powerSetRun (blk : W64)
  /-- POWER_SET_STANDBY (R488): Stops queues, pre-empts work, takes ports down and puts DRAM in self-refresh for Standby. -/
  | powerSetStandby (blk : W64)
  /-- SVN_RAISE (R477): Burns MINSVN to a higher value. -/
  | svnRaise (blk : W64)
  /-- SCPSTAT_WRITE (R13): A write of 1 to BADBLOCK clears the sticky flag. -/
  | scpstatWrite (value : W64)
  /-- HOSTRDY_WRITE (R13): A write of 1 sets READY and reports the device ready to the host. -/
  | hostrdyWrite (value : W64)
  /-- REGISTER_WRITE (R13): A write to a register with no behaviour of its own, such as BOOTPROG, or an ignored access. -/
  | registerWrite (addr : BitVec 48) (size : Nat) (value : W64)
  /-- BIND_RECORD (R21): Writing VALID from 0 to 1 makes dispatch check a bind record and start or refuse it. -/
  | bindRecord (core entry : Nat)
  /-- SLOT_STATUS_WRITE (R360): A policy-core write to a slot-table status register clears COUNT. -/
  | slotStatusWrite (core : Nat)
  /-- LAUNCH_REQUEST (R357): The firmware takes a launch request, refuses it or copies it into a launch record. -/
  | launchRequest
  /-- WGSLICE_EXPIRY (R365): A resident workgroup's time-sharing slice runs out while an equal-priority one waits. -/
  | wgsliceExpiry (wg : Nat)
  /-- PREEMPT_WORKGROUP (R366): Stops a workgroup at offset boundaries, releases its stores and saves its context to the save area. -/
  | preemptWorkgroup (wg : Nat)
  /-- GROUP_SLOT_RELEASE (R153): An ended group's slot frees once all its accesses, copies, units and log entries are performed. -/
  | groupSlotRelease (core slot : Nat)
  /-- COMPLETION_RECORD (R362): When a workgroup ends its completion record is written with a sys-scope release. -/
  | completionRecord (wg : Nat)
  /-- RECORD_DISPATCH (R463): The dispatcher finds published records and launches a batch of them. -/
  | recordDispatch (pitch graph node : Nat)
  /-- RASTERISE_OUTPUT (R466): The rasteriser processes a handed mesh output and writes visibility entries. -/
  | rasteriseOutput
  /-- LOAD_RETURN (R209): A load's data returns and writes its pending destination, consuming poison if present. -/
  | loadReturn (acc : Nat)
  /-- UPDATE_UNIT_APPLY (R214): An update unit is applied indivisibly at its bank, slice or link target. -/
  | updateUnitApply (acc : Nat)
  /-- TRANSLATION_FAULT (R384): A walk ends without a usable entry and the access is logged in the operand log. -/
  | translationFault (acc : Nat)
  /-- PAGE_FAULT_SERVICE (R172): The firmware serves a logged fault in order of arrival or resolves it to a deferred cause. -/
  | pageFaultService (leaf : Option W64)
  /-- OPERAND_LOG_REPLAY (R324): Entries waiting on a served page replay in program order, performing all lanes or trapping. -/
  | operandLogReplay (acc : Nat)
  /-- PAGE_MIGRATION (R388): The firmware moves a page to a new physical page and replays waiters. -/
  | pageMigration (pasid : Nat) (va : BitVec 48) (frame : BitVec 48)
  /-- COPY_START (R231): A copy or collective starts when the command ahead of it in its queue has completed. -/
  | copyStart (cp : Nat)
  /-- COPY_COMPLETE (R227): A copy ends by success, fault or bad descriptor, credits its barrier and writes its token. -/
  | copyComplete (cp : Nat)
  /-- MATRIX_COMMAND_START (R245): A queued matrix command starts once the one ahead completes and its workgroup owns the engine. -/
  | matrixCommandStart (core : Nat)
  /-- MATRIX_COMMAND_COMPLETE (R246): A matrix command completes, or an MMT holds, and writes its token. -/
  | matrixCommandComplete (core : Nat)
  /-- MONITOR_FIRE (R238): A performed write covering a watched word adds the monitor's arrival and frees it. -/
  | monitorFire (mon : Nat)
  /-- MONITOR_TIMEOUT (R239): A monitor's or timer-only arrival's timeout expires and adds its arrival. -/
  | monitorTimeout (mon : Nat)
  /-- CORE_GATE (R325): After 64 idle cycles a core gates its pipe and register-file clocks. -/
  | coreGate (core : Nat)
  /-- CORE_WAKE_COMPLETE (R326): 48 cycles after the waking event the core issues again. -/
  | coreWakeComplete (core : Nat)
  /-- IDLE_ENTRY (R487): The device enters Idle automatically when every core is gated and nothing runs. -/
  | idleEntry
  /-- COMPARE_ENTRY (R330): A sweep signature reaches the compare buffer and matches a lead entry, which is performed once. -/
  | compareEntry (pair : Nat)
  /-- RED_SLACK_TIMEOUT (R341): An entry unmatched for 100 µs rolls the pair back as a mismatch. -/
  | redSlackTimeout (pair : Nat)
  /-- CHECKPOINT (R343): Both roles stop, drain and record their state as a new recovery point. -/
  | checkpoint (pair : Nat)
  /-- AUDIT_VERDICT (R452): At a replay's end the audit signatures are compared and a difference raises AUDIT_MISMATCH. -/
  | auditVerdict (audit : Nat)
  /-- SELFTEST_DONE (R438): LBIST, MBIST and the test kernel finish; the core returns to service or retires with SELFTEST_FAIL. -/
  | selftestDone (core : Nat) (pass : Bool)
  /-- FRAME_START (R427): A pipe's frame start advances FRAME, applies configuration, substitution and resumes held renders. -/
  | frameStart (pipe : Nat)
  /-- SIGNATURE_POLL (R432): The signature unit polls pending done words with dev-scope acquires. -/
  | signaturePoll (surface : Nat)
  /-- TILE_SIGNATURE_DONE (R422): A ready tile's signature is computed and compared with the other render's. -/
  | tileSignatureDone (surface tile : Nat)
  /-- TILE_DEADLINE (R433): A tile row's deadline arrives and any tile lacking a matching pair arms substitution as late. -/
  | tileDeadline (pipe row : Nat)
  /-- HUD_LATCH (R424): At a slice's latch line the head-up pipe reads the pose mailbox and sets SHIFT and ROT or skips. -/
  | hudLatch (pipe slice : Nat)
  /-- CAMERA_FRAME (R437): A complete sensor frame arrives for Lantern's camera route. -/
  | cameraFrame
  /-- LANTERN_STALL (R437): After 100 ms with no complete frame Lantern shows black with guide lines and sets STALL. -/
  | lanternStall (pipe : Nat)
  /-- PIPE_FAILOVER (R456): A failed display pipe's surface and link move to a free pipe. -/
  | pipeFailover (pipe : Nat)
  /-- ECC_SECTOR_REWRITE (R444): A corrected DRAM sector is rewritten corrected within 1 ms. -/
  | eccSectorRewrite (sector : Nat)
  /-- CHANNEL_FAILING (R455): A channel exceeding 16 uncorrectable sectors in 1 s is marked failing and its pages moved. -/
  | channelFailing (channel : Nat)
  /-- LINK_TRAINED (R413): Port 0 finishes link training and the management window starts answering. -/
  | linkTrained (port width mode : Nat)
  /-- LINK_RETRAIN (R421): A port with failed lanes retrains at the widest passing width. -/
  | linkRetrain (port width : Nat)
  /-- PORT_DOWN (R421): A port goes down and its outstanding requests complete with HOST_ABORT. -/
  | portDown (port : Nat)
  /-- IDE_INTEGRITY_FAILURE (R419): A received TLP fails integrity and its stream becomes insecure, putting its pitch in Error. -/
  | ideIntegrityFailure (stream : Nat)
  /-- ATS_INVALIDATE_REQUEST (R415): A host ATS invalidation takes the TLB_INVAL path before its completion is sent. -/
  | atsInvalidateRequest (pasid : Nat) (va : BitVec 48) (len : Nat)
  /-- ATS_TRANSLATION_COMPLETION (R415): A host translation answer is cached or sends a Page Request. -/
  | atsTranslationCompletion (req : Nat) (entry : Option W64)
  /-- PAGE_REQUEST_RESPONSE (R415): A Page Request Group Response replays or fails the held access. -/
  | pageRequestResponse (req : Nat) (ok : Bool)
  /-- HOST_ATOMIC (R418): A host AtomicOp to device memory is applied at the slice as a one-element unit. -/
  | hostAtomic (addr : BitVec 48) (op size : Nat) (v cmp : BitVec 128)
  /-- DOE_REQUEST (R471): A type 1 DOE object is written into the pinned queue's ring and TAIL advances. -/
  | doeRequest (words : List W32)
  /-- DOE_DISCOVERY (R471): The mailbox answers a discovery object itself. -/
  | doeDiscovery (words : List W32)
  /-- DOE_RESPONSE_READ (R471): The host reads the response object and the mailbox accepts a new request. -/
  | doeResponseRead
  /-- DOE_ABORT (R472): A DOE Abort discards the response object. -/
  | doeAbort
  /-- POWER_GOOD (R25): Power-good rises and the boot sequence starts from reset. -/
  | powerGood
  /-- POWER_LOSS (R487): Loss of power-good takes the device to Off, losing keys and measurements. -/
  | powerLoss
  /-- WAKE_INPUT (R489): WAKE or a safety-core request brings the device out of Standby without the boot program. -/
  | wakeInput
  /-- POWER_MANAGER_CLOCKS (R2): When a workload would exceed the module power ceiling, the power manager lowers the compute-die clocks. -/
  | powerManagerClocks (half : Bool)
  /-- BACK_INVALIDATION (R373): A host write to a back-invalidation CXL shared-memory line arrives as a back-invalidation that removes every device copy of the line before any monitor arrival. -/
  | backInvalidation (line : BitVec 48) (data : List Byte)
  /-- HOST_OR_PEER_ACCESS (R396): A host or peer read or write over a port reaches device memory or the memory-side cache and is performed there. -/
  | hostOrPeerAccess (port : Nat) (addr : BitVec 48) (len : Nat) (data : Option (List Byte))
  /-- SERVED_TIME_WINDOW (R355): At the end of each 8 ms window every pitch's served time, used to break ties when mapping queues, is reset. -/
  | servedTimeWindow
  deriving DecidableEq, Repr

end Sys2Proof
end

