-- ==== Sys2Proof/Machine/Alu.lean ====
section
/-! DEFINITION. The per-lane integer, bit and floating-point functions of groups 1 to 3 (spec 08), free of any state. -/

namespace Sys2Proof

/-- An exact integer clamped to the type of width `w` that N selects, or wrapped without .sat (R189). -/
def narrow (w : Nat) (uns sat : Bool) (v : Int) : BitVec w :=
  if !sat then BitVec.ofInt w v
  else if uns then BitVec.ofInt w (max 0 (min (2 ^ w - 1) v))
  else BitVec.ofInt w (max (-(2 ^ (w - 1))) (min (2 ^ (w - 1) - 1) v))

/-- The integer an operand stands for. -/
def readAs {w : Nat} (uns : Bool) (a : BitVec w) : Int := if uns then a.toNat else a.toInt

/-- IADD and ISUB (R189). -/
def aluAdd {w : Nat} (uns sat : Bool) (a b : BitVec w) : BitVec w := narrow w uns sat (readAs uns a + readAs uns b)
@[inherit_doc aluAdd] def aluSub {w : Nat} (uns sat : Bool) (a b : BitVec w) : BitVec w :=
  narrow w uns sat (readAs uns a - readAs uns b)
/-- IMULH: the high half of the exact product (R189). -/
def aluMulh {w : Nat} (uns : Bool) (a b : BitVec w) : BitVec w :=
  BitVec.ofInt w ((readAs uns a * readAs uns b) / 2 ^ w)
/-- IDIV, with a nonzero divisor (R190). -/
def aluDiv {w : Nat} (uns : Bool) (a b : BitVec w) : BitVec w :=
  BitVec.ofInt w (Int.tdiv (readAs uns a) (readAs uns b))
/-- IREM, with a nonzero divisor (R190). -/
def aluRem {w : Nat} (uns : Bool) (a b : BitVec w) : BitVec w :=
  BitVec.ofInt w (Int.tmod (readAs uns a) (readAs uns b))
/-- IMIN and IMAX (R189). -/
def aluMin {w : Nat} (uns : Bool) (a b : BitVec w) : BitVec w := if intCond uns 2 b a then b else a
@[inherit_doc aluMin] def aluMax {w : Nat} (uns : Bool) (a b : BitVec w) : BitVec w := if intCond uns 2 a b then b else a
/-- IABS and INEG (R189). -/
def aluAbs {w : Nat} (sat : Bool) (a : BitVec w) : BitVec w := narrow w false sat a.toInt.natAbs
@[inherit_doc aluAbs] def aluNeg {w : Nat} (sat : Bool) (a : BitVec w) : BitVec w := narrow w false sat (-a.toInt)

/-- The shift count: bits [7:0] of the operand (R191). -/
def shiftCount {w : Nat} (b : BitVec w) : Nat := b.toNat % 256
/-- SHL (R191). -/
def aluShl {w : Nat} (a b : BitVec w) : BitVec w := a <<< shiftCount b
/-- SHR (R191). -/
def aluShr {w : Nat} (a b : BitVec w) : BitVec w := a >>> shiftCount b
/-- SAR (R191). -/
def aluSar {w : Nat} (a b : BitVec w) : BitVec w := a.sshiftRight (shiftCount b)
/-- ROL (R191). -/
def aluRol {w : Nat} (a b : BitVec w) : BitVec w := a.rotateLeft (shiftCount b % w)

/-- BFX (R191). -/
def aluBfx {w : Nat} (uns : Bool) (a : BitVec w) (pos len : Nat) : BitVec w :=
  if len = 0 ∨ w ≤ pos then 0 else
  let l := min len (w - pos)
  let x := (a.toNat / 2 ^ pos) % 2 ^ l
  if !uns ∧ 2 ^ (l - 1) ≤ x then BitVec.ofInt w ((x : Int) - 2 ^ l) else BitVec.ofNat w x
/-- BFI (R191). -/
def aluBfi {w : Nat} (a b : BitVec w) (pos len : Nat) : BitVec w :=
  if len = 0 ∨ w ≤ pos then b else
  let l := min len (w - pos)
  let m : BitVec w := BitVec.ofNat w (2 ^ l - 1) <<< pos
  (b &&& ~~~m) ||| ((a <<< pos) &&& m)
/-- POPC (R191). -/
def aluPopc {w : Nat} (a : BitVec w) : BitVec w :=
  BitVec.ofNat w ((List.range w).countP fun i => a.getLsbD i)
/-- CLZ (R191). -/
def aluClz {w : Nat} (a : BitVec w) : BitVec w :=
  if a.toNat = 0 then BitVec.ofNat w w else BitVec.ofNat w (w - 1 - a.toNat.log2)
/-- CTZ (R191). -/
def aluCtz {w : Nat} (a : BitVec w) : BitVec w :=
  BitVec.ofNat w (((List.range w).find? fun i => a.getLsbD i).getD w)
/-- BREV (R191). -/
def aluBrev {w : Nat} (a : BitVec w) : BitVec w := a.reverse

/-- Byte `k` of a word. -/
def byteOf {w : Nat} (a : BitVec w) (k : Nat) : Byte := a.extractLsb' (8 * k) 8
/-- Four bytes, the first lowest. -/
def word4 (b : Nat → Byte) : W32 := b 3 ++ b 2 ++ b 1 ++ b 0

/-- PERMB (R192). -/
def aluPermb (a b c : W32) : W32 :=
  word4 fun k =>
    let n := c.extractLsb' (4 * k) 4
    let x := byteOf (b ++ a) (n.toNat % 8)
    if n.getLsbD 3 then (if x.getLsbD 7 then 0xFF else 0) else x
/-- DOT4 (R192). -/
def aluDot4 (uns sat : Bool) (a b c : W32) : W32 :=
  let s := (List.range 4).foldl (fun s k => s + readAs uns (byteOf a k) * readAs uns (byteOf b k)) (0 : Int)
  narrow 32 uns sat (readAs uns c + s)
/-- The 32-bit operand of IMADW and LEA extended to 64 bits (R189, R192). -/
def ext64 (uns : Bool) (a : W32) : W64 := if uns then a.zeroExtend 64 else a.signExtend 64

/-! ### Floating point (R194–R198) -/

/-- How a group 2 word computes: format, rounding, flush (R194). -/
structure FMode where
  fmt : Fmt
  round : RMode
  ftz : Bool
  deriving DecidableEq, Repr

/-- The rounding modes of RM in [1:0] (R194). -/
def rmOf (n : Nat) : RMode := match n % 4 with | 0 => .near | 1 => .zero | 2 => .up | _ => .down
/-- FP32 to nearest, the mode of the RI forms (R198). -/
def FMode.plain : FMode := ⟨fp32, .near, false⟩
/-- The mode of a scalar group 2 word (R194). -/
def FMode.scalar (m : BitVec 9) : FMode :=
  ⟨match (m.extractLsb' 3 2).toNat with | 0 => fp32 | 1 => fp16 | _ => bf16, rmOf m.toNat, m.getLsbD 2⟩
/-- The mode of a packed group 2 word (R194). -/
def FMode.packed (m : BitVec 9) : FMode :=
  ⟨match (m.extractLsb' 3 2).toNat with | 0 => fp16 | _ => bf16, rmOf m.toNat, false⟩

/-- A source operand's value in a mode (R99). -/
def FMode.read (f : FMode) (code : Nat) : Num :=
  let x := f.fmt.decode code
  if f.ftz then f.fmt.flushIn x else x
/-- A result's code in a mode (R195). -/
def FMode.write (f : FMode) (x : Num) : Nat :=
  let c := f.fmt.encode f.round false x
  if f.ftz then f.fmt.flushOut c else c

/-- The scalar functions of one operand (R195, R101). -/
inductive FUn where
  | frnd | frcp | frsq | fsqrt | fexp2 | flog2 | fsinr | fcosr
  deriving DecidableEq, Repr
/-- The scalar functions of two operands (R195). -/
inductive FBin where
  | fadd | fsub | fmul | fmin | fmax | fdiv
  deriving DecidableEq, Repr

/-- A function of one operand on codes. -/
def FUn.eval (o : FUn) (f : FMode) (a : Nat) : Nat :=
  let x := f.read a
  f.write (match o with
    | .frnd => x.integral f.round
    | .frcp => x.rcp
    | .frsq => x.rsq
    | .fsqrt => x.sqrt
    | .fexp2 => x.exp2
    | .flog2 => x.log2
    | .fsinr => x.sinr
    | .fcosr => x.cosr)
/-- A function of two operands on codes. -/
def FBin.eval (o : FBin) (f : FMode) (a b : Nat) : Nat :=
  let x := f.read a
  let y := f.read b
  f.write (match o with
    | .fadd => x.add f.round y
    | .fsub => x.add f.round y.negate
    | .fmul => x.mul y
    | .fmin => x.min y
    | .fmax => x.max y
    | .fdiv => x.div y)
/-- FFMA on codes: one rounding (R195). -/
def ffma (f : FMode) (a b c : Nat) : Nat := f.write (((f.read a).mul (f.read b)).add f.round (f.read c))
/-- FSCALE on codes (R195). -/
def fscale (f : FMode) (a : Nat) (k : Int) : Nat := f.write ((f.read a).scale k)
/-- FCLASS on a code (R195). -/
def fclass (f : FMode) (a : Nat) : Nat := floatClass f.fmt a (f.read a)
/-- FCMP on codes (R196). -/
def fcmp (f : FMode) (cc a b : Nat) : Bool := floatCond cc (f.read a) (f.read b)

/-- A function of both 16-bit elements of packed words (R197). -/
def packed2 (g : Nat → Nat) : Nat := g 0 + 2 ^ 16 * g 1
/-- Element i of a packed word. -/
def elem16 (a i : Nat) : Nat := a / 2 ^ (16 * i) % 2 ^ 16

/-- An inline integer converted exactly to a format (R116). -/
def inlineFloat (f : Fmt) (v : Int) : Nat := f.encode .near false (.ofInt false v 1)

/-! ### Conversions (R199–R201) -/

/-- The types of CVT (R199): integers by signedness and width, and floats. -/
inductive CvtTy where
  | int (uns : Bool) (width : Nat)
  | flt (f : Fmt)
  deriving DecidableEq, Repr

/-- The type codes of R199; 0xE and 0xF name none. -/
def CvtTy.ofCode (n : Nat) : Option CvtTy :=
  match n with
  | 0 => some (.int false 8) | 1 => some (.int false 16) | 2 => some (.int false 32) | 3 => some (.int false 64)
  | 4 => some (.int true 8) | 5 => some (.int true 16) | 6 => some (.int true 32) | 7 => some (.int true 64)
  | 8 => some (.flt fp32) | 9 => some (.flt fp16) | 10 => some (.flt bf16)
  | 11 => some (.flt e4m3) | 12 => some (.flt e5m2) | 13 => some (.flt fp4)
  | _ => none
/-- Width of a type in bits. -/
def CvtTy.width : CvtTy → Nat
  | .int _ w => w
  | .flt f => f.width

/-- The value of raw bits read as a type; an FP4 −0 reads as 0 (R200). -/
def CvtTy.read (t : CvtTy) (v : W64) : Num :=
  match t with
  | .int uns w => .ofInt false (readAs uns (v.truncate w)) 1
  | .flt f => match f.decode v.toNat with
    | .fin s n d => .fin (s && !(n == 0 && f.specials == .none)) n d
    | x => x
/-- The result bits in a type, extended into 64 bits as R186 says (R98, R200). -/
def CvtTy.write (t : CvtTy) (round : RMode) (sat : Bool) (x : Num) : W64 :=
  match t with
  | .int uns w =>
    let lo : Int := if uns then 0 else -(2 ^ (w - 1))
    let hi : Int := if uns then 2 ^ w - 1 else 2 ^ (w - 1) - 1
    BitVec.ofInt 64 (x.toIntSat round lo hi)
  | .flt f => BitVec.ofNat 64 (f.encode round sat x)

/-- The rounding modes of CMOD and RND, with the z of .rs (R199). -/
def rndOf (n z : Nat) : RMode := if n = 4 then .stoch (z % 256) else rmOf n
/-- CVT on 64 raw bits (R200). -/
def cvt (dst src : CvtTy) (round : RMode) (sat ftz : Bool) (v : W64) : W64 :=
  let x := src.read v
  let x := if ftz then fp32.flushIn x else x
  let r := dst.write round sat x
  if ftz then BitVec.ofNat 64 (fp32.flushOut r.toNat) else r

/-- CVTP: two FP32 values packed into d (R201). -/
def cvtp (fmt k : Nat) (ra rb : RMode) (sat : Bool) (d a b : W32) : W32 :=
  let f := match fmt with | 0 => fp16 | 1 => bf16 | 2 => e4m3 | 3 => e5m2 | _ => fp4
  let w := f.width
  let ca := f.encode ra sat (fp32.decode a.toNat)
  let cb := f.encode rb sat (fp32.decode b.toNat)
  let pos := 2 * k * w
  let m : W32 := BitVec.ofNat 32 (2 ^ (2 * w) - 1) <<< pos
  (d &&& ~~~m) ||| (BitVec.ofNat 32 (ca + 2 ^ w * cb) <<< pos)

/-! ### Block quantisation on lists of codes (R202–R204) -/

/-- QNB8: the scale and the packed codes of eight FP32 values (R202). -/
def qnb8 (rnd : Nat → RMode) (xs : List W32) : W32 × W32 :=
  let v := xs.map fun x => fp32.decode x.toNat
  let s := nb8Scale v
  let c := (v.zipIdx).foldl (fun acc (x, j) => acc + nb8Code (rnd j) s x * 2 ^ (4 * j)) 0
  (BitVec.ofNat 32 c, BitVec.ofNat 32 s)
/-- DQNB8: element j (R91, R202). -/
def dqnb8 (codes : W32) (scale band : Nat) (j : Nat) : W32 :=
  let f := match fp4.decode (codes.toNat / 2 ^ (4 * j) % 16) with
    | .fin _ 0 _ => Num.fin false 0 1
    | x => x
  BitVec.ofNat 32 (fp32.encode .near false ((f.mul (e3m5Decode scale)).mul (bf16.decode band)))
/-- SMAX without .acc (R204). -/
def smax (kind : Nat) (xs : List W32) : Int :=
  let v := xs.map fun x => fp32.decode x.toNat
  let c := ((xs.head?).getD 0).toNat % 256
  match kind with
  | 0 => f32BlockExp v
  | 1 => nb8BlockExp c
  | 5 => nb8Scale v
  | k => mxBlockExp (k - 2) c


end Sys2Proof
end

