-- ==== Sys2Proof/Machine/Hash.lean ====
section
/-! DEFINITION. CRC-64/ECMA-182 (16 R340, 24 R452) and SHA-384 (02 R27, R42, 12 R308). -/

namespace Sys2Proof

/-! ### CRC-64/ECMA-182 (R340) -/

/-- Polynomial of CRC-64/ECMA-182. -/
def crcPoly : W64 := 0x42F0E1EBA9EA3693
/-- Feed `n` bits, the most significant first. -/
def crcBits : Nat → W64 → W64
  | 0, c => c
  | n + 1, c => crcBits n (if c.getLsbD 63 then (c <<< 1) ^^^ crcPoly else c <<< 1)
/-- CRC-64/ECMA-182 of a string of bytes, initial value 0. -/
def crc64 (bs : List Byte) : W64 := bs.foldl (fun (c : W64) (b : Byte) => crcBits 8 (c ^^^ ((b.zeroExtend 64 : W64) <<< (56 : Nat)))) 0

/-! ### SHA-384 (FIPS 180-4) -/

/-- Whether no number from 2 to `d` divides `n`. -/
def noDivisor (n : Nat) : Nat → Bool
  | 0 | 1 => true
  | d + 2 => decide (n % (d + 2) ≠ 0) && noDivisor n (d + 1)
/-- The first primes below 410, of which there are 80. -/
def primes80 : List Nat := (List.range 410).filter fun n => decide (2 ≤ n) && noDivisor n (n - 1)
/-- The largest number below 2 ^ (bits) whose `k`-th power is at most `n`. -/
def rootBits (k n : Nat) : Nat → Nat → Nat
  | 0, x => x
  | b + 1, x => rootBits k n b (if (x + 2 ^ b) ^ k ≤ n then x + 2 ^ b else x)
/-- First 64 bits of the fraction of the cube root of `p`. -/
def shaK (p : Nat) : W64 := BitVec.ofNat 64 (rootBits 3 (p * 2 ^ 192) 68 0)
/-- First 64 bits of the fraction of the square root of `p`. -/
def shaH (p : Nat) : W64 := BitVec.ofNat 64 (rootBits 2 (p * 2 ^ 128) 70 0)

/-- Initial hash value of SHA-384: the ninth to sixteenth primes. -/
def sha384Init : List W64 := ((primes80.drop 8).take 8).map shaH
/-- Message schedule: the sixteen words of a block extended to eighty, latest first. -/
def shaSchedule : Nat → List W64 → List W64
  | 0, w => w
  | n + 1, w =>
    let g (i : Nat) : W64 := w.getD (i - 1) 0
    let s0 := (g 15).rotateRight 1 ^^^ (g 15).rotateRight 8 ^^^ (g 15) >>> 7
    let s1 := (g 2).rotateRight 19 ^^^ (g 2).rotateRight 61 ^^^ (g 2) >>> 6
    shaSchedule n ((s1 + g 7 + s0 + g 16) :: w)
/-- One round on the eight working variables. -/
def shaRound (v : List W64) (kw : W64) : List W64 :=
  match v with
  | [a, b, c, d, e, f, g, h] =>
    let t1 := h + (e.rotateRight 14 ^^^ e.rotateRight 18 ^^^ e.rotateRight 41) + ((e &&& f) ^^^ (~~~e &&& g)) + kw
    let t2 := (a.rotateRight 28 ^^^ a.rotateRight 34 ^^^ a.rotateRight 39) + ((a &&& b) ^^^ (a &&& c) ^^^ (b &&& c))
    [t1 + t2, a, b, c, d + t1, e, f, g]
  | v => v
/-- Compress one block of 128 bytes. -/
def shaBlock (h : List W64) (block : List Byte) : List W64 :=
  let word (i : Nat) : W64 := ((block.drop (8 * i)).take 8).foldl (fun x b => (x <<< 8) ||| b.zeroExtend 64) 0
  let w := (shaSchedule 64 ((List.range 16).map word).reverse).reverse
  let v := (List.zipWith (fun p x => shaK p + x) primes80 w).foldl shaRound h
  List.zipWith (· + ·) h v
/-- Compress the whole blocks at the front; fuel bounds their number. -/
def shaBlocks : Nat → List W64 → List Byte → List W64
  | 0, h, _ => h
  | n + 1, h, m => shaBlocks n (shaBlock h (m.take 128)) (m.drop 128)
/-- The padding of a message of `n` bytes. -/
def shaPad (n : Nat) : List Byte :=
  0x80 :: List.replicate ((239 - n % 128) % 128) 0
    ++ ((List.range 16).map fun i => BitVec.ofNat 8 (8 * n / 2 ^ (8 * (15 - i))))
/-- The digest of a hash state: the first six words, most significant byte first. -/
def shaDigest (h : List W64) : List Byte :=
  ((h.take 6).map fun (x : W64) => (List.range 8).map fun i => (x >>> (8 * (7 - i))).truncate 8).flatten
/-- A SHA-384 computation in progress: the hash state, the bytes absorbed, and those that do not fill a block yet. -/
structure ShaState where
  h : List W64
  n : Nat
  buf : List Byte
  deriving DecidableEq, Repr
/-- A computation that has absorbed nothing. -/
def ShaState.init : ShaState := ⟨sha384Init, 0, []⟩
/-- Absorb bytes. -/
def ShaState.absorb (x : ShaState) (bs : List Byte) : ShaState :=
  let m := x.buf ++ bs
  let k := m.length / 128
  ⟨shaBlocks k x.h m, x.n + bs.length, m.drop (128 * k)⟩
/-- The digest of what has been absorbed. -/
def ShaState.final (x : ShaState) : List Byte :=
  let p := x.buf ++ shaPad x.n
  shaDigest (shaBlocks (p.length / 128) x.h p)
/-- SHA-384 of a message. -/
def sha384 (m : List Byte) : List Byte :=
  let p := m ++ shaPad m.length
  shaDigest (shaBlocks (p.length / 128) sha384Init p)

end Sys2Proof
end

