-- ==== Sys2Proof/Config.lean ====
section
/-! DEFINITION. What an implementation fixes and what the spec leaves open: opaque constants without a body.
A counter held in State (`stepNo`, `drbgNo`) is applied to the values that may differ each time. -/

namespace Sys2Proof.Config

/-- Nanoseconds that pass during a step (R56; timing is free in this model, log entry 2). -/
opaque stepNs : Nat → Nat
/-- Cycles of a core's clock that pass during a step (R56, log entry 2). -/
opaque stepCycles : Nat → Nat → Nat
/-- Which of several enabled steps comes next (R108, R399, log entry 7). -/
opaque arbiter : Nat → Nat → Nat
/-- Which of several entries a full cache gives up, and which line or sector an eviction or an error meets, by step and number
(R377, R379, R384, R395, R445, R447, log entry 99). -/
opaque victim : Nat → Nat → Nat
/-- Bytes decrypted under a wrong key: reader's key, writer's key, address (R381, log entry 8). -/
opaque wrongKey : Nat → Nat → Nat → BitVec 8
/-- The leaf the policy firmware supplies for a page that faulted, or none (R172, log entry 9). -/
opaque firmwareLeaf : Nat → BitVec 48 → Option (BitVec 64)
/-- Whether a page of host memory or of an expander answers (R412, log entry 15). -/
opaque answers : Nat → Bool
/-- Whether a page of a link lies in a back-invalidation region (R418, log entry 15). -/
opaque backInval : Nat → Bool
/-- The completion status the device reports for a request it did not send (R419, log entry 15). -/
opaque abortStatus : Nat → Nat
/-- A frame the policy firmware takes for a page table it needs (R172, log entry 9). -/
opaque freeFrame : Nat → Nat
/-- The page from which the policy firmware looks for an address for a launch record (R358, log entry 102). -/
opaque recordPage : Nat → Nat
/-- Bytes of the security engine's random generator (R308, R478, log entry 10). -/
opaque drbg : Nat → BitVec 8
/-- ECDSA P-384 verification of key, digest and signature (R27, R29, R484, log entry 11). -/
opaque ecdsaVerify : List (BitVec 8) → List (BitVec 8) → List (BitVec 8) → Bool
/-- ML-DSA-87 verification of key, message and signature (R27, R29, log entry 11). -/
opaque mldsaVerify : List (BitVec 8) → List (BitVec 8) → List (BitVec 8) → Bool
/-- An ECDSA P-384 signature of a digest with the device attestation key (R308, log entry 11). -/
opaque ecdsaSign : Nat → List (BitVec 8) → List (BitVec 8)
/-- The bytes of a hash context that its program altered (R308, log entry 12). -/
opaque alteredHash : List (BitVec 8) → List (BitVec 8)
/-- What the hash service's own context bytes are masked with, by place (R308, log entry 12). -/
opaque hashByte : Nat → BitVec 8
/-- A free byte, by step and place (log entry 12). -/
opaque freeByte : Nat → Nat → BitVec 8
/-- A free choice between two outcomes the spec allows, by step and place (log entry 7). -/
opaque freeBool : Nat → Nat → Bool
/-- Contents an MMT leaves in its reserved tiles (R265, log entry 13). -/
opaque mmtTile : Nat → Nat → BitVec 32
/-- The texel index and the weight an infinite coordinate takes along a wrapped or mirrored axis (R278, log
entry 16). -/
opaque infTexel : Nat → Nat
@[inherit_doc infTexel] opaque infWeight : Nat → Nat
/-- Bytes that the device writes to a save area in a form that it alone restores, by save and address, and values it restores
where they have been altered (R367, R368, log entry 101). -/
opaque ownByte : Nat → Nat → BitVec 8
@[inherit_doc ownByte] opaque freeWord : Nat → Nat → BitVec 32
/-- The column group that a matrix self-check finds at fault, if any, by step and check unit (R269, log entry 18). -/
opaque columnFault : Nat → Nat → Option (BitVec 5)
/-- A channel of a camera pixel after its conversion from YUV422, FP32: frame, column, row, channel (R437, log entry 25). -/
opaque cameraChannel : Nat → Nat → Nat → Nat → BitVec 32
/-- Whether a guide line, given by its 16 bytes, covers a pixel of the route's output (R435, R437, log entry 25). -/
opaque guideCovers : List (BitVec 8) → Nat → Nat → Bool

end Sys2Proof.Config
end

