-- ==== Sys2Proof/Machine/Forms.lean ====
section
/-! DEFINITION. Which field values each word admits: R114–R117, R119–R126 and the encoding tables of 06 and 08–11.
`Instr.slots` lists the register operands of a word with the kinds each field accepts and the registers it names;
the same list serves the budget check of R51 and the scoreboard (R209, R319). -/

namespace Sys2Proof

/-- Guard always (R114). -/
def Guard.always : Guard := ⟨false, 63⟩
/-- The guard patterns that name something: p0–p47, or always (R114). -/
def Guard.ok (g : Guard) : Bool := decide (g.idx.toNat < 48) || (g == .always)

/-- The kinds of operand a field accepts (R115): vector, uniform, predicate, inline, uniform special register,
per-lane special register, a tile number 0–7 (R122), or only the zero of an unused field (R117). -/
structure Kinds where
  v : Bool := false
  s : Bool := false
  p : Bool := false
  i : Bool := false
  sr : Bool := false
  srl : Bool := false
  t : Bool := false
  z : Bool := false
  deriving DecidableEq, Repr

/-- Whether a special register has one value in each lane (R53). -/
def SReg.perLane : SReg → Bool
  | .plane | .lane => true
  | _ => false

/-- Whether an operand is of an accepted kind. -/
def Kinds.allows (k : Kinds) : Opnd → Bool
  | .v n => k.v || (k.t && decide (n.toNat < 8)) || (k.z && n == 0)
  | .s _ => k.s
  | .p _ => k.p
  | .imm _ => k.i
  | .sr r => if r.perLane then k.srl else k.sr

/-- A register file. -/
inductive RegFile where
  | v | s | p
  deriving DecidableEq, Repr

/-- Consecutive registers of one file. -/
structure RegSpan where
  file : RegFile
  first : Nat
  count : Nat
  deriving DecidableEq, Repr

/-- One operand field of a word: its kinds, how many registers a vector or a uniform operand covers, and the
multiple its number must be. -/
structure Slot where
  o : Opnd
  k : Kinds
  nv : Nat := 1
  ns : Nat := 1
  av : Nat := 1
  as : Nat := 1
  deriving DecidableEq, Repr

/-- Whether a field holds an accepted operand. -/
def Slot.ok (x : Slot) : Bool :=
  x.k.allows x.o &&
  match x.o with
  | .v n => decide (n.toNat % x.av = 0)
  | .s n => decide (n.toNat % x.as = 0)
  | _ => true

/-- The registers a field names. -/
def Slot.spans (x : Slot) : List RegSpan :=
  match x.o with
  | .v n => if x.k.v then [⟨.v, n.toNat, x.nv⟩] else []
  | .s n => [⟨.s, n.toNat, x.ns⟩]
  | .p n => [⟨.p, n.val, 1⟩]
  | _ => []

/-! ### Field shapes -/

/-- An unused field (R117). -/
def Slot.none (o : Opnd) : Slot := { o, k := { z := true } }
/-- A vector register. -/
def Slot.vec (o : Opnd) : Slot := { o, k := { v := true } }
/-- The first of `n` vector registers. -/
def Slot.vecs (n : Nat) (o : Opnd) : Slot := { o, k := { v := true }, nv := n }
/-- A uniform register. -/
def Slot.uni (o : Opnd) : Slot := { o, k := { s := true } }
/-- The even first of two uniform registers. -/
def Slot.uni2 (o : Opnd) : Slot := { o, k := { s := true }, ns := 2, as := 2 }
/-- A predicate. -/
def Slot.pred (o : Opnd) : Slot := { o, k := { p := true } }
/-- A uniform register or an inline integer. -/
def Slot.ui (o : Opnd) : Slot := { o, k := { s := true, i := true } }
/-- A vector or uniform register or an inline integer. -/
def Slot.vui (o : Opnd) : Slot := { o, k := { v := true, s := true, i := true } }
/-- A tile field (R122). -/
def Slot.tile (o : Opnd) : Slot := { o, k := { t := true } }
/-- A field held at an inline integer. -/
def Slot.inl (o : Opnd) : Slot := { o, k := { i := true } }
/-- A vector or uniform destination; a 64-bit one is an even pair (R115). -/
def Slot.dst (wide : Bool) (o : Opnd) : Slot :=
  { o, k := { v := true, s := true }, nv := if wide then 2 else 1, av := if wide then 2 else 1 }
/-- A vector destination. -/
def Slot.vdst (wide : Bool) (o : Opnd) : Slot :=
  { o, k := { v := true }, nv := if wide then 2 else 1, av := if wide then 2 else 1 }
/-- A source of groups 1 to 3: with a uniform destination no vector and no per-lane register (R184). -/
def Slot.src (uniD wide : Bool) (o : Opnd) : Slot :=
  { o, k := { v := !uniD, s := true, i := true, sr := true, srl := !uniD },
    nv := if wide then 2 else 1, av := if wide then 2 else 1 }

/-- Whether an operand is a uniform register. -/
def Opnd.isUni : Opnd → Bool
  | .s _ => true
  | _ => false
/-- Whether an operand is a vector register. -/
def Opnd.isVec : Opnd → Bool
  | .v _ => true
  | _ => false
/-- Whether an operand is a special register. -/
def Opnd.isSReg : Opnd → Bool
  | .sr _ => true
  | _ => false
/-- The value of an inline integer, −32 to 31 (R115). -/
def inlineVal (k : BitVec 6) : Int := (k.toNat : Int) - 32
/-- Register number of an operand, 0 for one that names none. -/
def Opnd.num : Opnd → Nat
  | .v n => n.toNat
  | .s n => n.toNat
  | .p n => n.val
  | _ => 0

/-- W of a group 1 word (R188). -/
def RRR.w (w : RRR) : Bool := w.m.getLsbD 1
/-- A group 1 operation is 64 bits wide with a uniform d or with W (R188). -/
def RRR.wide (w : RRR) : Bool := w.d.isUni || w.w
/-- N of a group 1 word (R188). -/
def RRR.uns (w : RRR) : Bool := w.m.getLsbD 0
/-- OPX of a group 1 word (R188). -/
def RRR.opx (w : RRR) : Nat := (w.m.extractLsb' 2 3).toNat

/-- d, and one, two or three sources of groups 1 to 3. -/
def RRR.arith1 (w : RRR) (wide : Bool) : List Slot :=
  [.dst wide w.d, .src w.d.isUni wide w.a, .none w.b, .none w.c]
@[inherit_doc RRR.arith1] def RRR.arith2 (w : RRR) (wide : Bool) : List Slot :=
  [.dst wide w.d, .src w.d.isUni wide w.a, .src w.d.isUni wide w.b, .none w.c]
@[inherit_doc RRR.arith1] def RRR.arith3 (w : RRR) (wide : Bool) : List Slot :=
  [.dst wide w.d, .src w.d.isUni wide w.a, .src w.d.isUni wide w.b, .src w.d.isUni wide w.c]
/-- d and one source of an RI word (R193, R198). -/
def RI.arith (w : RI) (wide : Bool) : List Slot :=
  [.dst wide w.d, .src w.d.isUni wide w.a]
/-- A predicate d and two sources: ICMP and FCMP. -/
def RRR.cmp (w : RRR) (wide : Bool) : List Slot :=
  [.pred w.d, .src false wide w.a, .src false wide w.b, .none w.c]
/-- The destination of MOV: also EXEC and CHKINT (R184). -/
def Slot.movDst (wide : Bool) (o : Opnd) : Slot :=
  match o with
  | .sr .exec | .sr .chkint => { o, k := { sr := true } }
  | _ => .dst wide o
/-- The source of MOV: EXEC takes any kind, CHKINT no per-lane one (R184, R192). -/
def Slot.movSrc (d : Opnd) (wide : Bool) (o : Opnd) : Slot :=
  match d with
  | .sr .chkint => .src true false o
  | .sr .exec => .src false false o
  | _ => .src d.isUni wide o

/-! ### MEM fields -/

/-- TYPE, or OP of the update words (R121, R213). -/
def MEM.ty (w : MEM) : Nat := (w.m.extractLsb' 0 3).toNat
/-- ORDER (R121). -/
def MEM.order (w : MEM) : Nat := (w.m.extractLsb' 3 2).toNat
/-- SCOPE (R121). -/
def MEM.scope (w : MEM) : Nat := (w.m.extractLsb' 5 2).toNat
/-- X: the indexed form (R121). -/
def MEM.x (w : MEM) : Bool := w.m.getLsbD 8
/-- UTYPE of the update words (R213). -/
def MEM.utype (w : MEM) : Nat := (w.ofs.extractLsb' 0 3).toNat
/-- Whether UTYPE is 64 bits wide. -/
def MEM.uwide (w : MEM) : Bool := w.utype == 2 || w.utype == 3 || w.utype == 6
/-- The index register of the indexed form, offset[26:21] (R121). -/
def MEM.idxReg (w : MEM) : BitVec 6 := w.ofs.extractLsb' 12 6

/-- The base field: uniform or an even pair, or the 32-bit index vector and its uniform register (R121). -/
def MEM.baseSlots (w : MEM) : List Slot :=
  if w.x then [.vec w.base, .uni (.s w.idxReg)]
  else [{ o := w.base, k := { v := true, s := true }, nv := 2, av := 2 }]
/-- A base that must be uniform with X = 0 (R210, R211, R215, R216). -/
def MEM.uniBase (w : MEM) : List Slot :=
  if w.x then [{ o := w.base, k := {} }] else [.uni w.base]
/-- Store data: vector, uniform or inline, 64-bit vectors in even pairs (R211, R215). -/
def MEM.data (w : MEM) (wide inl : Bool) : Slot :=
  { o := w.d, k := { v := true, s := true, i := inl }, nv := if wide then 2 else 1, av := if wide then 2 else 1 }
/-- The d field of UCAS (R216). -/
def MEM.ucasD (w : MEM) : Slot :=
  let n := if w.utype == 6 then 4 else 2
  { o := w.d, k := { v := true, s := true }, nv := n, av := n, ns := 2, as := 2 }

/-- Number of macros of MMA and MMAP (R250). -/
def RRR.nm (w : RRR) : Nat := (w.m.extractLsb' 6 2).toNat + 1
/-- Low three bits of MOD. -/
def RRR.m3 (w : RRR) : Nat := (w.m.extractLsb' 0 3).toNat
/-- MOD[5:3]. -/
def RRR.m53 (w : RRR) : Nat := (w.m.extractLsb' 3 3).toNat
/-- A count held less one in MOD[6:0] (R272). -/
def RRR.nreg (w : RRR) : Nat := (w.m.extractLsb' 0 7).toNat + 1

/-- The operand fields of each word, with what they accept. Unused fields stand in the list as such. -/
def Instr.slots : Instr → List Slot
  -- group 0 (R140, R154–R169)
  | .nop w | .ret w | .exit w | .tret w | .phase w | .ckpt w | .fence w | .qfence w =>
    [.none w.d, .none w.a, .none w.b, .none w.c]
  | .bri w => [.none w.d, .vec w.a, .uni w.b, .none w.c]
  | .pset w => [.none w.d, .vui w.a, .none w.b, .none w.c]
  | .pseti w | .trap w => [.none w.d, .none w.a]
  | .vote w =>
    (match w.m3 % 4 with
      | 0 => [.uni w.d, .pred w.a]
      | 3 => [.pred w.d, .vec w.a]
      | _ => [.pred w.d, .pred w.a]) ++ [.none w.b, .none w.c]
  | .lshf w =>
    [.vdst (w.m.getLsbD 3) w.d, .vdst (w.m.getLsbD 3) w.a,
     if w.m3 = 0 then .vec w.b else .ui w.b,
     if w.m.getLsbD 4 then .pred w.c else .none w.c]
  | .lred w => [.dst false w.d, .vec w.a, .none w.b, .none w.c]
  | .plog w =>
    let src (o : Opnd) : Slot := { o, k := { p := true, i := true } }
    [.pred w.d, src w.a, src w.b, src w.c]
  | .pmov w =>
    (match w.m3 % 4 with
      | 0 => [.pred w.d, .vui w.a]
      | 1 => [.vec w.d, .pred w.a]
      | 2 => [.uni w.d, .pred w.a]
      | _ => [.pred w.d, .uni w.a]) ++ [.none w.b, .none w.c]
  | .csrr w => [.uni w.d, .none w.a]
  | .csrw w => [.none w.d, .ui w.a]
  | .clock w => [.uni2 w.d, if w.m.getLsbD 0 then .uni w.a else .none w.a, .none w.b, .none w.c]
  | .chkerr w => [if w.m.getLsbD 0 then .none w.d else .pred w.d, .none w.a, .none w.b, .none w.c]
  | .prefc w => [.none w.d, .ui w.a]
  -- group 1 (R189–R193)
  | .iadd w | .isub w | .imul w | .imulh w | .idiv w | .irem w | .imin w | .imax w
  | .and w | .or w | .xor w | .andn w | .shl w | .shr w | .sar w | .rol w => w.arith2 w.wide
  | .imad w | .bfx w | .bfi w => w.arith3 w.wide
  | .imadw w =>
    [.dst true w.d, .src w.d.isUni false w.a, .src w.d.isUni false w.b, .src w.d.isUni true w.c]
  | .iabs w | .ineg w | .not w | .popc w | .clz w | .ctz w | .brev w => w.arith1 w.wide
  | .icmp w => w.cmp w.w
  | .iaddc w => [.vdst w.w w.d, .src false w.w w.a, .src false w.w w.b, .pred w.c]
  | .permb w | .dot4 w => w.arith3 false
  | .sel w => [.vdst w.w w.d, .src false w.w w.a, .src false w.w w.b, .pred w.c]
  | .lea w => [.dst true w.d, .src w.d.isUni true w.a, .src w.d.isUni false w.b, .none w.c]
  | .mov w => [.movDst w.wide w.d, .movSrc w.d w.wide w.a, .none w.b, .none w.c]
  | .movi w => [.dst false w.d, .none w.a]
  | .iaddRi w | .isubRi w | .imulRi w | .iminRi w | .imaxRi w | .andRi w | .orRi w | .xorRi w
  | .shlRi w | .shrRi w | .sarRi w | .rolRi w => w.arith false
  | .icmpRi w | .fcmpRi w => [.pred w.d, .src false false w.a]
  | .leaRi w => w.arith true
  | .movRi w => [.movDst false w.d, .none w.a]
  -- group 2 (R194–R198)
  | .fadd w | .fsub w | .fmul w | .fmin w | .fmax w | .fdiv w | .fscale w
  | .hadd2 w | .hmul2 w | .hmin2 w | .hmax2 w => w.arith2 false
  | .ffma w | .hfma2 w => w.arith3 false
  | .fclass w | .frnd w | .frcp w | .frsq w | .fsqrt w | .fexp2 w | .flog2 w | .fsinr w | .fcosr w => w.arith1 false
  | .fcmp w => w.cmp false
  | .hcmp2 w => [.vec w.d, .src false false w.a, .src false false w.b, .none w.c]
  | .faddRi w | .fmulRi w | .ffmaRi w | .fminRi w | .fmaxRi w => w.arith false
  -- group 3 (R199–R205)
  | .cvt w =>
    let wide (t : Nat) : Bool := t == 3 || t == 7
    let rs := (w.cm.extractLsb' 0 3).toNat == 4
    [.dst (wide (w.m.extractLsb' 0 4).toNat) w.d, .src w.d.isUni (wide (w.m.extractLsb' 4 4).toNat) w.a,
     if rs then { o := w.c, k := { v := !w.d.isUni, s := true, i := true } } else .none w.c]
  | .cvtp w =>
    [.dst false w.d, .src w.d.isUni false w.a, .src w.d.isUni false w.b,
     if w.m3 = 4 then { o := w.c, k := { v := !w.d.isUni, s := true, i := true } } else .none w.c]
  | .qnb8 w => [.vec w.d, .vecs 8 w.a, .vec w.b, if w.m3 = 4 then .vui w.c else .none w.c]
  | .dqnb8 w => [.vecs 8 w.d, { o := w.a, k := { v := true, s := true } }, .vui w.b, .vui w.c]
  | .qmx w => [.vec w.d, .vec w.a, .dst false w.b, if w.m3 = 4 then .vui w.c else .none w.c]
  | .dqmx w =>
    -- an element code is an FP8 or FP4 operand, which no inline integer gives (R116)
    let src (o : Opnd) (inl : Bool) : Slot := { o, k := { v := !w.d.isUni, s := true, i := inl } }
    [.dst false w.d, src w.a false, src w.b true, .none w.c]
  | .smax w =>
    [.dst false w.d,
     if w.m3 = 0 ∨ w.m3 = 5 then { o := w.a, k := { v := !w.d.isUni, s := true }, nv := 8, ns := 8 }
     else .src w.d.isUni false w.a,
     if w.m.getLsbD 3 then .src w.d.isUni false w.b else .none w.b, .none w.c]
  | .cvtfx w | .cvtxf w => w.arith2 false
  -- group 4 (R207–R222)
  | .ld w => .vdst (w.ty == 5) w.d :: w.baseSlots
  | .ldu w => .uni w.d :: w.uniBase
  | .st w => w.data (w.ty == 5) true :: w.baseSlots
  | .stu w => .ui w.d :: w.uniBase
  | .upd w => w.data w.uwide true :: w.baseSlots
  | .updr w => w.data w.uwide false :: (if w.d.isUni then w.uniBase else w.baseSlots)
  | .ucas w => w.ucasD :: (if w.d.isUni then w.uniBase else w.baseSlots)
  | .vismax w => w.data true false :: w.baseSlots
  | .rfence w => [.none w.d, .uni w.a, .uni w.b, .none w.c]
  | .pref w | .discard w => .none w.d :: w.baseSlots
  -- group 5 (R223–R240)
  | .cpy w | .coll w => [.uni w.d, .uni w.a, .uni w.b, .uni w.c]
  | .cpyg w | .cpys w | .cpyt w => [.uni w.d, .uni w.a, .uni w.b, .uni2 w.c]
  | .binit w => [.none w.d, .ui w.a, .ui w.b, .ui w.c]
  | .arrive w => [.none w.d, .ui w.a, .ui w.b, if w.m.getLsbD 0 then .ui w.c else .none w.c]
  | .expect w | .waitp w => [.none w.d, .ui w.a, .ui w.b, .none w.c]
  | .bpoll w => [.uni w.d, .ui w.a, .ui w.b, .none w.c]
  | .mona w => [.pred w.d, .uni w.a, .ui w.b, .ui w.c]
  | .monaCancel w => [.pred w.d, .uni w.a, .ui w.b, .none w.c]
  -- group 6 (R250)
  | .bld w => [.tile w.d, .uni w.a, .uni w.b, .none w.c]
  | .mma w => [.tile w.d, .tile w.a, .uni w.b, .uni w.c]
  | .mmap w => [.none w.d, .tile w.a, .uni w.b, .uni w.c]
  | .msa w => [.tile w.d, .uni w.a, .uni w.b, .uni w.c]
  | .mzero w => [.tile w.d, .none w.a, if w.m.getLsbD 0 then .uni w.b else .none w.b, .none w.c]
  | .mdr w => [.uni w.d, .tile w.a, .uni w.b, { o := w.c, k := { s := true }, ns := 3 }]
  | .mmov w => [.tile w.d, if w.m.getLsbD 0 then .uni w.a else .tile w.a, .uni w.b, .none w.c]
  | .mmt w => [.uni w.d, .tile w.a, .uni w.b, .ui w.c]
  | .mres w => [.uni w.d, .none w.a, if w.m.getLsbD 0 then .none w.b else .ui w.b, .none w.c]
  | .mchk w => [.none w.d, if w.m.getLsbD 0 then .none w.a else .ui w.a, .none w.b, .none w.c]
  | .mstat w => [.uni w.d, .none w.a, .none w.b, .none w.c]
  -- group 7 (R272)
  | .tex w =>
    [.vecs (if w.m.getLsbD 2 then 2 else 4) w.d, .uni w.a, .vecs 4 w.b,
     match w.m3 % 4 with
     | 0 => .none w.c
     | _ => .vecs 6 w.c]
  | .tld w => [.vecs (if w.m.getLsbD 2 then 2 else 4) w.d, .uni w.a, .vecs 3 w.b, .vui w.c]
  | .tgath w => [.vecs 4 w.d, .uni w.a, .vecs 3 w.b, .none w.c]
  | .tdim w => [.vecs 4 w.d, .uni w.a, .none w.b, .vui w.c]
  | .ist w => [.vecs 4 w.d, .uni w.a, .vecs 3 w.b, .vui w.c]
  | .hgf w => [.vecs w.nreg w.d, .uni w.a, .vecs 2 w.b, .none w.c]
  | .hgs w => [.vecs w.nreg w.d, .uni w.a, .vecs 2 w.b, .uni w.c]
  | .rbox w => [.vecs 5 w.d, .vecs 16 w.a, .uni w.b, .none w.c]
  | .rtri w => [.vecs 16 w.d, .uni w.a, .none w.b, .none w.c]
  | .mvtx w => [.none w.d, .vec w.a, .vecs (w.m3 + 1) w.b, .inl w.c]
  | .mprim w => [.none w.d, .vec w.a, .vec w.b, .vec w.c]
  | .mcommit w => [.none w.d, .ui w.a, .ui w.b, .none w.c]
  | .pairWord h0 h1 =>
    let half (h : Half) : List Slot :=
      if h.op = .hnop then []
      else .vec (.v h.d) ::
        (match h.op with
          | .movi | .iaddi | .shli | .shri | .sari | .andi => []
          | _ => [.vec (.v h.a)])
    half h0 ++ half h1
  | _ => []

/-- The guards of a word that only accept "always" (R140, R207). -/
def Instr.guardAlways : Instr → Bool
  | .bri _ | .ret _ | .tret _ | .csrr _ | .csrw _ | .clock _ | .chkerr _ | .phase _ | .ckpt _ | .prefc _
  | .bra _ | .call _ | .fence _ | .rfence _ | .qfence _ | .binit _ | .arrive _ | .expect _ | .waitp _ | .bpoll _
  | .mona _ | .monaCancel _ => true
  | _ => false

/-- The congruent words (R61). -/
def Instr.congruent : Instr → Bool
  | .bra _ | .brc _ | .bri _ | .call _ | .ret _ | .exit _ | .trap _ | .tret _ | .vote _ | .lshf _ | .lred _
  | .arrive _ | .binit _ | .expect _ | .waitp _ | .bpoll _ | .mona _ | .monaCancel _ | .phase _ | .ckpt _
  | .chkerr _ | .prefc _ => true
  | _ => false

/-- The guard field of a word that has one. -/
def Instr.guard? : Instr → Option Guard
  | .nop w | .bri w | .ret w | .exit w | .pset w | .vote w | .lshf w | .lred w | .plog w | .pmov w
  | .tret w | .clock w | .chkerr w | .phase w | .ckpt w
  | .iadd w | .isub w | .imul w | .imulh w | .imad w | .imadw w | .idiv w | .irem w | .imin w | .imax w
  | .iabs w | .ineg w | .icmp w | .iaddc w | .and w | .or w | .xor w | .andn w | .not w | .shl w | .shr w
  | .sar w | .rol w | .bfx w | .bfi w | .popc w | .clz w | .ctz w | .brev w | .permb w | .sel w | .lea w
  | .mov w | .dot4 w
  | .fadd w | .fsub w | .fmul w | .ffma w | .fmin w | .fmax w | .fcmp w | .fclass w | .frnd w | .frcp w
  | .frsq w | .fsqrt w | .fdiv w | .fexp2 w | .flog2 w | .fsinr w | .fcosr w | .fscale w | .hadd2 w | .hmul2 w
  | .hfma2 w | .hmin2 w | .hmax2 w | .hcmp2 w
  | .cvtp w | .qnb8 w | .dqnb8 w | .qmx w | .dqmx w | .smax w | .cvtfx w | .cvtxf w
  | .fence w | .rfence w | .cpy w | .cpyg w | .cpys w | .cpyt w | .qfence w | .coll w
  | .binit w | .arrive w | .expect w | .waitp w | .bpoll w | .mona w | .monaCancel w
  | .bld w | .mma w | .mmap w | .msa w | .mzero w | .mdr w | .mmov w | .mmt w | .mres w | .mchk w | .mstat w
  | .tex w | .tld w | .tgath w | .tdim w | .ist w | .hgf w | .hgs w | .rbox w | .rtri w | .mvtx w | .mprim w
  | .mcommit w => some w.g
  | .pseti w | .trap w | .csrr w | .csrw w | .prefc w | .movi w
  | .iaddRi w | .isubRi w | .imulRi w | .iminRi w | .imaxRi w | .icmpRi w | .andRi w | .orRi w | .xorRi w
  | .shlRi w | .shrRi w | .sarRi w | .rolRi w | .leaRi w | .movRi w
  | .faddRi w | .fmulRi w | .ffmaRi w | .fminRi w | .fmaxRi w | .fcmpRi w => some w.g
  | .bra w | .brc w | .call w => some w.g
  | .ld w | .ldu w | .st w | .stu w | .upd w | .updr w | .ucas w | .vismax w | .pref w | .discard w => some w.g
  | .cvt w => some w.g
  | _ => none

/-- A group 1 MOD with only the bits of `mask` set, and OPX at most `opx` (R188, R189). -/
def RRR.mod1 (w : RRR) (mask : BitVec 9) (opx : Nat) : Bool :=
  (w.m &&& ~~~mask) == 0 && decide (w.opx ≤ opx)
/-- The MOD of a scalar group 2 word: RM, FTZ with FMT 0 only, FMT, CC (R194). -/
def RRR.mod2 (w : RRR) (rm0 : Bool) (cc : Nat) : Bool :=
  let fmt := (w.m.extractLsb' 3 2).toNat
  decide (fmt ≠ 3) && (!w.m.getLsbD 2 || fmt == 0) && (!rm0 || (w.m.extractLsb' 0 2) == 0)
    && decide ((w.m.extractLsb' 5 4).toNat ≤ cc)
/-- The MOD of a packed group 2 word (R194, R197). -/
def RRR.mod2h (w : RRR) (rm0 : Bool) (cc : Nat) : Bool :=
  let fmt := (w.m.extractLsb' 3 2).toNat
  decide (fmt ≤ 1) && !w.m.getLsbD 2 && (!rm0 || (w.m.extractLsb' 0 2) == 0)
    && decide ((w.m.extractLsb' 5 4).toNat ≤ cc)
/-- OP and UTYPE of the update words agree (R213). -/
def MEM.updPair (w : MEM) : Bool :=
  decide (w.ty < 7) && decide (w.utype < 7) && (decide (w.ty < 3) == decide (w.utype < 5))
/-- The element formats .f4, .e4 and .e5 of MMAP and the scaled MMT (R250, R251). -/
def scaledFmt (n : Nat) : Bool := n == 0 || n == 3 || n == 4
/-- Plain copies set only the bits of `mask` (R223). -/
def RRR.modMask (w : RRR) (mask : BitVec 9) : Bool := (w.m &&& ~~~mask) == 0

/-- Whether every non-operand field of a word holds a value it defines; otherwise ILL_MOD (R117, R126). -/
def Instr.modOk : Instr → Bool
  | .nop w | .bri w | .ret w | .exit w | .pset w | .tret w | .phase w | .ckpt w => w.m == 0
  | .bra w | .call w => w.join == 0
  | .pseti w => (w.imm >>> 3) == 0
  | .trap w => (w.imm >>> 16) == 0
  | .csrr w | .csrw w => (w.imm >>> 12) == 0
  | .vote w | .pmov w => w.modMask 3
  | .lshf w => w.modMask 0x1F && decide (w.m3 ≤ 4)
  | .lred w => decide (w.m.toNat ≤ 10)
  | .plog w => w.modMask 0xFF
  | .clock w | .chkerr w => w.modMask 1
  | .iadd w | .isub w => w.mod1 0x1F 1
  | .imul w | .imad w | .and w | .or w | .xor w | .andn w | .not w | .shl w | .shr w | .sar w | .rol w
  | .bfi w | .popc w | .clz w | .ctz w | .brev w | .sel w => w.mod1 2 0
  | .imulh w | .idiv w | .irem w | .imin w | .imax w | .bfx w => w.mod1 3 0
  | .imadw w => w.mod1 1 0
  | .iabs w | .ineg w | .iaddc w => w.mod1 0x1E 1
  | .icmp w => w.mod1 0x1F 5
  | .permb w => w.m == 0
  | .lea w => w.mod1 0x1D 7
  | .mov w => w.mod1 (if w.d.isSReg then 0 else 2) 0
  | .dot4 w => w.mod1 0x1D 1
  | .fadd w | .fsub w | .fmul w | .ffma w | .frnd w | .frcp w | .frsq w | .fsqrt w | .fdiv w | .fexp2 w
  | .flog2 w | .fsinr w | .fcosr w | .fscale w => w.mod2 false 0
  | .fmin w | .fmax w | .fclass w => w.mod2 true 0
  | .fcmp w => w.mod2 true 7
  | .hadd2 w | .hmul2 w | .hfma2 w => w.mod2h false 0
  | .hmin2 w | .hmax2 w => w.mod2h true 0
  | .hcmp2 w => w.mod2h true 7
  | .cvt w =>
    let dst := (w.m.extractLsb' 0 4).toNat
    let src := (w.m.extractLsb' 4 4).toNat
    let rnd := (w.cm.extractLsb' 0 3).toNat
    !w.m.getLsbD 8 && decide (dst < 14) && decide (src < 14) && decide (rnd < 5) && (w.cm >>> 5) == 0
      && (!w.cm.getLsbD 4 || (dst == 8 && src == 8)) && (rnd != 4 || decide (9 ≤ dst))
  | .cvtp w =>
    let fmt := (w.m.extractLsb' 4 3).toNat
    let k := (w.m.extractLsb' 7 2).toNat
    decide (w.m3 < 5) && decide (fmt < 5)
      && decide (k < (if fmt < 2 then 1 else if fmt < 4 then 2 else 4))
  | .qnb8 w => w.modMask 7 && decide (w.m3 < 5)
  | .dqnb8 w | .cvtfx w | .cvtxf w => w.m == 0
  | .qmx w => w.modMask 0x1F && decide (w.m3 < 5) && (w.m.extractLsb' 3 2) != 3
  | .dqmx w => w.modMask 0x18 && (w.m.extractLsb' 3 2) != 3
  | .smax w => w.modMask 0xF && decide (w.m3 < 6)
  | .ld w | .ldu w => decide (w.ty < 6) && decide (w.order < 2)
  | .st w | .stu w => decide (w.ty < 6) && (w.order == 0 || w.order == 2)
  | .upd w => w.updPair && (w.order == 0 || w.order == 2)
  | .updr w => w.updPair
  | .ucas w => w.ty == 0 && (w.utype == 5 || w.utype == 6)
  | .vismax w => w.ty == 5 && (w.order == 0 || w.order == 2)
  | .pref w | .discard w => decide (w.ty < 2) && w.order == 0
  | .fence w | .rfence w => w.modMask 0x1F && (w.m.extractLsb' 2 2) != 3
  | .cpy w | .cpyg w | .cpys w => w.modMask 0x1F
  | .cpyt w => w.modMask 0x3F
  | .coll w => w.modMask 0x14
  | .qfence w => decide (w.m3 < 6)
  | .binit w | .expect w => w.m == 0
  | .arrive w | .waitp w | .bpoll w => w.modMask 1
  | .mona w => w.m == 0
  | .monaCancel w => w.m == 1
  | .bld w => w.modMask 7 && decide (w.m3 < 7)
  | .mma w => decide (w.m3 < 7) && decide (w.m53 < 7)
  | .mmap w => w.modMask 0xFF && scaledFmt w.m3 && scaledFmt w.m53
  | .msa w | .mzero w | .mres w | .mchk w | .mstat w => w.modMask 1
  | .mdr w =>
    w.modMask 0xFF && decide (w.m3 < 7) && (!w.m.getLsbD 6 || w.m3 == 0) && (!w.m.getLsbD 7 || decide (w.m3 < 3))
  | .mmov w => w.modMask 7 && (if w.m.getLsbD 0 then (w.m.extractLsb' 1 2) != 3 else (w.m.extractLsb' 1 2) == 0)
  | .mmt w =>
    w.modMask 0xFF && decide (w.m3 < 7) && decide (w.m53 < 7)
      && (if w.m.getLsbD 6 then scaledFmt w.m3 && scaledFmt w.m53 && (w.m.getLsbD 7 || (w.m3 == 0 && w.m53 == 0))
          else !w.m.getLsbD 7)
  | .tex w => w.modMask 7 && decide (w.m3 % 4 ≠ 3)
  | .tld w => w.modMask 4
  | .tgath w => w.modMask 3
  | .tdim w | .ist w | .rbox w | .rtri w | .mprim w | .mcommit w => w.m == 0
  | .hgf w => w.modMask 0xFF
  | .hgs w => w.modMask 0x7F
  | .mvtx w => w.modMask 7
  | .pairWord h0 h1 =>
    let ok (h : Half) : Bool :=
      match h.op with
      | .fadd | .fsub | .fmul => !h.m.getLsbD 3
      | .fmin | .fmax => (h.m &&& 0xB) == 0
      | .cvtF32S32 | .cvtS32F32 | .hadd2 | .hmul2 => (h.m &&& 0xC) == 0
      | _ => h.m == 0
    ok h0 && ok h1
  | _ => true

/-- An inline operand of PLOG: 0 or −1 (R158). -/
def plogInline : Opnd → Bool
  | .imm k => inlineVal k == 0 || inlineVal k == -1
  | _ => true
/-- Whether an operand is a vector register among `n` starting at `first`. -/
def Opnd.within (o : Opnd) (first n : Nat) : Bool :=
  match o with
  | .v k => decide (first ≤ k.toNat) && decide (k.toNat < first + n)
  | _ => false

/-- Whether a half uses its A field as a register (R123). -/
def HOp.readsA : HOp → Bool
  | .hnop | .movi | .iaddi | .shli | .shri | .sari | .andi => false
  | _ => true
/-- The registers a half reads for the bank rule (R124). -/
def Half.reads (h : Half) : List (BitVec 8) :=
  if h.op = .hnop then [] else if h.op.readsA then [h.d, h.a] else [h.d]
/-- The encoding rules of a pair word; a word that breaks one raises ILL_PAIR (R124). -/
def pairOk (h0 h1 : Half) : Bool :=
  let both := h0.op ≠ .hnop ∧ h1.op ≠ .hnop
  let bank (r : BitVec 8) : Nat := r.toNat % 4
  let reads := (h0.reads ++ h1.reads).map bank
  decide (¬ (both ∧ bank h0.d = bank h1.d)) && (List.range 4).all (fun b => decide (reads.count b ≤ 2))
    && decide (¬ (both ∧ h0.d = h1.d))
/-- The operand rules of one half (R123, R125, R126). -/
def Half.ok (h : Half) : Bool :=
  decide (¬ (h.neg ∧ h.idx = 0)) &&
  match h.op with
  | .hnop => !h.neg && h.idx == 0 && h.d == 0 && h.a == 0
  | .shli | .shri | .sari => decide (h.a.toNat < 32)
  | _ => true

/-- Operand rules that look at more than one field; a break raises ILL_OPERAND. -/
def Instr.extraOk : Instr → Bool
  | .plog w => plogInline w.a && plogInline w.b && plogInline w.c
  | .cvt w => !(decide (11 ≤ (w.m.extractLsb' 4 4).toNat) && (match w.a with | .imm _ => true | _ => false))
  | .qnb8 w => decide (w.d ≠ w.b) && !w.d.within w.a.num 8 && !w.b.within w.a.num 8
  | .dqnb8 w => !w.a.within w.d.num 8 && !w.b.within w.d.num 8 && !w.c.within w.d.num 8
  | .mma w | .mmap w => decide (w.a.num / 2 + w.nm ≤ 4)
  | .mmt w => decide (w.a.num % 2 = 0)
  | .mvtx w => (match w.c with
    | .imm k => decide (0 ≤ inlineVal k) && decide (inlineVal k + (w.m3 + 1) ≤ 20)
    | _ => false)
  | .pairWord h0 h1 => h0.ok && h1.ok
  | _ => true

/-- The immediate of LOOP's body length is at least one word (R304, R306). -/
def Instr.queueOk : Instr → Bool
  | .qbLoop _ _ l => l != 0
  | _ => true

/-- Whether the operands and the guard of a word are legal; otherwise ILL_OPERAND. -/
def Instr.operandsOk (i : Instr) : Bool :=
  (match i.guard? with
    | some g => if i.guardAlways then g == .always else g.ok
    | none => true) && i.slots.all Slot.ok && i.extraOk

end Sys2Proof
end

