-- ==== Sys2Proof/WellFormed.lean ====
section
/-! DEFINITION. Well-formed instructions: what the checks of R114–R126 (Machine/Forms.lean) admit. -/

namespace Sys2Proof

/-- Only the RI words of group 1 take an extension (R112). -/
def Instr.extOk : Instr → Bool
  | .pseti w | .trap w | .csrr w | .csrw w | .prefc w
  | .faddRi w | .fmulRi w | .ffmaRi w | .fminRi w | .fmaxRi w | .fcmpRi w => w.ext.isNone
  | _ => true

/-- A well-formed instruction: one that a decoder may yield from a legal word, and that a loader accepts. -/
def Instr.wellFormed (i : Instr) : Bool :=
  i.modOk && i.operandsOk && i.queueOk && i.extOk &&
  match i with
  | .pairWord h0 h1 => pairOk h0 h1
  | _ => true

end Sys2Proof
end

