-- ==== Sys2Proof/Decode.lean ====
section
/-! DEFINITION. Decoding, total on any bits and rejecting by name, and the encoder written from the same tables:
the core words (R111–R129) and the queue bytecode (R303, R304). -/

namespace Sys2Proof

/-- The 8-bit code of a cause (R174–R179). -/
def Cause.code : Cause → BitVec 8
  | .illClass => 0x00
  | .illOpc => 0x01
  | .illOperand => 0x02
  | .illPair => 0x03
  | .illMod => 0x04
  | .planeSplit => 0x05
  | .planeRange => 0x06
  | .briRange => 0x07
  | .stackOvf => 0x08
  | .extMissing => 0x09
  | .offsetRange => 0x0A
  | .stackUnder => 0x0B
  | .tretState => 0x0C
  | .csrIndex => 0x0D
  | .trapSw => 0x10
  | .pfNotPresent => 0x20
  | .pfWrite => 0x21
  | .pfExec => 0x22
  | .ptBad => 0x23
  | .accessKey => 0x24
  | .alignAtomic => 0x25
  | .splitAttr => 0x26
  | .atomicPath => 0x27
  | .scratchRange => 0x28
  | .nbhWindow => 0x29
  | .updSpan => 0x2A
  | .addrCanon => 0x2B
  | .hostAbort => 0x2C
  | .poisonConsumed => 0x40
  | .idivZero => 0x41
  | .texDesc => 0x42
  | .hgDesc => 0x48
  | .bvhNode => 0x49
  | .meshOvf => 0x4A
  | .barIndex => 0x60
  | .barOver => 0x61
  | .bytesOver => 0x62
  | .copyFault => 0x64
  | .monAddr => 0x65
  | .macroState => 0x66
  | .qbBudget => 0x69
  | .qbVerify => 0x6A
  | .bindRefused => 0x6B
  | .redStoreMismatch => 0x80
  | .redLoadMismatch => 0x81
  | .redRetryFail => 0x82
  | .redSlackTimeout => 0x83
  | .sigMismatch => 0x84
  | .matSelfcheck => 0x86
  | .auditMismatch => 0x87
  | .quarantine => 0x88
  | .selftestFail => 0x89
  | .dramUeEvict => 0x8A
  | .dramUe => 0x8B
  | .tdispLockedWrite => 0xA0
  | .debugDenied => 0xA1
  | .pasidClosing => 0xA3
  | .relocRange => 0xA4
  | .imageSig => 0xA5
  | .pageHash => 0xA6
  | .imageDesc => 0xA7

/-! ### Operand codes (R115) -/

/-- The code of a special register less 0x170. -/
def SReg.code : SReg → BitVec 4
  | .exec => 0
  | .plane => 1
  | .pmask => 2
  | .lane => 3
  | .group => 4
  | .wg => 5
  | .nbh => 6
  | .sched => 7
  | .chkint => 8
  | .cycle => 9
  | .time => 10
  | .role => 11

/-- The special register of a code less 0x170. -/
def SReg.ofCode (n : BitVec 4) : Option SReg :=
  match n.toNat with
  | 0 => some .exec
  | 1 => some .plane
  | 2 => some .pmask
  | 3 => some .lane
  | 4 => some .group
  | 5 => some .wg
  | 6 => some .nbh
  | 7 => some .sched
  | 8 => some .chkint
  | 9 => some .cycle
  | 10 => some .time
  | 11 => some .role
  | _ => none

/-- The code of an operand. -/
def Opnd.code : Opnd → BitVec 9
  | .v n => (0 : BitVec 1) ++ n
  | .s n => (0x4 : BitVec 3) ++ n
  | .p n => 0x140 + BitVec.ofNat 9 n.val
  | .sr r => (0x17 : BitVec 5) ++ r.code
  | .imm k => (0x6 : BitVec 3) ++ k

/-- The operand of a code; the reserved codes name none. -/
def Opnd.ofCode (c : BitVec 9) : Option Opnd :=
  let n := c.toNat
  if n < 0x100 then some (.v (c.extractLsb' 0 8))
  else if n < 0x140 then some (.s (c.extractLsb' 0 6))
  else if h : n - 0x140 < 48 then some (.p ⟨n - 0x140, h⟩)
  else if n < 0x180 then (SReg.ofCode (c.extractLsb' 0 4)).map .sr
  else if n < 0x1C0 then some (.imm (c.extractLsb' 0 6))
  else none

/-! ### The opcode map (R127) -/

/-- The words of format RRR or TILE, but for CVT and MONA, which read a modifier first. -/
def rrrCtor (opc : Nat) : Option (RRR → Instr) :=
  match opc with
  | 0x000 => some .nop
  | 0x004 => some .bri
  | 0x006 => some .ret
  | 0x007 => some .exit
  | 0x008 => some .pset
  | 0x00A => some .vote
  | 0x00B => some .lshf
  | 0x00C => some .lred
  | 0x00D => some .plog
  | 0x00E => some .pmov
  | 0x010 => some .tret
  | 0x013 => some .clock
  | 0x014 => some .chkerr
  | 0x015 => some .phase
  | 0x016 => some .ckpt
  | 0x080 => some .iadd
  | 0x081 => some .isub
  | 0x082 => some .imul
  | 0x083 => some .imulh
  | 0x084 => some .imad
  | 0x085 => some .imadw
  | 0x086 => some .idiv
  | 0x087 => some .irem
  | 0x088 => some .imin
  | 0x089 => some .imax
  | 0x08A => some .iabs
  | 0x08B => some .ineg
  | 0x08C => some .icmp
  | 0x08D => some .iaddc
  | 0x08E => some .and
  | 0x08F => some .or
  | 0x090 => some .xor
  | 0x091 => some .andn
  | 0x092 => some .not
  | 0x093 => some .shl
  | 0x094 => some .shr
  | 0x095 => some .sar
  | 0x096 => some .rol
  | 0x097 => some .bfx
  | 0x098 => some .bfi
  | 0x099 => some .popc
  | 0x09A => some .clz
  | 0x09B => some .ctz
  | 0x09C => some .brev
  | 0x09D => some .permb
  | 0x09E => some .sel
  | 0x09F => some .lea
  | 0x0A0 => some .mov
  | 0x0A2 => some .dot4
  | 0x100 => some .fadd
  | 0x101 => some .fsub
  | 0x102 => some .fmul
  | 0x103 => some .ffma
  | 0x104 => some .fmin
  | 0x105 => some .fmax
  | 0x106 => some .fcmp
  | 0x107 => some .fclass
  | 0x108 => some .frnd
  | 0x109 => some .frcp
  | 0x10A => some .frsq
  | 0x10B => some .fsqrt
  | 0x10C => some .fdiv
  | 0x10D => some .fexp2
  | 0x10E => some .flog2
  | 0x10F => some .fsinr
  | 0x110 => some .fcosr
  | 0x111 => some .fscale
  | 0x112 => some .hadd2
  | 0x113 => some .hmul2
  | 0x114 => some .hfma2
  | 0x115 => some .hmin2
  | 0x116 => some .hmax2
  | 0x117 => some .hcmp2
  | 0x181 => some .cvtp
  | 0x182 => some .qnb8
  | 0x183 => some .dqnb8
  | 0x184 => some .qmx
  | 0x185 => some .dqmx
  | 0x186 => some .smax
  | 0x187 => some .cvtfx
  | 0x188 => some .cvtxf
  | 0x208 => some .fence
  | 0x209 => some .rfence
  | 0x280 => some .cpy
  | 0x281 => some .cpyg
  | 0x282 => some .cpys
  | 0x283 => some .cpyt
  | 0x284 => some .qfence
  | 0x285 => some .coll
  | 0x286 => some .binit
  | 0x287 => some .arrive
  | 0x288 => some .expect
  | 0x289 => some .waitp
  | 0x28A => some .bpoll
  | 0x300 => some .bld
  | 0x301 => some .mma
  | 0x302 => some .mmap
  | 0x303 => some .msa
  | 0x304 => some .mzero
  | 0x305 => some .mdr
  | 0x306 => some .mmov
  | 0x307 => some .mmt
  | 0x308 => some .mres
  | 0x309 => some .mchk
  | 0x30A => some .mstat
  | 0x380 => some .tex
  | 0x381 => some .tld
  | 0x382 => some .tgath
  | 0x383 => some .tdim
  | 0x384 => some .ist
  | 0x385 => some .hgf
  | 0x386 => some .hgs
  | 0x387 => some .rbox
  | 0x388 => some .rtri
  | 0x389 => some .mvtx
  | 0x38A => some .mprim
  | 0x38B => some .mcommit
  | _ => none

/-- The words of format RI. -/
def riCtor (opc : Nat) : Option (RI → Instr) :=
  match opc with
  | 0x009 => some .pseti
  | 0x00F => some .trap
  | 0x011 => some .csrr
  | 0x012 => some .csrw
  | 0x017 => some .prefc
  | 0x0A1 => some .movi
  | 0x0C0 => some .iaddRi
  | 0x0C1 => some .isubRi
  | 0x0C2 => some .imulRi
  | 0x0C8 => some .iminRi
  | 0x0C9 => some .imaxRi
  | 0x0CC => some .icmpRi
  | 0x0CE => some .andRi
  | 0x0CF => some .orRi
  | 0x0D0 => some .xorRi
  | 0x0D3 => some .shlRi
  | 0x0D4 => some .shrRi
  | 0x0D5 => some .sarRi
  | 0x0D6 => some .rolRi
  | 0x0DF => some .leaRi
  | 0x0E0 => some .movRi
  | 0x140 => some .faddRi
  | 0x142 => some .fmulRi
  | 0x143 => some .ffmaRi
  | 0x144 => some .fminRi
  | 0x145 => some .fmaxRi
  | 0x146 => some .fcmpRi
  | _ => none

/-- The words of format BR. -/
def brCtor (opc : Nat) : Option (BR → Instr) :=
  match opc with
  | 0x002 => some .bra
  | 0x003 => some .brc
  | 0x005 => some .call
  | _ => none

/-- The words of format MEM. -/
def memCtor (opc : Nat) : Option (MEM → Instr) :=
  match opc with
  | 0x200 => some .ld
  | 0x201 => some .st
  | 0x202 => some .ldu
  | 0x203 => some .stu
  | 0x204 => some .upd
  | 0x205 => some .updr
  | 0x206 => some .ucas
  | 0x207 => some .vismax
  | 0x20A => some .pref
  | 0x20B => some .discard
  | _ => none

/-- The words of group 1 in format RI, which take an extension (R112). -/
def takesExt (opc : Nat) : Bool := opc / 128 == 1 && (riCtor opc).isSome

/-- The half-opcodes (R128). -/
def HOp.ofCode (n : Nat) : Option HOp :=
  match n with
  | 0x00 => some .hnop
  | 0x01 => some .mov
  | 0x02 => some .iadd
  | 0x03 => some .isub
  | 0x04 => some .and
  | 0x05 => some .or
  | 0x06 => some .xor
  | 0x07 => some .shl
  | 0x08 => some .shr
  | 0x09 => some .sar
  | 0x0A => some .imin
  | 0x0B => some .imax
  | 0x0C => some .fadd
  | 0x0D => some .fsub
  | 0x0E => some .fmul
  | 0x0F => some .fmin
  | 0x10 => some .fmax
  | 0x11 => some .cvtF32S32
  | 0x12 => some .cvtS32F32
  | 0x13 => some .hadd2
  | 0x14 => some .hmul2
  | 0x20 => some .movi
  | 0x21 => some .iaddi
  | 0x22 => some .shli
  | 0x23 => some .shri
  | 0x24 => some .sari
  | 0x25 => some .andi
  | _ => none
/-- The code of a half-opcode (R128). -/
def HOp.code : HOp → BitVec 7
  | .hnop => 0x00
  | .mov => 0x01
  | .iadd => 0x02
  | .isub => 0x03
  | .and => 0x04
  | .or => 0x05
  | .xor => 0x06
  | .shl => 0x07
  | .shr => 0x08
  | .sar => 0x09
  | .imin => 0x0A
  | .imax => 0x0B
  | .fadd => 0x0C
  | .fsub => 0x0D
  | .fmul => 0x0E
  | .fmin => 0x0F
  | .fmax => 0x10
  | .cvtF32S32 => 0x11
  | .cvtS32F32 => 0x12
  | .hadd2 => 0x13
  | .hmul2 => 0x14
  | .movi => 0x20
  | .iaddi => 0x21
  | .shli => 0x22
  | .shri => 0x23
  | .sari => 0x24
  | .andi => 0x25

/-! ### Core words -/

/-- The guard field of a full word (R113). -/
def guardOf (w : W64) : Guard := ⟨w.getLsbD 51, w.extractLsb' 45 6⟩

/-- Operand field at a bit position; `v0` stands for a reserved code, which `fieldsOk` reports. -/
def field (w : W64) (lo : Nat) : Opnd := (Opnd.ofCode (w.extractLsb' lo 9)).getD (.v 0)
/-- Whether the operand fields at the given positions hold codes that name something. -/
def fieldsOk (w : W64) (los : List Nat) : Bool := los.all fun lo => (Opnd.ofCode (w.extractLsb' lo 9)).isSome

/-- The structural reading of a full word: its instruction, and whether its operand codes all name something;
`none` for an unassigned opcode. -/
def readFull (w : W64) (ext : Option (BitVec 37)) : Option (Instr × Bool) :=
  let opc := (w.extractLsb' 52 10).toNat
  let g := guardOf w
  let m := w.extractLsb' 0 9
  let rrr : RRR := ⟨g, field w 36, field w 27, field w 18, field w 9, m⟩
  if opc = 0x001 then some (.pnop, true)
  else if opc = 0x180 then
    some (.cvt ⟨g, field w 36, field w 27, w.extractLsb' 18 9, field w 9, m⟩, fieldsOk w [36, 27, 9])
  else if opc = 0x28B then
    some (if m.getLsbD 0 then .monaCancel rrr else .mona rrr, fieldsOk w [36, 27, 18, 9])
  else match rrrCtor opc with
  | some f => some (f rrr, fieldsOk w [36, 27, 18, 9])
  | none => match riCtor opc with
  | some f => some (f ⟨g, field w 36, field w 27, w.extractLsb' 0 27, ext⟩, fieldsOk w [36, 27])
  | none => match brCtor opc with
  | some f => some (f ⟨g, w.extractLsb' 21 24, w.extractLsb' 0 21⟩, true)
  | none => match memCtor opc with
  | some f => some (f ⟨g, field w 36, field w 27, w.extractLsb' 9 18, m⟩, fieldsOk w [36, 27])
  | none => none

/-- One half of a pair word (R123). -/
def readHalf (h : BitVec 31) : Option Half :=
  (HOp.ofCode (h.extractLsb' 24 7).toNat).map fun op =>
    ⟨op, h.getLsbD 23, h.extractLsb' 20 3, h.extractLsb' 12 8, h.extractLsb' 4 8, h.extractLsb' 0 4⟩

/-- Whether a word is congruent by its opcode, whatever its fields hold (R61). -/
def congruentBits (w : W64) : Bool :=
  w.extractLsb' 62 2 == 0 && (match readFull w none with
    | some (i, _) => i.congruent
    | none => false)

/-- Decode a core word; `next` is the word at the next offset of its plane. The first cause in the order of R129
is answered. A MOVI without its extension is an instruction whose execution raises EXT_MISSING. -/
def decodeWord (w : W64) (next : Option W64) : Except Cause Instr :=
  match (w.extractLsb' 62 2).toNat with
  | 0 =>
    let opc := (w.extractLsb' 52 10).toNat
    let ext := match next with
      | some x => if takesExt opc && x.extractLsb' 62 2 == 2 then some x else none
      | none => none
    match ext with
    | some x =>
      if x.extractLsb' 37 25 ≠ 0 then .error .illClass
      else finish w (some (x.extractLsb' 0 37))
    | none => finish w none
  | 1 =>
    match readHalf (w.extractLsb' 31 31), readHalf (w.extractLsb' 0 31) with
    | some h0, some h1 =>
      if !pairOk h0 h1 then .error .illPair
      else if !(Instr.pairWord h0 h1).modOk then .error .illMod
      else if !(Instr.pairWord h0 h1).operandsOk then .error .illOperand
      else .ok (.pairWord h0 h1)
    | _, _ => .error .illOpc
  | 2 => .ok .pnop
  | _ => .error .illClass
where
  /-- The checks of R129 after the class of a full word. -/
  finish (w : W64) (ext : Option (BitVec 37)) : Except Cause Instr :=
    match readFull w ext with
    | none => .error .illOpc
    | some (i, codes) =>
      if !i.modOk then .error .illMod
      else if !codes || !i.operandsOk then .error .illOperand
      else .ok i

/-- A full word from its opcode, guard and low 45 bits (R113). -/
def encFull (opc : BitVec 10) (g : Guard) (low : BitVec 45) : W64 :=
  (0 : BitVec 2) ++ opc ++ BitVec.ofBool g.neg ++ g.idx ++ low
/-- A half of a pair word (R123). -/
def encHalf (h : Half) : BitVec 31 :=
  h.op.code ++ BitVec.ofBool h.neg ++ h.idx ++ h.d ++ h.a ++ h.m

/-- What an instruction is written as: a core word with its extension, a queue word, or nothing (a device step). -/
inductive Code where
  | core (w : W64) (ext : Option W64)
  | queue (w : W32)
  | none
  deriving DecidableEq, Repr

/-- An RRR or TILE word. -/
def encRRR (opc : BitVec 10) (w : RRR) : Code :=
  .core (encFull opc w.g (w.d.code ++ w.a.code ++ w.b.code ++ w.c.code ++ w.m)) Option.none
/-- An RI word and its extension (R111, R112). -/
def encRI (opc : BitVec 10) (w : RI) : Code :=
  .core (encFull opc w.g (w.d.code ++ w.a.code ++ w.imm)) (w.ext.map fun x => (2 : BitVec 2) ++ (0 : BitVec 25) ++ x)
/-- A BR word. -/
def encBR (opc : BitVec 10) (w : BR) : Code := .core (encFull opc w.g (w.target ++ w.join)) Option.none
/-- A MEM word. -/
def encMEM (opc : BitVec 10) (w : MEM) : Code :=
  .core (encFull opc w.g (w.d.code ++ w.base.code ++ w.ofs ++ w.m)) Option.none

/-- Queue word formats R, I and M (R303). -/
def encQR (op : BitVec 6) (d a b : BitVec 4) : Code := .queue (op ++ d ++ a ++ b ++ (0 : BitVec 14))
@[inherit_doc encQR] def encQI (op : BitVec 6) (d a : BitVec 4) (i : BitVec 18) : Code := .queue (op ++ d ++ a ++ i)
@[inherit_doc encQR] def encQM (op : BitVec 6) (d a w : BitVec 4) (o : BitVec 14) : Code := .queue (op ++ d ++ a ++ w ++ o)

/-- The words of an instruction. -/
def encode : Instr → Code
  | .pnop => .core 0x0017E00000000000 Option.none
  | .nop w => encRRR 0x000 w
  | .bri w => encRRR 0x004 w
  | .ret w => encRRR 0x006 w
  | .exit w => encRRR 0x007 w
  | .pset w => encRRR 0x008 w
  | .vote w => encRRR 0x00A w
  | .lshf w => encRRR 0x00B w
  | .lred w => encRRR 0x00C w
  | .plog w => encRRR 0x00D w
  | .pmov w => encRRR 0x00E w
  | .tret w => encRRR 0x010 w
  | .clock w => encRRR 0x013 w
  | .chkerr w => encRRR 0x014 w
  | .phase w => encRRR 0x015 w
  | .ckpt w => encRRR 0x016 w
  | .iadd w => encRRR 0x080 w
  | .isub w => encRRR 0x081 w
  | .imul w => encRRR 0x082 w
  | .imulh w => encRRR 0x083 w
  | .imad w => encRRR 0x084 w
  | .imadw w => encRRR 0x085 w
  | .idiv w => encRRR 0x086 w
  | .irem w => encRRR 0x087 w
  | .imin w => encRRR 0x088 w
  | .imax w => encRRR 0x089 w
  | .iabs w => encRRR 0x08A w
  | .ineg w => encRRR 0x08B w
  | .icmp w => encRRR 0x08C w
  | .iaddc w => encRRR 0x08D w
  | .and w => encRRR 0x08E w
  | .or w => encRRR 0x08F w
  | .xor w => encRRR 0x090 w
  | .andn w => encRRR 0x091 w
  | .not w => encRRR 0x092 w
  | .shl w => encRRR 0x093 w
  | .shr w => encRRR 0x094 w
  | .sar w => encRRR 0x095 w
  | .rol w => encRRR 0x096 w
  | .bfx w => encRRR 0x097 w
  | .bfi w => encRRR 0x098 w
  | .popc w => encRRR 0x099 w
  | .clz w => encRRR 0x09A w
  | .ctz w => encRRR 0x09B w
  | .brev w => encRRR 0x09C w
  | .permb w => encRRR 0x09D w
  | .sel w => encRRR 0x09E w
  | .lea w => encRRR 0x09F w
  | .mov w => encRRR 0x0A0 w
  | .dot4 w => encRRR 0x0A2 w
  | .fadd w => encRRR 0x100 w
  | .fsub w => encRRR 0x101 w
  | .fmul w => encRRR 0x102 w
  | .ffma w => encRRR 0x103 w
  | .fmin w => encRRR 0x104 w
  | .fmax w => encRRR 0x105 w
  | .fcmp w => encRRR 0x106 w
  | .fclass w => encRRR 0x107 w
  | .frnd w => encRRR 0x108 w
  | .frcp w => encRRR 0x109 w
  | .frsq w => encRRR 0x10A w
  | .fsqrt w => encRRR 0x10B w
  | .fdiv w => encRRR 0x10C w
  | .fexp2 w => encRRR 0x10D w
  | .flog2 w => encRRR 0x10E w
  | .fsinr w => encRRR 0x10F w
  | .fcosr w => encRRR 0x110 w
  | .fscale w => encRRR 0x111 w
  | .hadd2 w => encRRR 0x112 w
  | .hmul2 w => encRRR 0x113 w
  | .hfma2 w => encRRR 0x114 w
  | .hmin2 w => encRRR 0x115 w
  | .hmax2 w => encRRR 0x116 w
  | .hcmp2 w => encRRR 0x117 w
  | .cvtp w => encRRR 0x181 w
  | .qnb8 w => encRRR 0x182 w
  | .dqnb8 w => encRRR 0x183 w
  | .qmx w => encRRR 0x184 w
  | .dqmx w => encRRR 0x185 w
  | .smax w => encRRR 0x186 w
  | .cvtfx w => encRRR 0x187 w
  | .cvtxf w => encRRR 0x188 w
  | .fence w => encRRR 0x208 w
  | .rfence w => encRRR 0x209 w
  | .cpy w => encRRR 0x280 w
  | .cpyg w => encRRR 0x281 w
  | .cpys w => encRRR 0x282 w
  | .cpyt w => encRRR 0x283 w
  | .qfence w => encRRR 0x284 w
  | .coll w => encRRR 0x285 w
  | .binit w => encRRR 0x286 w
  | .arrive w => encRRR 0x287 w
  | .expect w => encRRR 0x288 w
  | .waitp w => encRRR 0x289 w
  | .bpoll w => encRRR 0x28A w
  | .bld w => encRRR 0x300 w
  | .mma w => encRRR 0x301 w
  | .mmap w => encRRR 0x302 w
  | .msa w => encRRR 0x303 w
  | .mzero w => encRRR 0x304 w
  | .mdr w => encRRR 0x305 w
  | .mmov w => encRRR 0x306 w
  | .mmt w => encRRR 0x307 w
  | .mres w => encRRR 0x308 w
  | .mchk w => encRRR 0x309 w
  | .mstat w => encRRR 0x30A w
  | .tex w => encRRR 0x380 w
  | .tld w => encRRR 0x381 w
  | .tgath w => encRRR 0x382 w
  | .tdim w => encRRR 0x383 w
  | .ist w => encRRR 0x384 w
  | .hgf w => encRRR 0x385 w
  | .hgs w => encRRR 0x386 w
  | .rbox w => encRRR 0x387 w
  | .rtri w => encRRR 0x388 w
  | .mvtx w => encRRR 0x389 w
  | .mprim w => encRRR 0x38A w
  | .mcommit w => encRRR 0x38B w
  | .pseti w => encRI 0x009 w
  | .trap w => encRI 0x00F w
  | .csrr w => encRI 0x011 w
  | .csrw w => encRI 0x012 w
  | .prefc w => encRI 0x017 w
  | .movi w => encRI 0x0A1 w
  | .iaddRi w => encRI 0x0C0 w
  | .isubRi w => encRI 0x0C1 w
  | .imulRi w => encRI 0x0C2 w
  | .iminRi w => encRI 0x0C8 w
  | .imaxRi w => encRI 0x0C9 w
  | .icmpRi w => encRI 0x0CC w
  | .andRi w => encRI 0x0CE w
  | .orRi w => encRI 0x0CF w
  | .xorRi w => encRI 0x0D0 w
  | .shlRi w => encRI 0x0D3 w
  | .shrRi w => encRI 0x0D4 w
  | .sarRi w => encRI 0x0D5 w
  | .rolRi w => encRI 0x0D6 w
  | .leaRi w => encRI 0x0DF w
  | .movRi w => encRI 0x0E0 w
  | .faddRi w => encRI 0x140 w
  | .fmulRi w => encRI 0x142 w
  | .ffmaRi w => encRI 0x143 w
  | .fminRi w => encRI 0x144 w
  | .fmaxRi w => encRI 0x145 w
  | .fcmpRi w => encRI 0x146 w
  | .bra w => encBR 0x002 w
  | .brc w => encBR 0x003 w
  | .call w => encBR 0x005 w
  | .ld w => encMEM 0x200 w
  | .st w => encMEM 0x201 w
  | .ldu w => encMEM 0x202 w
  | .stu w => encMEM 0x203 w
  | .upd w => encMEM 0x204 w
  | .updr w => encMEM 0x205 w
  | .ucas w => encMEM 0x206 w
  | .vismax w => encMEM 0x207 w
  | .pref w => encMEM 0x20A w
  | .discard w => encMEM 0x20B w
  | .mona w => encRRR 0x28B w
  | .monaCancel w => encRRR 0x28B w
  | .cvt w => .core (encFull 0x180 w.g (w.d.code ++ w.a.code ++ w.cm ++ w.c.code ++ w.m)) Option.none
  | .pairWord h0 h1 => .core ((1 : BitVec 2) ++ encHalf h0 ++ encHalf h1) Option.none
  | .qbLdb d a w o => encQM 0x01 d a w o
  | .qbLdh d a w o => encQM 0x02 d a w o
  | .qbLdw d a w o => encQM 0x03 d a w o
  | .qbLdd d a w o => encQM 0x04 d a w o
  | .qbStb d a w o => encQM 0x05 d a w o
  | .qbSth d a w o => encQM 0x06 d a w o
  | .qbStw d a w o => encQM 0x07 d a w o
  | .qbStd d a w o => encQM 0x08 d a w o
  | .qbAdd d a b => encQR 0x10 d a b
  | .qbSub d a b => encQR 0x11 d a b
  | .qbAnd d a b => encQR 0x12 d a b
  | .qbOr d a b => encQR 0x13 d a b
  | .qbXor d a b => encQR 0x14 d a b
  | .qbShl d a b => encQR 0x15 d a b
  | .qbShr d a b => encQR 0x16 d a b
  | .qbMul d a b => encQR 0x17 d a b
  | .qbCeq d a b => encQR 0x20 d a b
  | .qbCne d a b => encQR 0x21 d a b
  | .qbCltu d a b => encQR 0x22 d a b
  | .qbClts d a b => encQR 0x23 d a b
  | .qbAddi d a i => encQI 0x18 d a i
  | .qbAndi d a i => encQI 0x19 d a i
  | .qbOri d a i => encQI 0x1A d a i
  | .qbXori d a i => encQI 0x1B d a i
  | .qbShli d a s => encQI 0x1C d a ((0 : BitVec 12) ++ s)
  | .qbShri d a s => encQI 0x1D d a ((0 : BitVec 12) ++ s)
  | .qbMovi d i => encQI 0x1E d 0 i
  | .qbShlor d i => encQI 0x1F d 0 i
  | .qbBz a i => encQI 0x28 0 a i
  | .qbBnz a i => encQI 0x29 0 a i
  | .qbJmp i => encQI 0x2A 0 0 i
  | .qbLoop a n l => .queue ((0x2B : BitVec 6) ++ (0 : BitVec 4) ++ a ++ n ++ l)
  | .qbLidx d => encQI 0x2C d 0 0
  | .launch d => encQI 0x30 d 0 0
  | .signal d => encQI 0x30 d 0 1
  | .hash d => encQI 0x30 d 0 2
  | .sign d => encQI 0x30 d 0 3
  | .random d => encQI 0x30 d 0 4
  | .doesend d => encQI 0x30 d 0 5
  | .measread d => encQI 0x30 d 0 6
  | .emit a w o => encQM 0x31 0 a w o
  | .halt => encQI 0x3E 0 0 0
  | .fault i => encQI 0x3F 0 0 i
  | _ => .none

/-! ### Queue words (R303, R304) -/

/-- Decode a queue word; `none` for an unassigned operation or a nonzero unused field (R310, rule 2). -/
def decodeQueue (w : W32) : Option Instr :=
  let d := w.extractLsb' 22 4
  let a := w.extractLsb' 18 4
  let b := w.extractLsb' 14 4
  let i := w.extractLsb' 0 18
  let o := w.extractLsb' 0 14
  let s := w.extractLsb' 0 6
  let mk (ok : Bool) (x : Instr) : Option Instr := if ok then some x else none
  match (w.extractLsb' 26 6).toNat with
  | 0x01 => some (.qbLdb d a b o)
  | 0x02 => some (.qbLdh d a b o)
  | 0x03 => some (.qbLdw d a b o)
  | 0x04 => some (.qbLdd d a b o)
  | 0x05 => some (.qbStb d a b o)
  | 0x06 => some (.qbSth d a b o)
  | 0x07 => some (.qbStw d a b o)
  | 0x08 => some (.qbStd d a b o)
  | 0x10 => mk (o == 0) (.qbAdd d a b)
  | 0x11 => mk (o == 0) (.qbSub d a b)
  | 0x12 => mk (o == 0) (.qbAnd d a b)
  | 0x13 => mk (o == 0) (.qbOr d a b)
  | 0x14 => mk (o == 0) (.qbXor d a b)
  | 0x15 => mk (o == 0) (.qbShl d a b)
  | 0x16 => mk (o == 0) (.qbShr d a b)
  | 0x17 => mk (o == 0) (.qbMul d a b)
  | 0x20 => mk (o == 0) (.qbCeq d a b)
  | 0x21 => mk (o == 0) (.qbCne d a b)
  | 0x22 => mk (o == 0) (.qbCltu d a b)
  | 0x23 => mk (o == 0) (.qbClts d a b)
  | 0x18 => some (.qbAddi d a i)
  | 0x19 => some (.qbAndi d a i)
  | 0x1A => some (.qbOri d a i)
  | 0x1B => some (.qbXori d a i)
  | 0x1C => mk (w.extractLsb' 6 12 == 0) (.qbShli d a s)
  | 0x1D => mk (w.extractLsb' 6 12 == 0) (.qbShri d a s)
  | 0x1E => mk (a == 0) (.qbMovi d i)
  | 0x1F => mk (a == 0) (.qbShlor d i)
  | 0x28 => mk (d == 0) (.qbBz a i)
  | 0x29 => mk (d == 0) (.qbBnz a i)
  | 0x2A => mk (d == 0 && a == 0) (.qbJmp i)
  | 0x2B => mk (d == 0) (.qbLoop a (w.extractLsb' 12 6) (w.extractLsb' 0 12))
  | 0x2C => mk (a == 0 && i == 0) (.qbLidx d)
  | 0x30 =>
    if a ≠ 0 then none else
    match i.toNat with
    | 0 => some (.launch d)
    | 1 => some (.signal d)
    | 2 => some (.hash d)
    | 3 => some (.sign d)
    | 4 => some (.random d)
    | 5 => some (.doesend d)
    | 6 => some (.measread d)
    | _ => none
  | 0x31 => mk (d == 0) (.emit a b o)
  | 0x3E => mk (d == 0 && a == 0 && i == 0) .halt
  | 0x3F => mk (d == 0 && a == 0) (.fault i)
  | _ => none

/-- Decode what `encode` writes. -/
def decodeCode : Code → Option Instr
  | .core w ext => (decodeWord w ext).toOption
  | .queue w => decodeQueue w
  | .none => Option.none

/-- The instruction read from bits numbered as the opcode table numbers them: 32 bits for a queue word; otherwise a
core word and, above it, the word at the next offset. -/
def decodeTableWord (nbits w : Nat) : Option Instr :=
  if nbits ≤ 32 then decodeQueue (BitVec.ofNat 32 w)
  else (decodeWord (BitVec.ofNat 64 w) (some (BitVec.ofNat 64 (w / 2 ^ 64)))).toOption

/-! ### Bytes -/

/-- The little-endian bytes of a value (R4). -/
def leBytes (n : Nat) (v : Nat) : List Byte := (List.range n).map fun k => BitVec.ofNat 8 (v / 2 ^ (8 * k))
/-- The value of little-endian bytes (R4). -/
def leNat : List Byte → Nat
  | [] => 0
  | b :: bs => b.toNat + 256 * leNat bs

end Sys2Proof
end

