-- ==== Sys2Proof/Machine/Tables.lean ====
section
/-! DEFINITION. Tables of plain data: lists of key and value pairs with strictly rising keys. -/

namespace Sys2Proof

/-- A table keyed by numbers, keys strictly rising. -/
abbrev Tab (α : Type) := List (Nat × α)

/-- The entry of a key. -/
def Tab.get? {α : Type} : Tab α → Nat → Option α
  | [], _ => none
  | (k, v) :: t, x => if k = x then some v else Tab.get? t x
/-- The entry of a key, or a default. -/
def Tab.getD {α : Type} (t : Tab α) (x : Nat) (d : α) : α := (t.get? x).getD d
/-- Set the entry of a key. -/
def Tab.set {α : Type} : Tab α → Nat → α → Tab α
  | [], x, a => [(x, a)]
  | (k, v) :: t, x, a => if k = x then (x, a) :: t else if x < k then (x, a) :: (k, v) :: t else (k, v) :: Tab.set t x a
/-- Remove the entry of a key. -/
def Tab.del {α : Type} (t : Tab α) (x : Nat) : Tab α := t.filter fun e => e.1 != x
/-- Set an entry, keeping no entry that equals the default. -/
def Tab.put {α : Type} [DecidableEq α] (d : α) (t : Tab α) (x : Nat) (a : α) : Tab α :=
  if a = d then t.del x else t.set x a
/-- Change the entry of a key, if there is one. -/
def Tab.modify {α : Type} (t : Tab α) (x : Nat) (f : α → α) : Tab α :=
  match t.get? x with
  | some a => t.set x (f a)
  | none => t
/-- The first entry whose key and value meet a test. -/
def Tab.findBy {α : Type} (t : Tab α) (p : Nat → α → Bool) : Option (Nat × α) := t.find? fun x => p x.1 x.2
/-- Change every entry. -/
def Tab.mapV {α : Type} (t : Tab α) (f : α → α) : Tab α := t.map fun x => (x.1, f x.2)
/-- Keys strictly rising. -/
def Tab.sorted {α : Type} : Tab α → Bool
  | [] => true
  | [_] => true
  | (a, _) :: (b, y) :: t => decide (a < b) && Tab.sorted ((b, y) :: t)

end Sys2Proof
end

