-- ==== Sys2Proof/Machine/State.lean ====
section
/-! DEFINITION. The state of the machine, as plain data, and the state after reset.
INVENTORY.md lists every field with the rule that names it and its reset value. -/

namespace Sys2Proof.Machine

/-- Why a step can stop. Each says who raises it; all are safe, since the machine stops where the part has no step. -/
inductive Fault where
  /-- Raised by the meaning of a core or queue word when no group or queue slot is issuing it (safe: log entry 6). -/
  | noIssuer
  /-- Raised by a device step whose subject does not exist in the state (safe: log entry 6). -/
  | notEnabled
  deriving DecidableEq, Repr

/-- Why an instruction has no meaning. -/
inductive Refusal where
  /-- Raised by an arm of `exec` whose instruction is not modelled yet (safe). -/
  | notModelled (mnemonic : String)
  deriving DecidableEq, Repr

/-! ### Groups (03, 06, 14) -/

/-- A divergence entry (R141). -/
structure DivEntry where
  ofs : BitVec 24
  mask : Mask
  join : BitVec 24
  deriving DecidableEq, Repr

/-- The vector, uniform and predicate registers of a group; an absent entry is zero (R50, R51).
A vector entry's key is 32 · register + lane, a predicate's value is its lane mask. -/
structure Regs where
  v : Tab W32
  s : Tab W64
  p : Tab Mask
  deriving DecidableEq, Repr

/-- What holds a group besides its scoreboard (R165, R167, R66, R149). -/
inductive Wait where
  | none
  /-- CLOCK.until holds until TIME reaches the target. -/
  | clock (target : W64) (d : Nat)
  /-- PHASE holds until the neighbourhood's last group executes it. -/
  | phase
  /-- A code fetch at the offset waits for its page. -/
  | fetch
  /-- A BRI table read waits for its page. -/
  | table
  /-- A cause of a redundant group waits for the other role's (R347). -/
  | trapMatch
  /-- WAITP waits on an object of a workgroup (R236). -/
  | waitp (wg index : Nat)
  /-- MSTAT waits for the commands below a number (R267). -/
  | mstat (upTo : Nat)
  /-- A code fetch or table read failed for good (R172, R175): its cause, address and EXTRA. -/
  | failed (cause : BitVec 8) (addr extra : W64)
  deriving DecidableEq, Repr

/-- A trap record before it is written out (R160). -/
structure TrapRec where
  words : List W64
  deriving DecidableEq, Repr

/-- A resident group (R49). -/
structure Group where
  wg : Nat
  gi : Nat
  ofs : BitVec 24
  /-- PLANE of each lane; an absent lane is in plane 0. -/
  planes : Tab (BitVec 3)
  exec : Mask
  live : Mask
  cj : BitVec 24
  depth : Nat
  /-- Hardware divergence entries, top first (R142). -/
  hw : List DivEntry
  callDepth : Nat
  /-- Bytes the frames occupy (R142). -/
  frameBytes : Nat
  regs : Regs
  chk : ChkInt
  schedIndex : BitVec 2
  phaseNo : BitVec 24
  /-- Planes still to issue at OFFSET once the offset has begun (R58, R66); none at a boundary. -/
  todo : Option (BitVec 8)
  /-- Planes a handler's return names for the next offset begun (R163). -/
  resumePlanes : BitVec 8
  /-- EXEC and PLANE as the next offset takes them (R58, R63, R64). -/
  execNext : Mask
  planesNext : Tab (BitVec 3)
  /-- Planes whose word at OFFSET was captured as a follow-on (R228). -/
  captured : BitVec 8
  capturedNext : BitVec 8
  /-- The same at the offset a trap was taken at, until its handler returns. -/
  capturedAt : Option (BitVec 24 × BitVec 8 × BitVec 8)
  /-- Pending registers with the access or command that writes each (R319). -/
  pend : List (RegFile × Nat × Nat)
  /-- Wait stamp (R317). -/
  stamp : Nat
  wait : Wait
  /-- Debug halt and a pending single step (R486). -/
  halted : Bool
  stepReq : Bool
  /-- A stop at the next offset boundary has been asked for (R363, R366). -/
  stop : Bool
  /-- The group issues nothing more (R153). -/
  ended : Bool
  /-- A trap held until the operand log resolves (R181). -/
  heldTrap : Bool
  ckptPtr : W64
  /-- TIME of the group's last PHASE (R370). -/
  phaseTime : Nat
  deriving DecidableEq, Repr

/-! ### Memory accesses and faults (09, 14 R322–R324, 19) -/

/-- Where an access of a group stands. -/
inductive AccPhase where
  /-- Issued and not yet performed. -/
  | inflight
  /-- Its fault has found no free entry of the log: it holds its pipe's memory port (R322). -/
  | stalled
  /-- In the operand log, waiting for its page to be served (R322). -/
  | logged
  /-- Its page has been served; it replays in program order (R324). -/
  | ready
  /-- Resolution ended in a deferred cause (R172): cause code, lanes, address, EXTRA. -/
  | failed (cause : BitVec 8) (lanes : Mask) (addr extra : W64)
  deriving DecidableEq, Repr

/-- Where a byte is: a core's scratchpad under a key, or memory under a page's key and CACHE attribute (R375, R377). -/
inductive Place where
  | scr (core key ofs : Nat)
  | mem (key cache addr : Nat)
  deriving DecidableEq, Repr

/-- One update unit of one or more consecutive elements (R213, R214): lane, address, operation (7 is
compare-and-swap), type, values, the compare value of UCAS, and the bytes' places once the word has resolved. -/
structure UUnit where
  lane : Nat
  addr : W64
  op : Nat
  ty : Nat
  vals : List W64
  cmp : W64
  places : List Place
  deriving DecidableEq, Repr

/-- A memory word issued and not yet performed, with its captured sources (R209). -/
structure Access where
  wg : Nat
  gi : Nat
  word : Instr
  ofs : BitVec 24
  plane : Nat
  mask : Mask
  exec : Mask
  pmask : BitVec 8
  regs : Regs
  phase : AccPhase
  /-- The elements known at issue: lane, address, bytes (R323, R397). -/
  els : List (Nat × W64 × Nat)
  /-- The group and pending owner of the sweep that take the returned values too (R336). -/
  mirror : Option (Nat × Nat)
  /-- Its place in the load-value queue of a redundant pair (R337). -/
  place : Option Nat
  /-- Update units still to be applied, in order (R212, R214). -/
  units : List UUnit
  /-- Whether the units have been formed (the descriptor of an HGS is read first, R290). -/
  formed : Bool
  /-- Values that the units applied so far return (R214). -/
  got : List (RegFile × Nat × Nat × W64)
  /-- The lowest lane whose unit has met poison, with its address (R390). -/
  poison : Option (Nat × W64)
  /-- An acquire that holds the group's later memory words (R400). -/
  acquire : Bool
  deriving DecidableEq, Repr

/-- Who waits on a page (R172). -/
inductive Waiter where
  | access (id : Nat)
  | group (core slot : Nat)
  | copy (id : Nat)
  | queue (hw : Nat)
  | drain (core : Nat)
  /-- A page asked for ahead of need (R169). -/
  | none
  deriving DecidableEq, Repr

/-- A page fault waiting for the firmware (R45, R384): PASID, page, access kind of R175, fault code, waiter. -/
structure PageFault where
  pasid : Nat
  va : W64
  kind : Nat
  cause : BitVec 8
  waiter : Waiter
  deriving DecidableEq, Repr

/-- A cached translation (R384): physical page, attributes as the leaf holds them, hotness count. -/
structure TlbEntry where
  leaf : W64
  /-- Base-two logarithm of the page's size. -/
  size : Nat
  hot : Nat
  /-- Address of the leaf entry, for the shadow table (R387). -/
  at_ : Nat
  deriving DecidableEq, Repr

/-- An L1 line (R377): key index of its last writer, bytes, dirty mask. -/
structure L1Line where
  key : Nat
  data : List Byte
  dirty : BitVec 128
  deriving DecidableEq, Repr

/-- A line of the memory-side cache (R76, R81, R379): key index of its last writer, the owner of the ways that hold it (a
pitch, or 16 for none), the bytes written since its last write-back, those of a system page that the host or the peer has
changed since the line was read, and what lies beneath either. What the line reads as stands in the one memory (log
entry 99). -/
structure MscLine where
  key : Nat
  owner : Nat
  dirty : BitVec 128
  stale : BitVec 128
  under : List Byte
  deriving DecidableEq, Repr

/-- A byte that a core's combining buffer holds of a page of WC memory, with the key of its page (R377). -/
structure WcByte where
  key : Nat
  val : Byte
  deriving DecidableEq, Repr

/-- Key index and key generation a DRAM sector was written under (R381, R478). -/
structure KeyTag where
  idx : Nat
  gen : Nat
  deriving DecidableEq, Repr

/-! ### Engines (09 R223–R241, 10) -/

/-- What a queue entry is: a copy or collective, or a QFENCE with the commands it joins (R231, R232). -/
inductive CopyKind where
  | cpy | cpyg | cpys | cpyt | coll
  | fence (joins : List Nat)
  deriving DecidableEq, Repr

/-- Where a copy stands. -/
inductive CopyPhase where
  | queued
  | running
  /-- An unresolvable fault inside it (R227): the inner cause. -/
  | faulted (inner : BitVec 8)
  deriving DecidableEq, Repr

/-- A captured follow-on command (R228): the word, its sources, its token register. -/
structure FollowOn where
  word : Instr
  vals : List W64
  token : Option Nat
  deriving DecidableEq, Repr

/-- A command of a copy queue or of a pitch's collective queue (R223–R232). -/
structure Copy where
  wg : Nat
  gi : Nat
  queue : Nat
  kind : CopyKind
  mods : BitVec 9
  dst : W64
  src : W64
  desc : W64
  desc2 : W64
  token : Nat
  ofs : BitVec 24
  plane : Nat
  exec : Mask
  pmask : BitVec 8
  follow : Option FollowOn
  /-- Under which number its token is pending, and the sweep's workgroup, number and follow-on (R226, R336). -/
  owner : Nat
  mirror : Option (Nat × Nat × Option FollowOn)
  /-- The core it was issued on, whose engine runs it (R229). -/
  core : Nat
  phase : CopyPhase
  /-- A page the copy waits on. -/
  waiting : Bool
  deriving DecidableEq, Repr

/-- A command of a matrix queue with its sources as read at issue (R245, R246), or a QFENCE. -/
structure MCmd where
  id : Nat
  gi : Nat
  word : Instr
  vals : List W64
  block : List Byte
  token : Option Nat
  owner : Nat
  ofs : BitVec 24
  plane : Nat
  exec : Mask
  pmask : BitVec 8
  joins : List Nat
  running : Bool
  waiting : Bool
  /-- K-steps that a running MMT or MRES may still perform, and the bytes of C it has written (R244, R265, R266); of a drain, the
  entries it has made (R339). -/
  left : Nat
  sent : Nat
  /-- A drain's fault that could not be resolved: cause and address (R172, R262). -/
  dead : Option (BitVec 8 × W64)
  deriving DecidableEq, Repr

/-- A CIM slot (R254): format, rows, columns and the element codes, keyed 256 · row + column. -/
structure CimSlot where
  fb : Nat
  kr : Nat
  nc : Nat
  codes : Tab (BitVec 16)
  deriving DecidableEq, Repr

/-- The partials buffer and its record (R256). A partial is an exact integer times a power of two, or NaN-marked. -/
structure Partials where
  row0 : Nat
  m : Nat
  cols : List Nat
  fa : Nat
  fb : Nat
  kr : Nat
  /-- Keyed (m · 256 + n) · 16 + g: mantissa and exponent, or none for a NaN mark. -/
  vals : Tab (Option (Int × Int))
  deriving DecidableEq, Repr

/-- The MMT sequencer (R264–R266). -/
structure Mmt where
  word : RRR
  block : List Byte
  mb : Nat
  nb : Nat
  kstep : Nat
  /-- The partial block in the reserved tile, keyed 256 · row + column. -/
  tile : Tab W32
  held : Bool
  deriving DecidableEq, Repr

/-- The matrix context (R243). -/
structure MCtx where
  /-- Accumulator elements, keyed tile · 16384 + row · 256 + column; absent is +0. -/
  acc : Tab W32
  /-- Tiles whose unlisted elements are unspecified since an MMT, with a number for their free values (R265). -/
  free : Tab Nat
  slots : Tab CimSlot
  part : Option Partials
  mmt : Option Mmt
  chkOn : Bool
  chkK : Nat
  chkCount : Nat
  /-- Key index of the last writer of each part: tiles 0–7, slots 8–15, the partials buffer 16 (R81). -/
  tags : Tab Nat
  deriving DecidableEq, Repr

/-- A matrix context saved in a save block (R244, R368), where it lies, and the number of the bytes it was written as (log
entry 101). -/
structure SavedCtx where
  ctx : MCtx
  at_ : Nat
  no : Nat
  deriving DecidableEq, Repr

/-- A monitor or timer-only arrival (R238, R239): owner, the word's place in memory, object, deadline, and whether a
write has covered a byte of the word. -/
structure Monitor where
  wg : Nat
  gi : Nat
  va : W64
  pa : Option Nat
  index : Nat
  deadline : Option Nat
  hit : Bool
  deriving DecidableEq, Repr

/-! ### Redundant pairs (16) -/

/-- A place of the load-value queue (R336, R337): addresses, bytes, poison, a deferred cause (code, lanes,
address, EXTRA), and the values of CYCLE, TIME, GROUP or a CSR. -/
structure LvPlace where
  filled : Bool
  mask : Mask
  els : List (Nat × W64 × Nat)
  bytes : List (W64 × Byte)
  /-- The lanes that consumed poison, ascending, each with the address at which it met it. -/
  poison : List (Nat × W64)
  dead : Option (BitVec 8 × Mask × W64 × W64)
  regs : List W64
  deriving DecidableEq, Repr

/-- A cause as it is raised: code, lanes, address, EXTRA, the record's offset and planes, and the resume point. -/
structure TrapReq where
  cause : BitVec 8
  lanes : Mask
  /-- EXEC of the offset. -/
  exec : Mask
  addr : W64
  extra : W64
  ofs : BitVec 24
  pmask : BitVec 8
  planes : BitVec 8
  resume : BitVec 24
  resumePlanes : BitVec 8
  deriving DecidableEq, Repr

/-- What an entry does when it matches (R330, R347): a memory word, a copy, a drain piece with the bytes it writes
(target and byte), or a trap. -/
inductive EntryAct where
  | access (a : Access) (owner : Nat)
  | copy (c : Copy)
  | drain (bytes : List (W64 × Byte))
  | units (n : Nat) (a : Access)
  | trap (t : TrapReq)
  deriving DecidableEq, Repr

/-- A compare-buffer entry of one role (R339, R340). -/
structure Entry where
  /-- The group whose word made it. -/
  gi : Nat
  stream : Nat
  seq : Nat
  kind : Nat
  sig : W64
  ofs : BitVec 24
  plane : Nat
  time : Nat
  /-- Addresses the entry writes, for R338. -/
  els : List (Nat × W64 × Nat)
  act : EntryAct
  deriving DecidableEq, Repr

/-- One role of a redundant pair: numbers are kept per group or stream. -/
structure RedRole where
  wg : Nat
  entries : List Entry
  /-- Entries made in each stream (R339). -/
  made : Tab Nat
  /-- Words issued by each group (R338). -/
  count : Tab Nat
  /-- Queue places taken by each group (R337). -/
  taken : Tab Nat
  /-- Recorded state of the groups at the checkpoint (R343). -/
  saved : List Group
  savedCtx : Option SavedCtx
  savedCount : Tab Nat
  savedMade : Tab Nat
  /-- Prior contents, as the pitch's key reads them, of the scratchpad lines written since the checkpoint, by the line's offset in
  the core's scratchpad (R344). -/
  journal : Tab (List Byte)
  deriving DecidableEq, Repr

/-- A deferred cause on its way to the sweep (R347): the group, how many words it takes the sweep to reach it, and what
the trap record names. -/
structure Due where
  gi : Nat
  count : Nat
  ofs : BitVec 24
  exec : Mask
  pmask : BitVec 8
  cause : BitVec 8
  lanes : Mask
  addr : W64
  extra : W64
  deriving DecidableEq, Repr
/-- A redundant pair (R333–R351). -/
structure Pair where
  lead : RedRole
  sweep : RedRole
  slack : Nat
  /-- Load-value places, keyed group · 2^20 + place, since the checkpoint (R337, R344). -/
  places : Tab LvPlace
  /-- A checkpoint is being taken (R343). -/
  ckpt : Bool
  /-- A mismatch that the next COMPARE_ENTRY rolls back: cause, offset, plane (R337, R345). -/
  mustRoll : Option (BitVec 8 × BitVec 24 × Nat)
  rolled : Bool
  /-- An entry of kinds 2 to 5 has been performed since the checkpoint (R342). -/
  committed : Bool
  mismatch : Nat
  timeout : Nat
  rollbacks : Nat
  lastCause : BitVec 8
  lastOfs : BitVec 24
  lastPlane : Nat
  failed : Bool
  /-- Debug requests for groups of the pair, taken at the next checkpoint: group index, and 0 halt, 1 step (R486). -/
  dbg : List (Nat × Nat)
  /-- Deferred causes that the lead has met and the sweep has still to take, oldest first (R347). -/
  due : List Due
  deriving DecidableEq, Repr

/-- A workgroup whose sent entries are signed for the auditor: the running signature and the entries of each
stream (R452). -/
structure AuditSig where
  sig : W64
  made : Tab Nat
  deriving DecidableEq, Repr

/-! ### Links (21) -/

/-- A port (R421): lanes trained, mode, narrowing retrains. -/
structure Port where
  width : Nat
  mode : Nat
  retrains : Nat
  deriving DecidableEq, Repr

/-- An IDE selective stream (R419). -/
structure IdeStream where
  func : Nat
  port : Nat
  secure : Bool
  deriving DecidableEq, Repr

/-- A communicator (R420): its pitch, the first local rank, and each rank's location: whether it is a peer, and its
staging buffer. -/
structure Comm where
  pitch : Nat
  first : Nat
  ranks : List (Bool × Nat)
  deriving DecidableEq, Repr

/-- A translation asked of the host, or a Page Request for it (R415). -/
structure AtsReq where
  pasid : Nat
  va : W64
  kind : Nat
  pageRequest : Bool
  waiters : List Waiter
  deriving DecidableEq, Repr

/-- A pitch error record (R448); counters saturate at 0xFFFF. -/
structure ErrRec where
  ce : Nat
  ue : Nat
  ueEvict : Nat
  red : Nat
  sig : Nat
  quar : Nat
  stFail : Nat
  matChk : Nat
  audit : Nat
  degraded : Nat
  link : Nat
  lastCause : BitVec 8
  core : Nat
  core2 : Nat
  lastTime : Nat
  lastPa : Nat
  key : Nat
  retired : BitVec 96
  deriving DecidableEq, Repr

/-- An error record after power-on reset (R448). -/
def ErrRec.reset : ErrRec := ⟨0, 0, 0, 0, 0, 0, 0, 0, 0, 0, 0, 0, 0x7F, 0x7F, 0, 0, 0, 0⟩

/-! ### Queues (12, 17 R352–R355, 27 R471) -/

/-- A queue program (R309): its windows' lengths with WRITE, and its words. -/
structure QProg where
  wins : List (Nat × Bool)
  words : List W32
  deriving DecidableEq, Repr

/-- An active loop of a packet (R306). -/
structure QLoop where
  start : Nat
  last : Nat
  count : Nat
  idx : Nat
  deriving DecidableEq, Repr

/-- A queue record (R352) and its ready stamp. -/
structure QRec where
  ring : BitVec 48
  log2n : Nat
  pasid : Nat
  key : Nat
  pitch : Nat
  prog : Nat
  prio : Nat
  pin : Bool
  pinSlot : Nat
  slice : Nat
  active : Bool
  head : W32
  tail : W32
  outcome : Nat
  cause : BitVec 8
  lastWord : Nat
  fcode : BitVec 18
  failCnt : Nat
  winTab : BitVec 48
  user : List W64
  stamp : Nat
  deriving DecidableEq, Repr

/-- A queue record before system software writes it (R352). -/
def QRec.reset : QRec :=
  { ring := 0, log2n := 0, pasid := 0, key := 0, pitch := 0, prog := 0, prio := 0, pin := false, pinSlot := 0, slice := 0,
    active := false, head := 0, tail := 0, outcome := 0, cause := 0, lastWord := 0, fcode := 0, failCnt := 0, winTab := 0,
    user := [], stamp := 0 }

/-- A hardware queue slot with a queue mapped to it and the packet it runs (R299–R312, R355). -/
structure QSlot where
  /-- Key of the queue: 1024 · pitch + QID. -/
  queue : Nat
  mappedAt : Nat
  /-- To be unmapped at the next packet boundary. -/
  marked : Bool
  running : Bool
  prog : QProg
  pc : Nat
  /-- Index of the last word executed. -/
  last : Nat
  regs : Tab W64
  loops : List QLoop
  /-- Words executed and EMITs of the packet. -/
  count : Nat
  emits : Nat
  /-- A page or a verdict the packet waits on. -/
  waiting : Bool
  /-- A window page that could not be resolved. -/
  dead : Option (BitVec 8)
  /-- A LAUNCH has been passed on, and its verdict. -/
  asked : Bool
  verdict : Option W64
  /-- A DOESEND has been made. -/
  sent : Bool
  deriving DecidableEq, Repr

/-- A launch request on its way to the firmware (R307, R308, R463): who asked, its pitch and PASID, the request, and the
record batch it launches, if any. -/
structure LaunchReq where
  hw : Option Nat
  pitch : Nat
  pasid : Nat
  words : List W64
  node : Option (Nat × Nat × Nat × Nat)
  deriving DecidableEq, Repr

/-- The DOE mailbox (R471, R472): a request given to the queue, the response not yet read, an object to be
discarded after an Abort, DOE Error, and the requests that wait in the mailbox (R476). -/
structure Doe where
  busy : Bool
  resp : Option (List W32)
  drop : Bool
  error : Bool
  waiting : List (List W32)
  deriving DecidableEq, Repr

/-! ### Work (17, 01 R20, 02 R37) -/

/-- A kernel descriptor (R37). -/
structure KDesc where
  entry : BitVec 24
  trapEnt : BitVec 24
  planes : Nat
  codeOfs : Nat
  len : Nat
  vregs : Nat
  sregs : Nat
  preds : Nat
  barriers : Nat
  scratch : Nat
  stack : Nat
  groups : Nat
  w : Nat
  h : Nat
  nsched : Nat
  redundant : Bool
  auditable : Bool
  auditk : Nat
  scheds : List (Nat × Nat)
  maxVtx : Nat
  maxPrim : Nat
  deriving DecidableEq, Repr, Inhabited

/-- Where a workgroup stands. -/
inductive WgPhase where
  | resident | saved | ended | recorded
  deriving DecidableEq, Repr

/-- A workgroup that has been bound (R20, R49, R358). -/
structure Wg where
  launch : Nat
  nbh : Nat
  phase : WgPhase
  core : Nat
  slot : Nat
  ngroups : Nat
  scrBase : Nat
  scrSize : Nat
  vregs : Nat
  sregs : Nat
  preds : Nat
  pitch : Nat
  pasid : Nat
  prio : Nat
  wgid : Nat
  nbhid : Nat
  member : Nat
  role : Nat
  partner : Nat
  pslot : Nat
  desc : KDesc
  codeBase : W64
  args : W64
  trapPol : Nat
  /-- TIME of the bind or restore, for WGSLICE (R365). -/
  since : Nat
  /-- Save block in the pitch's save area (R368). -/
  saveAt : Nat
  /-- The groups of a saved workgroup as they stood: what the context blocks hold is read back from memory (R367,
  R368), the rest, which the blocks leave to the device, from here. -/
  savedGroups : List Group
  savedCtx : Option SavedCtx
  /-- The number of the bytes its operand-log entries were saved as (R367, log entry 101). -/
  logNo : Nat
  /-- Waiting claim on the matrix engine (R369). -/
  claim : Option Nat
  mqueue : List MCmd
  foDrop : Bool
  /-- Mesh output words: vertex · 20 + word, and 2^20 + primitive · 4 + word (R295). -/
  mesh : Tab W32
  committed : Option (Nat × Nat)
  meshOvf : Bool
  selfcheck : Bool
  failed : Bool
  cause : BitVec 8
  poisoned : Bool
  trap : Option TrapRec
  endTime : Nat
  /-- A pre-emption has been asked for (R366). -/
  preempt : Bool
  /-- Held by a signature mismatch: not restored until its cores' verdicts (R438). -/
  heldBack : Bool
  /-- The committed mesh output has been rasterised (R466). -/
  rastered : Bool
  deriving DecidableEq, Repr

/-- A neighbourhood (R70, R167, R370). -/
structure Nbh where
  launch : Nat
  nbhid : Nat
  members : List Nat
  started : Bool
  released : Nat
  /-- SCHED of the neighbourhood (R54, R370). -/
  schedIndex : BitVec 2
  phaseNo : BitVec 24
  deriving DecidableEq, Repr

/-- A launch (R356–R364). -/
structure Launch where
  req : List W64
  pitch : Nat
  pasid : Nat
  desc : KDesc
  record : Nat
  slack : Nat
  pending : List Nat
  ended : Nat
  total : Nat
  recorded : Nat
  stopped : Bool
  audits : Nat
  /-- Graph and node of a record launch (R463), with the record numbers it holds. -/
  node : Option (Nat × Nat × Nat × Nat)
  done : Bool
  /-- Where the record that the firmware made lies (R358). -/
  frame : Option Nat
  /-- Neighbourhoods that a stop has kept from being bound (R363). -/
  never : Nat
  deriving DecidableEq, Repr

/-! ### Cores -/

/-- Fault injection planted in a core (R449). -/
structure Inject where
  slot : Nat
  vreg : Nat
  lane : Nat
  bit : Nat
  mode : Nat
  ofs : Option Nat
  nth : Nat
  deriving DecidableEq, Repr

/-- A core's own state (R56, R242, R269, R325, R327, R360, R438, R450, R483). -/
structure CoreSt where
  cycle : Nat
  gated : Bool
  idle : Nat
  wakeReason : W64
  waking : Bool
  issued : Nat
  gatedNs : Nat
  logStall : Nat
  slotStatus : W64
  owner : Option Nat
  ctx : MCtx
  retired : BitVec 32
  quarantines : Nat
  outOfService : Bool
  dead : Bool
  inject : Option Inject
  /-- Firings of injections on the core (R449). -/
  firings : Nat
  /-- While the core is gated or wakes: the slots whose groups were ready after the last step, and whether an event has been
  recorded in this one (R326). -/
  ready : BitVec 64
  woken : Bool
  /-- CYCLE of the first issue after the last wake (R327). -/
  firstAt : Option Nat
  deriving DecidableEq, Repr

/-- The group or queue slot whose word `exec` runs (log entry 6). -/
inductive Focus where
  | none
  | group (core slot plane : Nat)
  | queue (hw : Nat)
  deriving DecidableEq, Repr

/-! ### Pitches and address spaces -/

/-- Security states of a pitch (R480). -/
inductive TdiState where
  | opened | locked | run | error
  deriving DecidableEq, Repr

/-- A configured pitch (R19, R480, R482, R477). -/
structure Pitch where
  cores : BitVec 96
  ways : BitVec 16
  share : Nat
  engSlots : W64
  keySlot : Nat
  prioLo : Nat
  prioHi : Nat
  saveBase : Nat
  saveLen : Nat
  tdi : TdiState
  debug : Nat
  granted : List Nat
  /-- Save-area reservations: base and length in bytes (R368). -/
  reserved : List (Nat × Nat)
  /-- The pitch's work is being ended, by REMOVE or by entry to Error (R19, R480). -/
  removing : Bool
  deriving DecidableEq, Repr

/-- A PASID context (R414, R416). -/
structure PasidCtx where
  root : Nat
  func : Nat
  pitch : Nat
  ats : Bool
  pri : Bool
  closing : Bool
  deriving DecidableEq, Repr

/-- The states of the device's power (R487). -/
inductive Power where
  | run | idle | standby | off
  deriving DecidableEq, Repr

/-! ### Start-up and images (01, 02) -/

/-- What a running command waits for before it writes its status (R19, R82, R417, R480, R488). -/
inductive CmdWait where
  | none
  /-- Cores that a PITCH_CFG has taken from a pitch. -/
  | cores (pitch : Nat)
  /-- The drain acknowledgement of a closing PASID. -/
  | drain (pasid : Nat)
  /-- Entry to Error of pitches. -/
  | ending (pitches : List Nat)
  /-- Entry to Standby. -/
  | standby
  deriving DecidableEq, Repr

/-- The system command port (R13): the last address written, and the block of the command it runs. -/
structure ScPort where
  block : BitVec 32
  running : BitVec 32
  busy : Bool
  badBlock : Bool
  opcode : BitVec 8
  bootprog : W64
  ready : Bool
  wait : CmdWait
  deriving DecidableEq, Repr

/-- The boot program of policy core 0 (R22–R25): the action it is at, its registers s2 to s5, and whether it has
stopped on a failure; and the policy cores 1 to 3 that wait in `park`. -/
structure Boot where
  pc : Nat
  s2 : W64
  s3 : W64
  s4 : W64
  s5 : W64
  halted : Bool
  parked : BitVec 3
  deriving DecidableEq, Repr

/-- The lists a verified manifest latches (R30): flash address, length, digest; and its SVN. -/
structure Latch where
  svn : Nat
  images : List (Nat × Nat × List Byte)
  qprogs : List (Nat × Nat × List Byte)
  deriving DecidableEq, Repr

/-- A resolved relocation (R39): bits [lo + n − 1 : lo] of the `size`-byte word at a load offset take `val`. -/
structure Patch where
  loc : Nat
  size : Nat
  lo : Nat
  n : Nat
  val : Nat
  deriving DecidableEq, Repr

/-- A page of a mapped image (R41, R42): its load offset, where it lies in flash, its bytes there, its hash. -/
structure ImgPage where
  ofs : Nat
  flash : Nat
  len : Nat
  hash : List Byte
  deriving DecidableEq, Repr

/-- A mapped image (R41–R43): its pages, patches, kernels (CODEOFS, L, P) and failed pages with their causes. -/
structure Image where
  pasid : Nat
  base : Nat
  key : Nat
  pages : List ImgPage
  patches : List Patch
  kernels : List (Nat × Nat × Nat)
  failed : List (Nat × BitVec 8)
  deriving DecidableEq, Repr

/-! ### Work graphs (26) -/

/-- A work graph (R459): its pitch and node descriptors; DISPATCHED and CONSUMED of each node (R463, R464), and the
first record of the node not yet rasterised or skipped (R467). -/
structure Graph where
  enabled : Bool
  pitch : Nat
  nodes : List (List W64)
  dispatched : Tab Nat
  consumed : Tab Nat
  deriving DecidableEq, Repr

/-! ### Display (22, 23) -/

/-- A surface's record (R426, R427). -/
structure SurfCfg where
  pipe : Nat
  enable : Bool
  w : Nat
  h : Nat
  vtotal : Nat
  period : Nat
  lantFall : Bool
  deriving DecidableEq, Repr
/-- A surface: what is in force, and what the next frame start puts in force. -/
structure Surface where
  cur : SurfCfg
  next : Option SurfCfg
  deriving DecidableEq, Repr
/-- A tile of a safety layer in the current frame (R422, R432, R433): renders found ready, renders whose pixels could
not be read, signatures, and whether the tile is late. -/
structure TileSt where
  readyA : Bool
  readyB : Bool
  deadA : Bool
  deadB : Bool
  sigA : Option Nat
  sigB : Option Nat
  late : Bool
  deriving DecidableEq, Repr
/-- A layer (R428, R434, R438): descriptor words in force and to come, reference signatures, the fields of its status
record, its tiles in this frame, the first surface line substituted, the render left in MODE 2 (false for render A),
and for a substituting layer the suspect cores of each render and those still without a verdict. -/
structure Layer where
  words : List W64
  /-- The pitch of the layer's PASID when it was set (R429). -/
  pitch : Nat
  next : Option (List W64 × Nat)
  refs : Option (List Nat)
  mode : Nat
  mismatch : Nat
  late : Nat
  lantFrames : Nat
  lastFrame : Nat
  lastTile : Nat
  suspect : Nat
  sigA : Nat
  sigB : Nat
  checked : Nat
  tiles : Tab TileSt
  armed : Option Nat
  only : Option Bool
  heldA : List Nat
  heldB : List Nat
  /-- Cores whose verdicts a substituting layer waits for (R438). -/
  waitOn : List Nat
  deriving DecidableEq, Repr
/-- A display pipe (R427, R437, R440–R443, R456). -/
structure Pipe where
  frame : BitVec 32
  /-- TIME of the frame start. -/
  startAt : Nat
  /-- PERIOD and VTOTAL of the frame that is scanning; none while the pipe does not run. -/
  tm : Option (Nat × Nat)
  /-- Head-up record in force, empty for none, and to come. -/
  hud : List W64
  hudNext : Option (List W64)
  /-- SHIFT and ROT of the last latch, and of each slice. -/
  out : W32 × W32
  slices : List (W32 × W32)
  latSeq : W64
  skips : Nat
  lastSlice : Nat
  /-- Slices latched in this frame. -/
  latched : List Nat
  /-- The mesh of the frame, point 33j + i. -/
  mesh : List (W32 × W32)
  stall : Bool
  route : Bool
  routeNext : Bool
  /-- TIME at which the route was last asked for. -/
  showAt : Nat
  /-- Composition missed this frame (R436). -/
  fallback : Bool
  failed : Bool
  /-- Frames still not shown after a failover (R456). -/
  dark : Nat
  deriving DecidableEq, Repr

/-- The machine. -/
structure State where
  -- work
  groups : Tab Group
  cores : Tab CoreSt
  wgs : Tab Wg
  nbhs : Tab Nbh
  launches : Tab Launch
  nextId : Nat
  -- accesses and engines
  accs : Tab Access
  faults : List PageFault
  copies : Tab Copy
  monitors : Tab Monitor
  -- memories
  mem : List Host.Cell
  keyTags : Tab KeyTag
  scrTags : Tab Nat
  poison : List Nat
  l1 : Tab L1Line
  /-- The cores' combining buffers, keyed 2^48 · core + physical address (R377). -/
  wc : Tab WcByte
  /-- The memory-side cache, by line number (R379). -/
  msc : Tab MscLine
  /-- Clusters whose six L1s are fused (R378). -/
  fused : List Nat
  l1Tlb : Tab TlbEntry
  baseTlb : Tab TlbEntry
  /-- Last-page registers, keyed 32 · group key + lane: page address and translation (R385). -/
  lastPage : Tab (Nat × TlbEntry)
  -- links
  ports : Tab Port
  ide : Tab IdeStream
  /-- Functions with AtomicOp Requester Enable (R418). -/
  atomicReq : List Nat
  atsReqs : Tab AtsReq
  /-- Host pages answered by ATS, keyed PASID · 2^48 + page (R415). -/
  atsCache : Tab W64
  /-- Communicators (R420). -/
  comms : Tab Comm
  -- redundancy and errors
  pairs : Tab Pair
  audits : Tab AuditSig
  errs : Tab ErrRec
  failCh : BitVec 32
  retCh : BitVec 32
  retPipe : BitVec 4
  -- pitches, keys and address spaces
  pitches : Tab Pitch
  keyGen : Tab Nat
  pasids : Tab PasidCtx
  /-- The pitch each VF belongs to (R414). -/
  vfs : Tab Nat
  -- queues
  queues : Tab QRec
  slots : Tab QSlot
  qprogs : Tab QProg
  /-- Served time of each pitch in nanoseconds, and the start of the window (R355). -/
  served : Tab Nat
  windowAt : Nat
  requests : List LaunchReq
  doe : Doe
  /-- MSI-X messages sent: function and vector, oldest first (R308). -/
  msix : List (Nat × Nat)
  /-- The hash contexts that the service has produced (R308, log entry 12). -/
  hashCtxs : List (List Byte)
  /-- Measurement slots (R32). -/
  meas : Tab (List Byte)
  -- start-up and system software
  port : ScPort
  boot : Boot
  /-- Address of the last access of a policy core that returned a bus error, at which the core took its access-fault exception
  (R12). -/
  busError : Option Nat
  /-- Fuses (R27, R484). -/
  keyHash : List Byte
  minSvn : Nat
  devId : List Byte
  latch : Option Latch
  /-- DRAM_TRAIN and PITCH_CFG have been counted (R491). -/
  trained : Bool
  pitched : Bool
  images : Tab Image
  /-- Bind records whose VALID has been written and that await dispatch: core, entry (R21). -/
  binds : List (Nat × Nat)
  /-- Port 0 has finished link training, and the management window answers (R413). -/
  window : Bool
  graphs : Tab Graph
  /-- Audit replays: original and replay workgroup (R452). -/
  replays : Tab (Nat × Nat)
  -- display
  surfaces : Tab Surface
  layers : Tab Layer
  pipes : Tab Pipe
  /-- Lantern's section; empty after reset (R34). -/
  lantern : List Byte
  /-- The pipe Lantern's route has followed its surface to (R456). -/
  routePipe : Option Nat
  /-- The newest complete sensor frame and its TIME (R437). -/
  camFrame : Nat
  camTime : Nat
  -- errors and debug
  /-- Uncorrectable sectors met, with TIME (R455). -/
  ueLog : List (Nat × Nat)
  dev3 : Bool
  challenge : Option (List Byte)
  -- device
  power : Power
  /-- A WAKE assertion held during entry to Standby (R488). -/
  wakeHeld : Bool
  clkHalf : Bool
  time : Nat
  /-- Data the device last returned to the host (R413, R471, log entry 4). -/
  reply : List Byte
  -- the model's own
  stepNo : Nat
  drbgNo : Nat
  inbox : List Instr
  focus : Focus
  deriving DecidableEq, Repr

/-- The machine right after power-on reset (R25): the boot program is at its first action, no pitch is configured,
every core is gated, memory lists nothing. Registers for which the spec gives no value are named in log entries 1 to 4
and 17. -/
def State.reset : State :=
  { groups := [], cores := [], wgs := [], nbhs := [], launches := [], nextId := 1,
    accs := [], faults := [], copies := [], monitors := [],
    mem := [], keyTags := [], scrTags := [], poison := [], l1 := [], wc := [], msc := [], fused := [], l1Tlb := [], baseTlb := [], lastPage := [],
    ports := [], ide := [], atomicReq := [], atsReqs := [], atsCache := [], comms := [],
    pairs := [], audits := [], errs := [], failCh := 0, retCh := 0, retPipe := 0,
    pitches := [], keyGen := [], pasids := [], vfs := [],
    queues := [], slots := [], qprogs := [], served := [], windowAt := 0, requests := [],
    doe := ⟨false, none, false, false, []⟩, msix := [], hashCtxs := [], meas := [],
    port := ⟨0, 0, false, false, 0, 0, false, .none⟩, boot := ⟨0, 0, 0, 0, 0, false, 7⟩,
    busError := none, keyHash := List.replicate 48 0, minSvn := 0, devId := List.replicate 16 0, latch := none,
    trained := false, pitched := false, images := [], binds := [], window := false, graphs := [], replays := [],
    surfaces := [], layers := [], pipes := [], lantern := [], routePipe := none, camFrame := 0, camTime := 0,
    ueLog := [], dev3 := false, challenge := none,
    power := .run, wakeHeld := false, clkHalf := false, time := 0, reply := [],
    stepNo := 0, drbgNo := 0, inbox := [], focus := .none }

end Sys2Proof.Machine
end

