-- ==== Sys2Proof/Machine/Ops.lean ====
section
/-! DEFINITION. The named operations over memory: bytes, key tags, the L1, scratchpads, page tables and the
resolution of a word's addresses (19, 03 R69, R71, R81, 20 R395, R396). -/

namespace Sys2Proof.Machine
open Sys2Proof

/-! ### Records of the state -/

/-- Key of a group in `groups` (R68). -/
def gid (core slot : Nat) : Nat := core * 64 + slot
/-- A core right after its reset, with no work. -/
def CoreSt.reset : CoreSt :=
  { cycle := 0, gated := true, idle := 0, wakeReason := 0, waking := false, issued := 0, gatedNs := 0, logStall := 0,
    slotStatus := 0, owner := none, ctx := ⟨[], [], [], none, none, false, 0, 0, []⟩, retired := 0,
    quarantines := 0, outOfService := false, dead := false, inject := none, firings := 0, ready := 0, woken := false, firstAt := none }
/-- A core of the state. -/
def State.core (s : State) (c : Nat) : CoreSt := s.cores.getD c .reset
/-- Change a core. -/
def State.setCore (s : State) (c : Nat) (x : CoreSt) : State := { s with cores := s.cores.set c x }
/-- Change a group by its key. -/
def State.setGroup (s : State) (k : Nat) (g : Group) : State := { s with groups := s.groups.set k g }
/-- Change a group in place, if it is there. -/
def State.updGroup (s : State) (k : Nat) (f : Group → Group) : State := { s with groups := s.groups.modify k f }
/-- Change a workgroup. -/
def State.setWg (s : State) (w : Nat) (x : Wg) : State := { s with wgs := s.wgs.set w x }
/-- A fresh identifier: numbers rise with the order of creation. -/
def State.fresh (s : State) : Nat × State := (s.nextId, { s with nextId := s.nextId + 1 })
/-- Key of the group `gi` of a resident workgroup. -/
def Wg.gid (w : Wg) (gi : Nat) : Nat := Machine.gid w.core (w.slot + gi)
/-- The resident group `gi` of a workgroup. -/
def State.groupOf (s : State) (w gi : Nat) : Option (Nat × Group) :=
  match s.wgs.get? w with
  | some x => if x.phase = .resident ∨ x.phase = .ended then (s.groups.get? (x.gid gi)).map fun g => (x.gid gi, g) else none
  | none => none

/-! ### Raw bytes -/

/-- The byte at a key of the one memory; what nothing has written reads as 0 (log entry 1). -/
def State.byte (s : State) (a : Nat) : Byte := Tab.getD s.mem a 0
/-- Note a write of a byte in the monitors whose word covers it (R238). -/
def hitMonitors (t : Tab Monitor) (a : Nat) : Tab Monitor :=
  t.mapV fun m => match m.pa with
    | some p => if p ≤ a ∧ a < p + 8 then { m with hit := true } else m
    | none => m
/-- Write one byte, keeping the canonical form: no listed byte is 0. Monitors see the write. -/
def State.setByte (s : State) (a : Nat) (b : Byte) : State :=
  { s with mem := Tab.put 0 s.mem a b, monitors := hitMonitors s.monitors a }
/-- `n` bytes as a little-endian number (R4). -/
def State.rawRead (s : State) (a : Nat) : Nat → Nat
  | 0 => 0
  | n + 1 => (s.byte a).toNat + 256 * State.rawRead s (a + 1) n
/-- Write the bytes of a list from an address on. -/
def State.rawBytes (s : State) (a : Nat) : List Byte → State
  | [] => s
  | b :: bs => State.rawBytes (s.setByte a b) (a + 1) bs
/-- Write a little-endian number of `n` bytes. -/
def State.rawWrite (s : State) (a n v : Nat) : State := s.rawBytes a (leBytes n v)
/-- The bytes of a range. -/
def State.bytes (s : State) (a n : Nat) : List Byte := (List.range n).map fun k => s.byte (a + k)
/-- Zero a range. -/
def State.clearRange (s : State) (a n : Nat) : State :=
  { s with mem := s.mem.filter fun c => !(decide (a ≤ c.1) && decide (c.1 < a + n)) }

/-- Key of an address of the policy cores' map (R12). -/
def polKey (a : Nat) : Nat := 2 ^ 48 + a
/-- Key of a byte of a core's scratchpad (R376). -/
def scrKey (core ofs : Nat) : Nat := 2 ^ 49 + core * 2 ^ 20 + ofs

/-! ### Scratchpad (R81, R376) -/

/-- A scratchpad byte as a key index reads it: a row tagged by another key reads as zero. -/
def State.scrByte (s : State) (core key ofs : Nat) : Byte :=
  match s.scrTags.get? (core * 4096 + ofs / 256) with
  | some t => if t = key then s.byte (scrKey core ofs) else 0
  | none => s.byte (scrKey core ofs)
/-- Keep the prior contents of a scratchpad line in a role's journal (R344). -/
def State.journalRole (s : State) (core ofs : Nat) (r : RedRole) : RedRole :=
  match s.wgs.get? r.wg with
  | some w =>
    let line := ofs / 128 * 128
    if w.core = core ∧ w.scrBase * 256 ≤ ofs ∧ ofs < (w.scrBase + w.scrSize) * 256 ∧ (r.journal.get? line).isNone then
      let key := ((s.pitches.get? w.pitch).map (·.keySlot)).getD 0
      { r with journal := r.journal.set line ((List.range 128).map fun j => s.scrByte core key (line + j)) }
    else r
  | none => r
/-- Keep the prior contents of a scratchpad line that a redundant workgroup is about to write (R344). Behind a commit point no
rollback needs them (R345, log entry 22). -/
def State.journal (s : State) (core ofs : Nat) : State :=
  { s with pairs := s.pairs.mapV fun p => if p.committed then p else
      { p with lead := s.journalRole core ofs p.lead, sweep := s.journalRole core ofs p.sweep } }
/-- Write a scratchpad byte: a row tagged by another key is retagged, its other bytes then reading as zero. -/
def State.setScrByte (s : State) (core key ofs : Nat) (b : Byte) : State :=
  let s := s.journal core ofs
  let row := core * 4096 + ofs / 256
  let s := match s.scrTags.get? row with
    | some t => if t = key then s else s.clearRange (scrKey core (ofs / 256 * 256)) 256
    | none => s
  { s.setByte (scrKey core ofs) b with scrTags := s.scrTags.set row key }

/-! ### Device DRAM and the ports (R380, R381) -/

/-- What a physical address reaches (R380). -/
inductive Target where
  | dram | doorbell | peer | host | none
  deriving DecidableEq, Repr
/-- The target of a physical address. -/
def targetOf (a : Nat) : Target :=
  if a < 0x2000000000 then .dram
  else if a < 0x2000020000 then .doorbell
  else if a < 0x400000000000 then .none
  else if a < 0x800000000000 then .peer
  else if a < 0x1000000000000 then .host
  else .none

/-- The port a target answers on. -/
def Target.port : Target → Option Nat
  | .host => some 0
  | .peer => some 1
  | _ => Option.none
/-- Whether a page lies in a shared-memory region that back-invalidation keeps coherent (R396, R418). -/
def backInval (a : Nat) : Bool := (targetOf a).port.isSome && Config.backInval (a / 4096)
/-- Whether an address lies in system memory whose lines the slices keep coherent by .sys releases and acquires alone (R379,
R396). -/
def isSystem (a : Nat) : Bool := (targetOf a).port.isSome && !backInval a
/-- Whether an access under a CACHE attribute at a scope is performed in host or peer memory (R395). -/
def reachesFar (cache scope a : Nat) : Bool := isSystem a && (cache != 0 || scope == 3)

/-- The tag of a key index now. -/
def State.keyTag (s : State) (key : Nat) : KeyTag := ⟨key, s.keyGen.getD key 0⟩
/-- A number naming a key tag for the free bytes of a wrong decryption. -/
def KeyTag.num (t : KeyTag) : Nat := t.gen * 64 + t.idx
/-- A byte of DRAM, or beyond a port, as a key index reads it (R381). -/
def State.dramByte (s : State) (key a : Nat) : Byte :=
  match targetOf a with
  | .dram =>
    match s.keyTags.get? (a / 64) with
    | some t => if t = s.keyTag key then s.byte a else Config.wrongKey (s.keyTag key).num t.num a
    | none => s.byte a
  | .peer | .host => s.byte a
  | _ => 0
/-- A byte of memory below the L1 as a key index reads it: a line that the memory-side cache holds under another key reads
as zeros (R81, R381). -/
def State.memByte (s : State) (key a : Nat) : Byte :=
  match s.msc.get? (a / 128) with
  | some l => if l.key = key then s.dramByte key a else 0
  | none => s.dramByte key a

/-! ### Poison (R390, R445) -/

/-- Whether the sector of a physical address is poisoned. -/
def State.poisoned (s : State) (a : Nat) : Bool := s.poison.contains (a / 64)
/-- A write that covers whole sectors clears their poison. -/
def State.clearPoison (s : State) (written : List Nat) : State :=
  if s.poison = [] then s else
  { s with poison := s.poison.filter fun sec => !((List.range 64).all fun k => written.contains (sec * 64 + k)) }

/-- Poison a sector, keeping the sectors in rising order. -/
def State.addPoison (s : State) (sec : Nat) : State :=
  if s.poison.contains sec then s
  else { s with poison := (s.poison.takeWhile fun y => decide (y < sec)) ++ [sec] ++ s.poison.dropWhile fun y => decide (y < sec) }

/-- Poison follows `n` bytes that are moved to another place. -/
def State.copyPoison (s : State) (src dst n : Nat) : State :=
  let s := s.clearPoison ((List.range n).map (dst + ·))
  let bad := s.poison.filterMap fun x =>
    if src / 64 ≤ x ∧ x < (src + n) / 64 then some (dst / 64 + (x - src / 64)) else none
  bad.foldl (fun s x => s.addPoison x) s

/-! ### Errors (R446, R448) -/

/-- A saturating 16-bit count. -/
def sat16 (n : Nat) : Nat := min n 0xFFFF
/-- Number of the device's own error record. -/
def deviceRec : Nat := 16
/-- The pitch whose key set holds a key index, or the device (R446). -/
def State.keyOwner (s : State) (key : Nat) : Nat :=
  match s.pitches.findBy fun _ p => p.keySlot == key || p.granted.contains key with
  | some (n, _) => n
  | none => deviceRec
/-- The pitch holding a core, or the device. -/
def State.coreOwner (s : State) (core : Nat) : Nat :=
  match s.pitches.findBy fun _ p => p.cores.getLsbD core with
  | some (n, _) => n
  | none => deviceRec
/-- An error record. -/
def State.errRec (s : State) (n : Nat) : ErrRec := s.errs.getD n .reset
/-- Count an event in an error record (R448): its cause, the cores it names, what it adds to. -/
def State.charge (s : State) (n : Nat) (cause : BitVec 8) (core core2 : Nat) (f : ErrRec → ErrRec) : State :=
  let e := f (s.errRec n)
  { s with errs := s.errs.set n { e with lastCause := cause, core, core2, lastTime := s.time, lastPa := 0, key := 0 } }
/-- Count an event of a DRAM sector, naming it (R448). -/
def State.chargeSector (s : State) (key a : Nat) (cause : BitVec 8) (f : ErrRec → ErrRec) : State :=
  let n := s.keyOwner key
  let e := f (s.errRec n)
  let e' := { e with lastCause := cause, core := 0x7F, core2 := 0x7F, lastTime := s.time, lastPa := a / 64 * 64, key }
  { s with errs := s.errs.set n e' }
/-- Count an uncorrectable read of a poisoned sector (R390, R445). -/
def State.countUe (s : State) (key a : Nat) : State :=
  if s.poisoned a then
    let s := s.chargeSector key a 0x8B fun e => { e with ue := sat16 (e.ue + 1) }
    { s with ueLog := (a / 64, s.time) :: s.ueLog.filter fun x => decide (x.1 ≠ a / 64) && decide (s.time ≤ x.2 + 1000000000) }
  else s

/-! ### The memory-side cache (R76, R81, R379) -/

/-- The DRAM channel, and the slice before it, that the 4 KiB block of a physical address lies on (R379, R454). -/
def State.channelOf (s : State) (a : Nat) : Nat :=
  let live := (List.range 32).filter fun k => !s.retCh.getLsbD k
  let m := live.length
  let b := a / 4096 % 2 ^ 35
  if m = 32 then [0, 5, 10, 15, 20, 25, 30].foldl (fun x k => x ^^^ (b / 2 ^ k % 32)) 0
  else live.getD ((b + b / m + b / (m * m)) % m) 0
/-- The ways of each slice that an owner's lines go into: a pitch's own, or those that no pitch holds (R76). -/
def State.waysOf (s : State) (owner : Nat) : Nat :=
  let held (m : BitVec 16) : Nat := ((List.range 16).filter fun k => m.getLsbD k).length
  match s.pitches.get? owner with
  | some p => held p.ways
  | none => 16 - held (s.pitches.foldl (fun m x => m ||| x.2.ways) 0)
/-- A line leaves the memory-side cache: its dirty bytes stand beneath it, and where the host or the peer has changed a byte, that
is what is read from now on. -/
def State.mscEvict (s : State) (line : Nat) : State :=
  match s.msc.get? line with
  | none => s
  | some l =>
    let old := if (targetOf (line * 128)).port.isNone then [] else (List.range 128).filter fun k => l.stale.getLsbD k && !l.dirty.getLsbD k
    { s with msc := s.msc.del line, mem := old.foldl (fun m k => Tab.put 0 m (line * 128 + k) (l.under.getD k 0)) s.mem }
/-- A byte of memory as DRAM, the host or the peer holds it beneath the memory-side cache. -/
def State.farByte (s : State) (a : Nat) : Byte :=
  match s.msc.get? (a / 128) with
  | some l => if (l.dirty ||| l.stale).getLsbD (a % 128) then l.under.getD (a % 128) 0 else s.byte a
  | none => s.byte a
/-- The host or the peer changes a byte of its memory: a line that holds it goes on reading as it did. -/
def State.setFarByte (s : State) (a : Nat) (b : Byte) : State :=
  match s.msc.get? (a / 128) with
  | some l =>
    let bit : BitVec 128 := 1#128 <<< (a % 128)
    -- what lies beneath a byte that is neither is what memory holds
    { s with msc := s.msc.set (a / 128) { l with stale := l.stale ||| (bit &&& ~~~l.dirty), under := l.under.set (a % 128) b } }
  | none => s.setByte a b
/-- Bring the line of an address into the memory-side cache under a key: one of another key is written back and dropped, and
a slice whose ways for the owner are full gives a line of theirs up (R76, R377, R379). An owner without ways caches
nothing. -/
def State.mscFill (s : State) (key a : Nat) : State :=
  if targetOf a ≠ .dram ∧ (targetOf a).port.isNone then s else
  match s.msc.get? (a / 128) with
  | some l =>
    if l.key = key then s else
    let s := s.mscEvict (a / 128)
    { s with msc := s.msc.set (a / 128) ⟨key, l.owner, 0, 0, List.replicate 128 0⟩ }
  | none =>
    let owner := s.keyOwner key
    let room := s.waysOf owner * 2048
    if room = 0 then s else
    let mine := s.msc.filter fun x => x.2.owner == owner && s.channelOf (x.1 * 128) == s.channelOf a
    let s := if mine.length < room then s else s.mscEvict ((mine.map (·.1)).getD (Config.victim s.stepNo mine.length % mine.length) 0)
    { s with msc := s.msc.set (a / 128) ⟨key, owner, 0, 0, List.replicate 128 0⟩ }
/-- A read at the memory-side cache leaves the line there; a line of another key stays as it is (R81). -/
def State.mscTouch (s : State) (key a : Nat) : State := if (s.msc.get? (a / 128)).isSome then s else s.mscFill key a
/-- Note in a line of the memory-side cache that a byte is about to be written, with what lies beneath it. -/
def State.mscMark (s : State) (a : Nat) : State :=
  match s.msc.get? (a / 128) with
  | some l =>
    let k := a % 128
    let bit : BitVec 128 := 1#128 <<< k
    let l' := { l with dirty := l.dirty ||| bit, stale := l.stale &&& ~~~bit, under := l.under.set k (s.farByte a) }
    if l.dirty.getLsbD k then s else { s with msc := s.msc.set (a / 128) l' }
  | none => s
/-- Drop a line of the memory-side cache without writing it back; bytes that `keep` names have been written back before (R222,
R479). -/
def State.mscDrop (s : State) (line : Nat) (keep : Nat → Bool) : State :=
  match s.msc.get? line with
  | none => s
  | some l =>
    let lost := (List.range 128).filter fun k => l.dirty.getLsbD k && !keep k
    let s := s.mscEvict line
    { s with mem := lost.foldl (fun m k => Tab.put 0 m (line * 128 + k) (l.under.getD k 0)) s.mem }
/-- Write a byte of memory where it lies. A sector of DRAM written under another key is read, decrypted as this key reads
it, and encrypted again (R381). The doorbell region and holes take nothing here. -/
def State.setDramByte (s : State) (key a : Nat) (b : Byte) : State :=
  match targetOf a with
  | .dram =>
    let sec := a / 64
    let s := match s.keyTags.get? sec with
      | some t => if t = s.keyTag key then s
        else s.rawBytes (sec * 64) ((List.range 64).map fun k => s.dramByte key (sec * 64 + k))
      | none => s
    { (s.mscMark a).setByte a b with keyTags := s.keyTags.set sec (s.keyTag key) }
  | .peer | .host => (s.mscMark a).setByte a b
  | _ => s
/-- Write a byte of memory below the L1, in the memory-side cache. -/
def State.setMemByte (s : State) (key a : Nat) (b : Byte) : State := (s.mscFill key a).setDramByte key a b
/-- Write a byte of a page of a CACHE attribute past the L1 at a scope: in host or peer memory behind what the slice had yet to
write there, or at the slice; UC allocates nowhere, but a line that stands is of its key (R377, R395). -/
def State.setPastL1 (s : State) (key cache scope a : Nat) (b : Byte) : State :=
  if reachesFar cache scope a then (s.mscEvict (a / 128)).setDramByte key a b
  else if cache = 2 ∧ (s.msc.get? (a / 128)).isNone then s.setDramByte key a b else s.setMemByte key a b
/-- Read a byte of a page of a CACHE attribute past the L1 at a scope: at the slice, or from host or peer memory behind what the
slice had yet to write there (R395, R397). -/
def State.pastL1 (s : State) (key cache scope a : Nat) : Byte :=
  if reachesFar cache scope a then (s.mscEvict (a / 128)).memByte key a else s.memByte key a
/-- Dirty lines of system pages reach host or peer memory, but for those that back-invalidation keeps coherent (R396, a .sys
release). -/
def State.mscClean (s : State) : State :=
  { s with msc := s.msc.map fun x => if isSystem (x.1 * 128) then (x.1, { x.2 with dirty := 0 }) else x }
/-- Lines of system pages are invalidated, but for those that back-invalidation keeps coherent; what is dirty is written back
first (R396, a .sys acquire). -/
def State.mscForget (s : State) : State :=
  ((s.msc.filter fun x => isSystem (x.1 * 128)).map (·.1)).foldl (fun s line => s.mscEvict line) s

/-! ### The L1 (R377, R396) -/

/-- Whether a core's cluster has its L1s fused (R378): cores 6n to 6n + 5 are a cluster (R6). -/
def State.isFused (s : State) (core : Nat) : Bool := s.fused.contains (core / 6)
/-- The cores whose L1s a core's accesses go to. -/
def State.l1Cores (s : State) (core : Nat) : List Nat :=
  if s.isFused core then (List.range 6).map fun j => core / 6 * 6 + j else [core]
/-- Key of the L1 line of a physical address as a core reaches it: in a fused cluster, the slice of member
A[47:7] mod 6 (R378). -/
def State.lineKey (s : State) (core a : Nat) : Nat :=
  (if s.isFused core then core / 6 * 6 + a / 128 % 6 else core) * 2 ^ 41 + a / 128
/-- Whether a scope is performed at a core's L1: .wg, and .nbh where the neighbourhoods of the core lie in its one
fused cluster (R394, R395). -/
def State.narrow (s : State) (core scope : Nat) : Bool :=
  scope == 0 || (scope == 1 && s.isFused core && s.wgs.all fun x =>
    x.2.core != core || x.2.phase != .resident || (match s.nbhs.get? x.2.nbh with
      | some n => n.members.all fun u => match s.wgs.get? u with
        | some y => y.core / 6 == core / 6
        | none => true
      | none => true))
/-- Write a line's dirty bytes to memory under its own key (R377). -/
def State.writeBack (s : State) (a : Nat) (l : L1Line) : State :=
  let dirty := (List.range 128).filter fun k => l.dirty.getLsbD k
  (dirty.foldl (fun s k => s.setMemByte l.key (a / 128 * 128 + k) (l.data.getD k 0)) s).clearPoison
    (dirty.map fun k => a / 128 * 128 + k)
/-- Write back and remove an L1 line by its key. -/
def State.evictL1 (s : State) (k : Nat) : State :=
  match s.l1.get? k with
  | some l => { s.writeBack (k % 2 ^ 41 * 128) l with l1 := (s.writeBack (k % 2 ^ 41 * 128) l).l1.del k }
  | none => s
/-- The bytes of the combining buffers whose keys `p` names are performed, behind what the L1s hold of their lines (R377,
R397). -/
def State.drainWc (s : State) (p : Nat → Bool) : State :=
  let out := s.wc.filter fun x => p x.1
  if out = [] then s else
  (out.foldl (fun (s : State) x =>
    (s.evictL1 (s.lineKey (x.1 / 2 ^ 48) (x.1 % 2 ^ 48))).setPastL1 x.2.key 1 2 (x.1 % 2 ^ 48) x.2.val)
    { s with wc := s.wc.filter fun x => !p x.1 }).clearPoison (out.map fun x => x.1 % 2 ^ 48)
/-- Key of a byte in the combining buffer of a core. -/
def wcKey (core a : Nat) : Nat := core * 2 ^ 48 + a
/-- Perform what a core's combining buffer holds of the line of an address. -/
def State.drainLine (s : State) (core a : Nat) : State := s.drainWc fun k => k / 128 == wcKey core a / 128
/-- Perform all that a core's combining buffer holds. -/
def State.drainCore (s : State) (core : Nat) : State := s.drainWc fun k => k / 2 ^ 48 == core
/-- A store to a page of WC memory stays in the core's combining buffer; what that holds of the line under another key is performed
first (R377). The engines of the base die have none. -/
def State.combine (s : State) (core key a : Nat) (b : Byte) : State :=
  let s := if s.wc.all fun x => x.1 / 128 != wcKey core a / 128 || x.2.key == key then s else s.drainLine core a
  { s with wc := s.wc.set (wcKey core a) ⟨key, b⟩ }
/-- Write back and remove the line of an address from a core's L1 and its combining buffer. -/
def State.flushLine (s : State) (core a : Nat) : State := (s.drainLine core a).evictL1 (s.lineKey core a)
/-- A core's L1 that holds its 16,384 lines gives one up before another comes (R377). -/
def State.makeRoom (s : State) (core a : Nat) : State :=
  let mine := s.l1.filter fun x => x.1 / 2 ^ 41 == s.lineKey core a / 2 ^ 41
  if mine.length < 16384 then s
  else s.evictL1 ((mine.map (·.1)).getD (Config.victim s.stepNo mine.length % mine.length) 0)
/-- Bring a line into a core's L1 under a key, through the memory-side cache; a line of another key is written back and
dropped (R377). -/
def State.fillLine (s : State) (core key a : Nat) : State :=
  let line (s : State) : L1Line := ⟨key, (List.range 128).map fun k => s.memByte key (a / 128 * 128 + k), 0⟩
  let put (s : State) : State := { s.mscTouch key a with l1 := s.l1.set (s.lineKey core a) (line s) }
  match s.l1.get? (s.lineKey core a) with
  | some l => if l.key = key then s else put (s.flushLine core a)
  | none => put (s.makeRoom core a)
/-- Whether a page of CACHE attribute `cache` is accessed through the L1 at a scope: WB at .wg, or at .nbh that is
not promoted (R394, R395). -/
def State.viaL1 (s : State) (core cache scope : Nat) : Bool := cache == 0 && s.narrow core scope
/-- The byte a core reads at a scope: behind what the core itself has yet to perform of it (R81, R395, R397). -/
def State.loadByte (s : State) (core key cache scope a : Nat) : Byte :=
  let s := s.drainLine core a
  match s.l1.get? (s.lineKey core a) with
  | some l =>
    if cache ≠ 0 then (if l.dirty.getLsbD (a % 128) then s.flushLine core a else s).pastL1 key cache scope a
    else if l.key ≠ key then (if s.narrow core scope then 0 else s.pastL1 key cache scope a)
    else if s.narrow core scope ∨ l.dirty.getLsbD (a % 128) then l.data.getD (a % 128) 0
    else s.pastL1 key cache scope a
  | none => s.pastL1 key cache scope a
/-- What a load leaves behind: a .wg load of a WB page allocates in the L1, a wider one refreshes the bytes it read; all but
those of UC pages and those that reach host or peer memory go through the memory-side cache (R377, R395). -/
def State.afterLoad (s : State) (core key cache scope a : Nat) : State :=
  let s := if cache = 0 then s.drainLine core a else s.flushLine core a
  let s := if reachesFar cache scope a then s.mscEvict (a / 128) else s
  if cache = 2 then s else
  let s := if s.viaL1 core cache scope ∨ reachesFar cache scope a then s else s.mscTouch key a
  if cache ≠ 0 then s else
  match s.l1.get? (s.lineKey core a) with
  | some l =>
    if l.key = key ∧ !s.narrow core scope ∧ !l.dirty.getLsbD (a % 128) then
      { s with l1 := s.l1.set (s.lineKey core a) ⟨l.key, l.data.set (a % 128) (s.memByte key a), l.dirty⟩ }
    else s
  | none => if s.narrow core scope then s.fillLine core key a else s
/-- Store a byte at a scope (R377, R395): WB by the core's L1 or past it, WC in its combining buffer. -/
def State.storeByte (s : State) (core key cache scope a : Nat) (b : Byte) : State :=
  if cache = 1 ∧ core < 96 then s.combine core key a b else
  let s := s.drainLine core a
  if s.viaL1 core cache scope then
    let s := s.fillLine core key a
    match s.l1.get? (s.lineKey core a) with
    | some l =>
      { s with l1 := s.l1.set (s.lineKey core a) ⟨l.key, l.data.set (a % 128) b, l.dirty ||| (1#128 <<< (a % 128))⟩ }
    | none => s
  else if cache ≠ 0 then (s.flushLine core a).setPastL1 key cache scope a b
  else
    let s := match s.l1.get? (s.lineKey core a) with
      | some l =>
        if l.key = key then
          { s with l1 := s.l1.set (s.lineKey core a) ⟨l.key, l.data.set (a % 128) b, l.dirty &&& ~~~(1#128 <<< (a % 128))⟩ }
        else s.flushLine core a
      | none => s
    s.setPastL1 key cache scope a b

/-- The lines of a core's L1, fused or not, by line number. -/
def State.linesOf (s : State) (core : Nat) : List (Nat × L1Line) :=
  (s.l1.filter fun x => (s.l1Cores core).contains (x.1 / 2 ^ 41)).map fun x => (x.1 % 2 ^ 41, x.2)
/-- Drain a core's combining buffer and write back every dirty byte of its L1; the lines stay, clean (R396, release at .dev). -/
def State.cleanL1 (s : State) (core : Nat) : State :=
  let s := s.drainCore core
  let s := (s.linesOf core).foldl (fun s x => s.writeBack (x.1 * 128) x.2) s
  { s with l1 := s.l1.map fun x => if (s.l1Cores core).contains (x.1 / 2 ^ 41) then (x.1, L1Line.mk x.2.key x.2.data 0) else x }
/-- Write back the dirty bytes of the lines of `n` bytes of physical memory in every L1 and combining buffer; the lines stay, clean
(R386). -/
def State.cleanRange (s : State) (lo n : Nat) : State :=
  let hit (x : Nat × L1Line) : Bool :=
    x.2.dirty != 0 && decide (lo ≤ x.1 % 2 ^ 41 * 128) && decide (x.1 % 2 ^ 41 * 128 < lo + n)
  let s := s.drainWc fun k => decide (lo ≤ k % 2 ^ 48) && decide (k % 2 ^ 48 < lo + n)
  let s := (s.l1.filter hit).foldl (fun s x => s.writeBack (x.1 % 2 ^ 41 * 128) x.2) s
  { s with l1 := s.l1.map fun x => if hit x then (x.1, L1Line.mk x.2.key x.2.data 0) else x }
/-- Invalidate a core's L1; dirty bytes are the group's own and are written back first (R396, R397). -/
def State.dropL1 (s : State) (core : Nat) : State :=
  let s := s.cleanL1 core
  { s with l1 := s.l1.filter fun x => !(s.l1Cores core).contains (x.1 / 2 ^ 41) }
/-- Perform a release of a core's stores at a scope; its combining buffer drains at every one (R377, R396). -/
def State.release (s : State) (core scope : Nat) : State :=
  if s.narrow core scope then s.drainCore core else if scope = 3 then (s.cleanL1 core).mscClean else s.cleanL1 core
/-- Perform an acquire at a scope (R396). -/
def State.acquire (s : State) (core scope : Nat) : State :=
  if s.narrow core scope then s else if scope = 3 then (s.dropL1 core).mscForget else s.dropL1 core
/-- Fuse the L1s of a cluster, or part them: each of the six writes back its dirty bytes and invalidates (R378). -/
def State.setFused (s : State) (cluster : Nat) (on : Bool) : State :=
  if s.fused.contains cluster = on then s else
  let s := (List.range 6).foldl (fun s j => s.dropL1 (cluster * 6 + j)) s
  { s with fused := if on then cluster :: s.fused else s.fused.filter (· ≠ cluster) }
/-- Write back and invalidate the line of an address in every core's L1. -/
def State.flushEverywhere (s : State) (a : Nat) : State :=
  (List.range 96).foldl (fun s c => s.flushLine c a) s

/-! ### Page tables (R382–R384) -/

/-- A leaf of a page table: fields of R382. -/
abbrev Pte := W64
/-- PRESENT. -/
def Pte.present (e : Pte) : Bool := e.getLsbD 0
/-- WRITE. -/
def Pte.write (e : Pte) : Bool := e.getLsbD 1
/-- EXEC. -/
def Pte.exec (e : Pte) : Bool := e.getLsbD 2
/-- LEAF. -/
def Pte.leaf (e : Pte) : Bool := e.getLsbD 3
/-- CACHE. -/
def Pte.cache (e : Pte) : Nat := (e.extractLsb' 4 2).toNat
/-- ATOMIC. -/
def Pte.atomic (e : Pte) : Bool := e.getLsbD 6
/-- FLASHPEND. -/
def Pte.flashPend (e : Pte) : Bool := e.getLsbD 7
/-- HOTEN. -/
def Pte.hotEn (e : Pte) : Bool := e.getLsbD 8
/-- Physical base of the page or table. -/
def Pte.base (e : Pte) : Nat := (e.extractLsb' 12 36).toNat * 4096
/-- KEY. -/
def Pte.key (e : Pte) : Nat := (e.extractLsb' 48 6).toNat

/-- What a walk finds: nothing mapped, a bad entry with its level, or a leaf with its size and its address. -/
inductive WalkRes where
  | absent (e : Pte)
  | bad (level : Nat)
  | leaf (e : Pte) (size at_ : Nat)
  deriving DecidableEq, Repr

/-- Usable DRAM: 4 GiB for each channel in service (R453). -/
def State.dramSize (s : State) : Nat := (((List.range 32).filter fun k => !s.retCh.getLsbD k).length) * 2 ^ 32
/-- log2 of the page a leaf at a level maps. -/
def levelSize (level : Nat) : Nat := 12 + 9 * (level - 1)
/-- Whether a present entry is malformed at its level, with `dram` bytes of DRAM in service (R382, R380, R453). -/
def Pte.bad (e : Pte) (level dram : Nat) : Bool :=
  (e.extractLsb' 10 2) != 0 || (e.extractLsb' 54 2) != 0 || e.getLsbD 63 ||
  (if e.leaf then
    level == 4 || e.cache == 3 || decide (e.base % 2 ^ levelSize level ≠ 0) || targetOf e.base == .none
      || (targetOf e.base == .dram && decide (dram ≤ e.base))
      || (targetOf e.base == .doorbell && e.cache != 2)
   else (e.extractLsb' 1 9) != 0 || (e.extractLsb' 48 6) != 0 || level == 1)
/-- Walk a table from a level on (R382). -/
def State.walkFrom (s : State) (va : Nat) : Nat → Nat → WalkRes
  | 0, _ => .bad 0
  | level + 1, table =>
    let a := table + 8 * (va / 2 ^ levelSize (level + 1) % 512)
    let e : Pte := BitVec.ofNat 64 (s.rawRead a 8)
    if !e.present then .absent e
    else if e.bad (level + 1) s.dramSize then .bad (level + 1)
    else if e.leaf then .leaf e (levelSize (level + 1)) a
    else State.walkFrom s va level e.base
/-- Walk a PASID's table. -/
def State.walk (s : State) (root : Nat) (va : W64) : WalkRes := s.walkFrom (va.toNat % 2 ^ 48) 4 root

/-- Key of a cached translation: space (a core, or 96 for the base die), PASID, page. -/
def tlbKey (space pasid va size : Nat) : Nat := (space * 2 ^ 20 + pasid) * 2 ^ 48 + va / 2 ^ size * 2 ^ size + size
/-- Look a page up in a TLB by size. -/
def tlbFind (t : Tab TlbEntry) (space pasid : Nat) (va : W64) : Option TlbEntry :=
  [12, 16, 21, 30].findSome? fun z => t.get? (tlbKey space pasid (va.toNat % 2 ^ 48) z)
/-- Look a page up as a space does: a core in its L1 TLB and in the base-die TLB behind it, the rest in that alone (R384). -/
def State.tlbLook (s : State) (space pasid : Nat) (va : W64) : Option TlbEntry :=
  match (if space < 96 then tlbFind s.l1Tlb space pasid va else none) with
  | some e => some e
  | none => tlbFind s.baseTlb 96 pasid va
/-- The translation a walk's leaf gives: one of 64 KiB where its aligned group of 16 entries have CONTIG, agree and hold
consecutive pages from an aligned start (R383). -/
def State.leafEntry (s : State) (e : Pte) (size at_ : Nat) : TlbEntry :=
  let first : Pte := BitVec.ofNat 64 (s.rawRead (at_ / 128 * 128) 8)
  let same (k : Nat) : Bool := s.rawRead (at_ / 128 * 128 + 8 * k) 8 == first.toNat + 4096 * k
  if size = 12 ∧ e.getLsbD 9 ∧ first.base % 2 ^ 16 = 0 ∧ (List.range 16).all same then ⟨first, 16, 0, at_⟩ else ⟨e, size, 0, at_⟩

/-- Why an address does not translate. -/
inductive TransFail where
  /-- A fault the firmware serves: its code (R384). -/
  | page (cause : BitVec 8)
  /-- A cause of kind D at once: code and EXTRA[63:8] (R175, R179). -/
  | dead (cause : BitVec 8) (extra : Nat)
  /-- The host's answer to an ATS request is outstanding (R415). -/
  | ats
  deriving DecidableEq, Repr

/-- Whether an address is canonical (R175). -/
def canonical (va : W64) : Bool := (va.extractLsb' 47 17) == 0 || (va.extractLsb' 47 17) == BitVec.allOnes 17
/-- The keys a pitch may use (R79). -/
def State.keySet (s : State) (pitch : Nat) : List Nat :=
  match s.pitches.get? pitch with
  | some p => p.keySlot :: p.granted
  | none => []

/-- The completion status of an access to a system page of a function, if the link does not perform it
(R412, R419, R421). -/
def State.linkAbort (s : State) (func a : Nat) : Option Nat :=
  match (targetOf a).port with
  | none => none
  | some n =>
    match s.ports.get? n with
    | none => some 1
    | some p =>
      if p.width = 0 then some 1
      else if s.ide.any fun x => x.2.func == func && x.2.port == n && !x.2.secure then some (Config.abortStatus a)
      else if n = 1 ∧ p.mode = 3 then (if a < 0x400000000000 + 2 ^ 37 then none else some 1)
      else if Config.answers (a / 4096) then none else some 1

/-- Key of a host page in the ATS cache. -/
def atsKey (pasid : Nat) (va : W64) : Nat := pasid * 2 ^ 48 + va.toNat % 2 ^ 48 / 4096 * 4096
/-- The leaf as the host's answer replaces its page (R415), or that an answer is outstanding. -/
def State.atsLeaf (s : State) (ctx : PasidCtx) (pasid : Nat) (va : W64) (t : TlbEntry) : Except TransFail TlbEntry :=
  if ctx.ats ∧ targetOf (Pte.base t.leaf) = .host then
    match s.atsCache.get? (atsKey pasid va) with
    | some page => .ok { t with leaf := (t.leaf &&& 0xFFFF000000000FFF) ||| (page &&& 0xFFFFFFFFF000), size := 12 }
    | none => .error .ats
  else .ok t

/-- Translate an address for an access kind of R175 (0 load, 1 store, 2 update, 3 fetch, 4 table) on a space, first
by a last-page register that holds its page: the entry used. Cached translations are used as they stand
(R384–R386). -/
def State.translate (s : State) (space pasid pitch : Nat) (kind : Nat) (va : W64) (last : Option (Nat × TlbEntry) := none) :
    Except TransFail TlbEntry :=
  match s.pasids.get? pasid with
  | none => .error (.page (if kind = 3 then 0x22 else 0x20))
  | some ctx =>
    if ctx.closing then .error (.dead 0xA3 0) else
    let v := va.toNat % 2 ^ 48
    let cached : Option TlbEntry :=
      match last with
      | some (p, e) => if p = v / 2 ^ e.size then some e
        else s.tlbLook space pasid va
      | none => s.tlbLook space pasid va
    let found : Except TransFail TlbEntry :=
      match cached with
      | some e => .ok e
      | none =>
        match s.walk ctx.root va with
        | .absent _ => .error (.page (if kind = 3 then 0x22 else 0x20))
        | .bad l => .error (.dead 0x23 l)
        | .leaf e z a => .ok (s.leafEntry e z a)
    match found with
    | .error f => .error f
    | .ok t =>
      let e : Pte := t.leaf
      if !(s.keySet pitch).contains e.key then .error (.dead 0x24 e.key)
      else if kind = 3 ∧ !e.exec then .error (.page 0x22)
      else if (kind = 1 ∨ kind = 2) ∧ !e.write then .error (.page 0x21)
      else if kind = 2 ∧ targetOf e.base = .doorbell then .error (.dead 0x27 0)
      else
        match s.atsLeaf ctx pasid va t with
        | .error f => .error f
        | .ok t' =>
          match s.linkAbort ctx.func (Pte.base t'.leaf + v % 2 ^ t'.size) with
          | some st => .error (.dead 0x2C st)
          | none => .ok t'
/-- The physical address under an entry. -/
def TlbEntry.phys (t : TlbEntry) (va : W64) : Nat := Pte.base t.leaf + va.toNat % 2 ^ t.size
/-- Add a hotness count to the shadow table beside a leaf table (R387). -/
def State.shadowAdd (s : State) (at_ n : Nat) : State :=
  if n = 0 then s else
  let a := at_ / 4096 * 4096 + 4096 + at_ % 4096 / 4
  s.rawWrite a 2 (min 0xFFFF (s.rawRead a 2 + n))
/-- Put an entry into the base-die TLB: of 65,536 entries one gives way, its count going to the shadow table (R384, R387). -/
def State.putBase (s : State) (k : Nat) (t : TlbEntry) : State :=
  let s := if (s.baseTlb.get? k).isSome ∨ s.baseTlb.length < 65536 then s else
    match s.baseTlb[Config.victim s.stepNo s.baseTlb.length % s.baseTlb.length]? with
    | some (i, e) => { s.shadowAdd e.at_ e.hot with baseTlb := s.baseTlb.del i }
    | none => s
  { s with baseTlb := s.baseTlb.set k t }
/-- Put an entry into a core's L1 TLB: of 1,024 entries one gives way, its count going to the base-die entry (R384, R387). -/
def State.putL1Tlb (s : State) (space k : Nat) (t : TlbEntry) : State :=
  let mine := s.l1Tlb.filter fun x => x.1 / 2 ^ 68 == space
  let s := if (s.l1Tlb.get? k).isSome ∨ mine.length < 1024 then s else
    match mine[Config.victim s.stepNo mine.length % mine.length]? with
    | some (i, e) =>
      let b := i % 2 ^ 68 + 96 * 2 ^ 68
      let hot := match s.baseTlb.get? b with
        | some x => min 255 (x.hot + e.hot)
        | none => e.hot
      ({ s with l1Tlb := s.l1Tlb.del i }).putBase b { e with hot }
    | none => s
  { s with l1Tlb := s.l1Tlb.set k t }
/-- The entry for a translation that was used, with the touch counted on what an entry that stands has counted (R387). -/
def TlbEntry.touched (t : TlbEntry) (old : Option TlbEntry) : TlbEntry :=
  { t with hot := min 255 ((old.map (·.hot)).getD 0 + if Pte.hotEn t.leaf then 1 else 0) }
/-- Cache a translation that was used and count the touch: a core's walk leaves it in the base-die TLB as well (R384, R387). -/
def State.touchTlb (s : State) (space pasid : Nat) (va : W64) (t : TlbEntry) : State :=
  let k := tlbKey space pasid (va.toNat % 2 ^ 48) t.size
  let b := tlbKey 96 pasid (va.toNat % 2 ^ 48) t.size
  if space < 96 then
    let s := if (s.l1Tlb.get? k).isSome ∨ (s.baseTlb.get? b).isSome then s else s.putBase b { t with hot := 0 }
    s.putL1Tlb space k (t.touched (s.l1Tlb.get? k))
  else s.putBase b (t.touched (s.baseTlb.get? b))
/-- Load a lane's last-page register (R385). -/
def State.touchLast (s : State) (key lane : Nat) (va : W64) (t : TlbEntry) : State :=
  { s with lastPage := s.lastPage.set (32 * key + lane) (va.toNat % 2 ^ 48 / 2 ^ t.size, t) }

/-! ### The local aperture (R375, R69, R71) -/

/-- Whether an address lies in the local aperture. -/
def isLocal (va : W64) : Bool := va.extractLsb' 40 24 == BitVec.allOnes 24
/-- Key index of a workgroup's scratchpad accesses (R375). -/
def State.pitchKey (s : State) (pitch : Nat) : Nat := ((s.pitches.get? pitch).map (·.keySlot)).getD 0
/-- The window's base, s2 (R375). -/
def windowBase : W64 := 0xFFFFFF0000000000
/-- The spill areas' base (R375). -/
def spillBase : W64 := 0xFFFFFF8000000000
/-- The workgroup of a member of a workgroup's neighbourhood. -/
def State.memberWg (s : State) (w : Wg) (m : Nat) : Option Wg :=
  match s.nbhs.get? w.nbh with
  | some n => (n.members[m]?).bind fun u => s.wgs.get? u
  | none => none
/-- Bytes of a group's context block with room for 16 log entries (R367, R368). -/
def Wg.ctxSize (w : Wg) : Nat := (0x140 + 8 * w.sregs + 4 * w.preds + 127) / 128 * 128 + 128 * w.vregs + 6400
/-- Where a group's context block lies in the save block (R368). -/
def Wg.ctxAt (w : Wg) (gi : Nat) : Nat := w.saveAt + gi * w.ctxSize
/-- Where the saved scratchpad area lies. -/
def Wg.scrSaveAt (w : Wg) : Nat := w.saveAt + w.ngroups * w.ctxSize
/-- Bytes of a save block (R368). -/
def Wg.saveSize (w : Wg) : Nat := w.ngroups * w.ctxSize + w.scrSize * 256 + 2 ^ 20
/-- Where the entries of a group's operand log lie in its context block (R367). -/
def Wg.logAt (w : Wg) (gi : Nat) : Nat := w.ctxAt gi + (w.ctxSize - 6400)
/-- Where the matrix context lies in the save block (R368). -/
def Wg.mctxAt (w : Wg) : Nat := w.scrSaveAt + w.scrSize * 256
/-- Write bytes in the device's own form at a physical address under a key, below the L1 (R367, R368; log entry 101). -/
def State.putOwn (s : State) (key a n no : Nat) : State :=
  (List.range n).foldl (fun s k => s.setMemByte key (a + k) (Config.ownByte no (a + k))) s
/-- Whether they read back as they were written. -/
def State.ownStands (s : State) (key a n no : Nat) : Bool :=
  (List.range n).all fun k => s.memByte key (a + k) == Config.ownByte no (a + k)
/-- The place of a byte of a workgroup's scratchpad: in its core, or in its save block while it is saved (R367). -/
def Wg.scrPlace (w : Wg) (key ofs : Nat) : Place :=
  if w.phase = .saved then .mem key 1 (w.scrSaveAt + ofs) else .scr w.core key (w.scrBase * 256 + ofs)
/-- The place of one byte of the local aperture, or the cause of an address that names none. -/
def State.localByte (s : State) (w : Wg) (va : W64) : Except Cause Place :=
  let a := va.toNat
  let key := s.pitchKey w.pitch
  let size := w.desc.scratch * 256
  let n := w.desc.w * w.desc.h
  let spill := w.ngroups * w.desc.stack * 64
  if windowBase.toNat ≤ a ∧ a < windowBase.toNat + 24 * size then
    let o := a - windowBase.toNat
    let m := o / size
    if n ≤ m then .error .nbhWindow else
    match if m = w.member then some w else s.memberWg w m with
    | some x => .ok (x.scrPlace key (o % size))
    | none => .error .nbhWindow
  else if spillBase.toNat ≤ a ∧ a < spillBase.toNat + spill then
    .ok (w.scrPlace key (size + (a - spillBase.toNat)))
  else .error .scratchRange
/-- EXTRA[63:8] of SCRATCH_RANGE and NBH_WINDOW (R175). -/
def Wg.rangeExtra (w : Wg) (c : Cause) : Nat :=
  if c = .nbhWindow then w.desc.w * w.desc.h * w.desc.scratch * 256 else w.desc.scratch * 256

/-- The precise address checks of an access of `n` bytes (R208, R375): its cause, if any. A run of local bytes is
shorter than 2^25. -/
def State.addrCheck (s : State) (w : Wg) (va : W64) (n : Nat) : Option Cause :=
  if n = 0 then none else
  if !canonical va then some .addrCanon
  else
    let last := va + BitVec.ofNat 64 (n - 1)
    if !isLocal va && !isLocal last then (if canonical last then none else some .addrCanon)
    else if isLocal va != isLocal last then some .scratchRange
    else (List.range (min n (2 ^ 25))).findSome? fun k =>
      match s.localByte w (va + BitVec.ofNat 64 k) with
      | .ok _ => none
      | .error c => some c

/-! ### Resolution of a word's addresses (R172, R180, R392) -/

/-- How the addresses of one word resolve: every byte's place with the translations used by each lane, a fault to
be served, an ATS answer to wait for, or a deferred cause. -/
inductive Resolved where
  | ok (places : List (Nat × List Place)) (used : List (Nat × W64 × TlbEntry))
  | fault (va : W64) (cause : BitVec 8)
  | wait (va : W64)
  | dead (cause : BitVec 8) (lanes : Mask) (addr : W64) (extra : Nat)
  deriving DecidableEq, Repr

/-- The outcome of one element: places with translations used, or why not with the address at fault. -/
def State.resolveOne (s : State) (w : Wg) (gi kind lane : Nat) (va : W64) (n : Nat) :
    Except (W64 × TransFail) (List Place × List (W64 × TlbEntry)) :=
  if isLocal va then
    .ok ((List.range n).map fun k =>
      match s.localByte w (va + BitVec.ofNat 64 k) with
      | .ok p => p
      | .error _ => .scr w.core 0 0, [])
  else
    let last := va + BitVec.ofNat 64 (n - 1)
    let page (t : TlbEntry) (k : Nat) : Place :=
      let x := va + BitVec.ofNat 64 k
      .mem (Pte.key t.leaf) (Pte.cache t.leaf) (t.phys x)
    let last1 := s.lastPage.get? (32 * w.gid gi + lane)
    match s.translate w.core w.pasid w.pitch kind va last1 with
    | .error f => .error (va, f)
    | .ok t =>
      if va.toNat / 4096 = last.toNat / 4096 then .ok ((List.range n).map (page t), [(va, t)])
      else
        let second := last.toNat / 4096 * 4096
        match s.translate w.core w.pasid w.pitch kind (BitVec.ofNat 64 second) last1 with
        | .error f => .error (BitVec.ofNat 64 second, f)
        | .ok u =>
          let agree := (kind = 0 ∨ Pte.write t.leaf = Pte.write u.leaf) ∧ Pte.cache t.leaf = Pte.cache u.leaf
            ∧ Pte.atomic t.leaf = Pte.atomic u.leaf ∧ Pte.key t.leaf = Pte.key u.leaf
            ∧ targetOf (Pte.base t.leaf) = targetOf (Pte.base u.leaf)
          if agree then
            .ok ((List.range n).map (fun k => if va.toNat + k < second then page t k else page u k),
              [(va, t), (BitVec.ofNat 64 second, u)])
          else .error (va, .dead 0x26 (second % 2 ^ 48 * 256))

/-- Resolve a list of elements (lane, address, bytes): faults to be served come first, then the lowest deferred cause
over the failing lanes (R180). -/
def State.resolve (s : State) (w : Wg) (gi kind : Nat) (els : List (Nat × W64 × Nat)) : Resolved :=
  let rs := els.map fun (l, va, n) => (l, va, s.resolveOne w gi kind l va n)
  let fault := rs.findSome? fun (_, _, r) => match r with
    | .error (va, .page c) => some (va, c)
    | _ => none
  let wait := rs.findSome? fun (_, _, r) => match r with
    | .error (va, .ats) => some va
    | _ => none
  match fault, wait with
  | some (va, c), _ => .fault va c
  | none, some va => .wait va
  | none, none =>
    let deads : List (Nat × W64 × BitVec 8 × Nat) := rs.filterMap fun (l, va, r) => match r with
      | .error (_, .dead c x) => some (l, va, c, x)
      | _ => none
    match deads with
    | [] => .ok (rs.filterMap fun (l, _, r) => match r with
        | .ok (p, _) => some (l, p)
        | _ => none)
        ((rs.map fun (l, _, r) => match r with
          | .ok (_, u) => u.map fun x => (l, x)
          | _ => []).flatten)
    | d :: ds =>
      let c := ds.foldl (fun m x => if x.2.2.1.toNat < m.toNat then x.2.2.1 else m) d.2.2.1
      let hit := deads.filter fun x => x.2.2.1 = c
      let lanes : Mask := hit.foldl (fun m x => m ||| (1#32 <<< x.1)) 0
      let low := hit.foldl (fun m x => if x.2.1.toNat < m.2.1.toNat then x else m) (hit.headD d)
      .dead c lanes low.2.1 low.2.2.2

/-- Whether a lane's last-page register serves a page whose entry has left the L1 TLB: no entry counts it (R385, R387). -/
def State.lastOnly (s : State) (w : Wg) (gi lane : Nat) (va : W64) (t : TlbEntry) : Bool :=
  (match s.lastPage.get? (32 * w.gid gi + lane) with
  | some (p, e) => p == va.toNat % 2 ^ 48 / 2 ^ e.size && e.size == t.size
  | none => false) && (s.l1Tlb.get? (tlbKey w.core w.pasid (va.toNat % 2 ^ 48) t.size)).isNone
/-- Cache the translations a word used: once for each page it touches (R384, R385, R387). -/
def State.touchAll (s : State) (w : Wg) (gi : Nat) (used : List (Nat × W64 × TlbEntry)) : State :=
  let counted := used.filter fun x => !s.lastOnly w gi x.1 x.2.1 x.2.2
  let s := used.foldl (fun s x => s.touchLast (w.gid gi) x.1 x.2.1 x.2.2) s
  let pages := counted.foldl (fun ps x =>
    if ps.any fun y => y.2.at_ == x.2.2.at_ && y.1.toNat / 2 ^ y.2.size == x.2.1.toNat / 2 ^ x.2.2.size then ps
    else ps ++ [x.2]) ([] : List (W64 × TlbEntry))
  pages.foldl (fun s x => s.touchTlb w.core w.pasid x.1 x.2) s
/-- Record a fault for the firmware, once for each waiter and page (R44, R45). -/
def State.logFault (s : State) (f : PageFault) : State :=
  if s.faults.contains f then s else { s with faults := s.faults ++ [f] }
/-- Ask the host for a translation, once for each page; the waiter is noted with the request (R415). -/
def State.askAts (s : State) (pasid kind : Nat) (va : W64) (x : Waiter) : State :=
  match s.atsReqs.findBy fun _ r => atsKey r.pasid r.va == atsKey pasid va with
  | some (k, r) =>
    if r.waiters.contains x then s else { s with atsReqs := s.atsReqs.set k { r with waiters := r.waiters ++ [x] } }
  | none => { s with atsReqs := s.atsReqs.set s.nextId ⟨pasid, va, kind, false, [x]⟩, nextId := s.nextId + 1 }

/-! ### Waking (R326, R327) -/

/-- Leave Idle on a wake or a doorbell (R487). -/
def State.leaveIdle (s : State) : State := if s.power = .idle then { s with power := .run } else s
/-- A wake event of a core: its reason bit is recorded while the core is gated or has not issued since. -/
def State.wake (s : State) (core bit : Nat) : State :=
  let c := s.core core
  if c.gated ∧ !c.waking then
    s.leaveIdle.setCore core { c with waking := true, woken := true, wakeReason := (c.wakeReason &&& 0xFFFFFFFFFFC0FE00) ||| (1#64 <<< bit) }
  else if c.waking then s.setCore core { c with woken := true, wakeReason := c.wakeReason ||| (1#64 <<< bit) }
  else s
/-- Reason bits of WAKEREASON (R327). -/
def wakePhase : Nat := 0
@[inherit_doc wakePhase] def wakeToken : Nat := 1
@[inherit_doc wakePhase] def wakeMonitor : Nat := 2
@[inherit_doc wakePhase] def wakeTimer : Nat := 3
@[inherit_doc wakePhase] def wakeReplay : Nat := 4
@[inherit_doc wakePhase] def wakeBind : Nat := 5
@[inherit_doc wakePhase] def wakePreempt : Nat := 6
@[inherit_doc wakePhase] def wakeDebug : Nat := 7
@[inherit_doc wakePhase] def wakeReady : Nat := 8

/-! ### Redundant pairs (R333, R336, R338) -/

/-- The pair a workgroup belongs to, and whether it is its lead. -/
def State.pairOf (s : State) (wg : Nat) : Option (Nat × Pair × Bool) :=
  match s.pairs.findBy fun _ p => p.lead.wg == wg || p.sweep.wg == wg with
  | some (k, p) => some (k, p, p.lead.wg == wg)
  | none => none
/-- A role of a pair. -/
def Pair.role (p : Pair) (lead : Bool) : RedRole := if lead then p.lead else p.sweep
/-- Change a role of a pair. -/
def Pair.setRole (p : Pair) (lead : Bool) (r : RedRole) : Pair := if lead then { p with lead := r } else { p with sweep := r }
/-- A deferred cause that the lead has met and a group of the sweep has reached (R347). -/
def Pair.dueAt (p : Pair) (gi : Nat) : Option Due :=
  p.due.find? fun d => d.gi == gi && decide (d.count ≤ p.sweep.count.getD gi 0)
/-- Key of a load-value place (R337). -/
def placeKey (gi n : Nat) : Nat := gi * 2 ^ 20 + n
/-- Change a pair. -/
def State.setPair (s : State) (k : Nat) (p : Pair) : State := { s with pairs := s.pairs.set k p }
/-- Ask for a checkpoint of a pair (R342). -/
def State.askCkpt (s : State) (k : Nat) : State := { s with pairs := s.pairs.modify k fun p => { p with ckpt := true } }

/-! ### Places -/

/-- Read one byte at a scope on a core. -/
def State.readPlace (s : State) (core scope : Nat) : Place → Byte
  | .scr c k o => s.scrByte c k o
  | .mem k ca a => s.loadByte core k ca scope a
/-- What reading leaves behind in the L1. -/
def State.touchPlace (s : State) (core scope : Nat) : Place → State
  | .scr .. => s
  | .mem k ca a => s.afterLoad core k ca scope a
/-- Write one byte at a scope on a core. -/
def State.writePlace (s : State) (core scope : Nat) (p : Place) (b : Byte) : State :=
  match p with
  | .scr c k o => s.setScrByte c k o b
  | .mem k ca a => s.storeByte core k ca scope a b
/-- Read an element, little-endian. -/
def State.readPlaces (s : State) (core scope : Nat) : List Place → Nat
  | [] => 0
  | p :: ps => (s.readPlace core scope p).toNat + 256 * State.readPlaces s core scope ps
/-- Write an element, little-endian. -/
def State.writePlaces (s : State) (core scope : Nat) : List Place → Nat → State
  | [], _ => s
  | p :: ps, v => State.writePlaces (s.writePlace core scope p (BitVec.ofNat 8 v)) core scope ps (v / 256)
/-- Key of a place in the one memory. -/
def Place.num : Place → Nat
  | .scr c _ o => scrKey c o
  | .mem _ _ a => a
/-- Whether any byte of an element lies in a poisoned sector. -/
def State.anyPoison (s : State) (ps : List Place) : Bool :=
  ps.any fun p => s.poisoned p.num

/-! ### A group's own spill area (R69, R142) -/

/-- Offset of a group's spill area in its core's scratchpad. -/
def Wg.spillOfs (w : Wg) (gi : Nat) : Nat := (w.scrBase + w.desc.scratch) * 256 + gi * w.desc.stack * 64
/-- Read `n` bytes of a group's spill area. -/
def State.spillRead (s : State) (w : Wg) (gi ofs n : Nat) : Nat :=
  leNat ((List.range n).map fun k => s.scrByte w.core (s.pitchKey w.pitch) (w.spillOfs gi + ofs + k))
/-- Write bytes of a group's spill area. -/
def State.spillWrite (s : State) (w : Wg) (gi ofs n v : Nat) : State :=
  ((leBytes n v).zipIdx).foldl (fun s (b, k) => s.setScrByte w.core (s.pitchKey w.pitch) (w.spillOfs gi + ofs + k) b) s

/-! ### Lanes and planes (R58, R64, R144) -/

/-- PLANE of a lane. -/
def Group.planeOf (g : Group) (l : Nat) : Nat := (g.planes.getD l 0).toNat
/-- The lanes active(o, p): those of EXEC in plane p (R58). -/
def Group.active (g : Group) (p : Nat) : Mask :=
  (List.range 32).foldl (fun m l => if g.exec.getLsbD l && g.planeOf l == p then m ||| (1#32 <<< l) else m) 0
/-- PMASK: the planes that hold a lane of EXEC (R58). -/
def Group.pmask (g : Group) : BitVec 8 :=
  (List.range 32).foldl (fun m l => if g.exec.getLsbD l then m ||| (1#8 <<< g.planeOf l) else m) 0
/-- The lanes of a mask, ascending. -/
def lanesOf (m : Mask) : List Nat := (List.range 32).filter fun l => m.getLsbD l
/-- The lowest plane of a set of planes. -/
def lowPlane (m : BitVec 8) : Nat := ((List.range 8).find? fun p => m.getLsbD p).getD 0
/-- The planes of a set at or above p. -/
def planesFrom (m : BitVec 8) (p : Nat) : BitVec 8 := m &&& (0xFF#8 <<< p)

/-! ### The stacks (R141–R143, R492) -/

/-- A frame's control entry (R142). -/
structure FrameCtl where
  ofs : BitVec 24
  kind : BitVec 8
  mask : Mask
  depth : Nat
  cj : BitVec 24
  planes : BitVec 8
  deriving DecidableEq, Repr

/-- A control entry as 128 bits (R142). -/
def FrameCtl.bits (f : FrameCtl) : Nat :=
  f.ofs.toNat + f.kind.toNat * 2 ^ 24 + f.mask.toNat * 2 ^ 32 + f.depth % 2 ^ 16 * 2 ^ 64 + f.cj.toNat * 2 ^ 80
    + f.planes.toNat * 2 ^ 104
/-- A control entry from 128 bits. -/
def FrameCtl.ofBits (n : Nat) : FrameCtl :=
  ⟨BitVec.ofNat 24 n, BitVec.ofNat 8 (n / 2 ^ 24), BitVec.ofNat 32 (n / 2 ^ 32), n / 2 ^ 64 % 2 ^ 16,
    BitVec.ofNat 24 (n / 2 ^ 80), BitVec.ofNat 8 (n / 2 ^ 104)⟩
/-- A divergence entry as 128 bits (R142). -/
def DivEntry.bits (e : DivEntry) : Nat := e.ofs.toNat + e.mask.toNat * 2 ^ 32 + e.join.toNat * 2 ^ 64
/-- A divergence entry from 128 bits. -/
def DivEntry.ofBits (n : Nat) : DivEntry := ⟨BitVec.ofNat 24 n, BitVec.ofNat 32 (n / 2 ^ 32), BitVec.ofNat 24 (n / 2 ^ 64)⟩

/-- Bytes of a group's spill area. -/
def Wg.spillBytes (w : Wg) : Nat := w.desc.stack * 64
/-- Bytes that the spilled entries and the frames occupy at a depth (R142, R174). -/
def stackBytes (depth frameBytes : Nat) : Nat := 16 * (depth - 16) + frameBytes
/-- The control entry `ofs` bytes above the top of the frames (R142). -/
def State.frameAt (s : State) (w : Wg) (g : Group) (ofs : Nat) : FrameCtl :=
  .ofBits (s.spillRead w g.gi (w.spillBytes - g.frameBytes + ofs) 16)
/-- The top frame, if any. -/
def State.topFrame (s : State) (w : Wg) (g : Group) : Option FrameCtl :=
  if g.callDepth = 0 then none else some (s.frameAt w g 0)
/-- Size of a frame by its kind (R141). -/
def FrameCtl.size (f : FrameCtl) : Nat := if f.kind = 1 then 80 else 16
/-- Offset above the top of the frames of the innermost trap frame, searching `fuel` frames. -/
def State.trapFrameOfs (s : State) (w : Wg) (g : Group) : Nat → Nat → Option Nat
  | 0, _ => none
  | fuel + 1, ofs =>
    let f := s.frameAt w g ofs
    if f.kind = 1 then some ofs else State.trapFrameOfs s w g fuel (ofs + 16)
/-- The innermost trap frame on the call stack. -/
def State.innerTrap (s : State) (w : Wg) (g : Group) : Option Nat := s.trapFrameOfs w g g.callDepth 0
/-- PARK: RETMASK of the top frame if it is a call frame (R141). -/
def State.park (s : State) (w : Wg) (g : Group) : Mask :=
  match s.topFrame w g with
  | some f => if f.kind = 0 then f.mask else 0
  | none => 0

/-- Push a divergence entry; the oldest hardware entry spills (R142). -/
def State.pushDiv (s : State) (w : Wg) (k : Nat) (g : Group) (e : DivEntry) : State × Group :=
  if g.hw.length < 16 then (s, { g with hw := e :: g.hw, depth := g.depth + 1 })
  else
    let old := g.hw.getLastD e
    let s := s.spillWrite w g.gi (16 * (g.depth - 16)) 16 old.bits
    let g := { g with hw := e :: g.hw.dropLast, depth := g.depth + 1 }
    (s.setGroup k g, g)
/-- Pop the top divergence entry; a spilled one is read back (R142). -/
def State.popDiv (s : State) (w : Wg) (g : Group) : Group :=
  let g' := { g with hw := g.hw.tail, depth := g.depth - 1 }
  if 16 < g.depth then
    { g' with hw := g'.hw ++ [.ofBits (s.spillRead w g.gi (16 * (g.depth - 17)) 16)] }
  else g'
/-- Push a frame: its control entry and, for a trap frame, the words of the record (R142). -/
def State.pushFrame (s : State) (w : Wg) (g : Group) (f : FrameCtl) (rec : List W64) : State × Group :=
  let size := 16 + 8 * rec.length
  let at_ := w.spillBytes - g.frameBytes - size
  let s := s.spillWrite w g.gi at_ 16 f.bits
  let s := (rec.zipIdx).foldl (fun s (v, j) => s.spillWrite w g.gi (at_ + 16 + 8 * j) 8 v.toNat) s
  (s, { g with callDepth := g.callDepth + 1, frameBytes := g.frameBytes + size })
/-- Pop the top frame. -/
def Group.popFrame (g : Group) (f : FrameCtl) : Group :=
  { g with callDepth := g.callDepth - 1, frameBytes := g.frameBytes - f.size }

/-! ### Offset boundaries (R66, R366) -/

/-- Whether a group stands at an offset boundary; a WAITP, CLOCK.until, PHASE or MSTAT that waits has not begun its
offset's words (R66, R366). -/
def Group.atBoundary (g : Group) : Bool :=
  g.ended || (g.captured == 0 && (match g.todo with
    | none => g.resumePlanes == 0xFF
    | some t => t == g.pmask && g.wait != .trapMatch))
/-- A group as it is recorded at a boundary: a word in progress is abandoned (R366). -/
def Group.parked (g : Group) : Group := { g with wait := .none, todo := none }
/-- The resident groups of a workgroup. -/
def State.groupsOf (s : State) (u : Nat) : List (Nat × Group) := s.groups.filter fun x => x.2.wg == u

/-! ### Special registers (R54) -/

/-- GROUP (R54). -/
def groupReg (w : Wg) (g : Group) : W64 := BitVec.ofNat 64 (g.gi + (w.slot + g.gi) * 2 ^ 5 + w.core * 2 ^ 11)
/-- NBH (R54). -/
def nbhReg (w : Wg) : W64 :=
  BitVec.ofNat 64 (w.nbhid + w.member * 2 ^ 16 + w.member % w.desc.w * 2 ^ 21 + w.member / w.desc.w * 2 ^ 24
    + (w.desc.w - 1) * 2 ^ 27 + (w.desc.h - 1) * 2 ^ 30)
/-- SCHED (R54). -/
def schedReg (g : Group) : W64 := BitVec.ofNat 64 (g.schedIndex.toNat + g.phaseNo.toNat * 2 ^ 8)

/-! ### Taking a trap (R160, R161, R363) -/

/-- The record of a trap (R160). -/
def trapRecord (w : Wg) (g : Group) (t : TrapReq) : List W64 :=
  [BitVec.ofNat 64 (t.cause.toNat + t.planes.toNat * 2 ^ 8 + t.pmask.toNat * 2 ^ 16 + t.ofs.toNat * 2 ^ 24),
   t.exec ++ t.lanes, t.addr, t.extra,
   BitVec.ofNat 64 (g.depth % 2 ^ 16 + g.callDepth % 2 ^ 16 * 2 ^ 16 + g.cj.toNat * 2 ^ 32),
   groupReg w g, BitVec.ofNat 64 w.wgid, BitVec.ofNat 64 w.role]

/-- End a group (R153): it issues nothing more, and its poison goes to its workgroup. -/
def State.endGroup (s : State) (k : Nat) : State :=
  match s.groups.get? k with
  | none => s
  | some g =>
    let s := s.setGroup k { g with ended := true, todo := none, wait := .none }
    { s with wgs := s.wgs.modify g.wg fun w => { w with poisoned := w.poisoned || g.chk.poison } }
/-- Stop every group of a workgroup at its next offset boundary and discard its queued matrix commands (R363). -/
def State.stopWg (s : State) (u : Nat) : State :=
  { s with groups := s.groups.map (fun x => if x.2.wg = u then (x.1, { x.2 with stop := true }) else x),
           wgs := s.wgs.modify u fun w =>
             { w with mqueue := w.mqueue.filter (·.running), failed := true,
                      savedGroups := w.savedGroups.map fun g => { g with stop := true } } }
/-- What a trap that ends a group stops besides it (R363); the first record is kept. -/
def State.trapPolicy (s : State) (u : Nat) (cause : BitVec 8) (rec : List W64) : State :=
  match s.wgs.get? u with
  | none => s
  | some w =>
    let w' := if w.trap.isSome then { w with failed := true }
      else { w with failed := true, cause, trap := some ⟨rec⟩ }
    let s := s.setWg u w'
    if w.trapPol = 0 then s
    else if w.trapPol = 1 then s.stopWg u
    else
      -- the launch, or every launch of its node (R460)
      let nodeOf (id : Nat) : Option (Nat × Nat) := match s.launches.get? id with
        | some l => l.node.map fun x => (x.1, x.2.1)
        | none => none
      let hit (id : Nat) : Bool := id == w.launch || ((nodeOf w.launch).isSome && nodeOf id == nodeOf w.launch)
      let s := { s with launches := s.launches.map fun (x : Nat × Launch) => if hit x.1 then (x.1, { x.2 with stopped := true }) else x }
      (s.wgs.filter fun (x : Nat × Wg) => hit x.2.launch && x.2.phase != .recorded).foldl
        (fun s x => s.stopWg x.1) s
/-- End a group by a trap: the record goes to the completion record (R161). -/
def State.endByTrap (s : State) (k : Nat) (cause : BitVec 8) (rec : List W64) : State :=
  match s.groups.get? k with
  | none => s
  | some g => (s.endGroup k).trapPolicy g.wg cause rec

/-- Whether a group has unresolved operand-log entries. -/
def State.hasLog (s : State) (w gi : Nat) : Bool :=
  s.accs.any fun x => x.2.wg == w && x.2.gi == gi && (match x.2.phase with
    | .inflight | .stalled => false
    | _ => true)

/-- Whether a group has accesses that may still end in a deferred cause: those a precise cause after them waits for
(R65, R181). -/
def State.mayDefer (s : State) (w gi : Nat) : Bool := s.accs.any fun x => x.2.wg == w && x.2.gi == gi

/-- Deliver a trap to a group (R161, R181): enter its handler through a trap frame, or end it. A precise cause waits
until the operand log has resolved. Planes set by lower planes at the offset stay set (R66). -/
def State.takeTrap (s : State) (k : Nat) (t : TrapReq) : State :=
  match s.groups.get? k with
  | none => s
  | some g =>
    match s.wgs.get? g.wg with
    | none => s
    | some w =>
      let rec_ := trapRecord w g t
      if w.desc.trapEnt = 0xFFFFFF ∨ (s.innerTrap w g).isSome
          ∨ w.spillBytes < stackBytes g.depth (g.frameBytes + 80) then
        s.endByTrap k t.cause rec_
      else
        let f : FrameCtl := ⟨t.resume, 1, g.exec, g.depth, g.cj, t.resumePlanes⟩
        let (s, g) := s.pushFrame w g f rec_
        s.setGroup k { g with
          ofs := w.desc.trapEnt, cj := 0xFFFFFF, todo := none, resumePlanes := 0xFF,
          planes := g.planesNext, execNext := g.exec, wait := .none, captured := 0, capturedNext := 0,
          capturedAt := some (g.ofs, g.captured, g.capturedNext) }

/-- The follow-ons captured at an offset and at the next one, as a trap left them (R228). -/
def Group.capturedAgain (g : Group) (o : BitVec 24) : BitVec 8 × BitVec 8 :=
  match g.capturedAt with
  | some (p, a, b) => if o = p then (a, b) else if o = p + 1 then (b, 0) else (0, 0)
  | none => (0, 0)
/-- The return from a trap (R163): pop the trap frame and go on where it says. -/
def State.trapReturn (s : State) (k : Nat) (w : Wg) (g : Group) (f : FrameCtl) : State :=
  let g := g.popFrame f
  let e := f.mask &&& g.live &&& ~~~(s.park w g)
  s.setGroup k { g with exec := e, execNext := e, cj := f.cj, ofs := f.ofs, resumePlanes := f.planes, todo := none,
                        captured := (g.capturedAgain f.ofs).1, capturedNext := (g.capturedAgain f.ofs).2,
                        capturedAt := none }

/-! ### What a word will write locally (R344) -/

/-- Keep the prior contents of the local lines that a word of a redundant workgroup is going to write, from its issue on, so
that the journal's limit is met before anything is written (R344). -/
def State.journalEls (s : State) (u : Nat) (w : Wg) (els : List (Nat × W64 × Nat)) : State :=
  if (s.pairOf u).isNone then s else
  els.foldl (fun s (_, va, n) => if n = 0 ∨ !isLocal va then s else
    (List.range ((n + 127) / 128 + 1)).foldl (fun s j => match s.localByte w (va + BitVec.ofNat 64 (min (128 * j) (n - 1))) with
      | .ok (.scr c _ o) => s.journal c o
      | _ => s) s) s

/-! ### Raising a precise cause (R181, R338–R340, R347) -/

/-- Add a compare-buffer entry of a role in a stream (R339). -/
def State.addEntry (s : State) (k : Nat) (p : Pair) (lead : Bool) (gi stream kind : Nat) (sig : W64) (ofs : BitVec 24) (plane : Nat)
    (els : List (Nat × W64 × Nat)) (act : EntryAct) : State :=
  let r := p.role lead
  let n := r.made.getD stream 0
  let e : Entry := { gi, stream, seq := n, kind, sig, ofs, plane, time := s.time, els, act }
  s.setPair k (p.setRole lead { r with entries := r.entries ++ [e], made := r.made.set stream (n + 1) })
/-- The signature of an entry: kind, width byte, plane, mask, then the content (R340). -/
def entrySig (kind width plane : Nat) (mask : Mask) (content : List Byte) : W64 :=
  crc64 (leBytes 1 kind ++ leBytes 1 width ++ leBytes 1 plane ++ leBytes 4 mask.toNat ++ content)
/-- Whether a role's entries leave room for another: 64 in the buffer, and SLACK for the lead (R339, R341). -/
def Pair.room (p : Pair) (lead : Bool) : Bool :=
  decide ((p.role lead).entries.length < if lead then min 64 p.slack else 64)
/-- Whether a sweep group would run ahead of its lead (R338). -/
def State.aheadOfLead (s : State) (g : Group) : Bool :=
  match s.pairOf g.wg with
  | some (_, p, false) => decide (p.lead.count.getD g.gi 0 ≤ p.sweep.count.getD g.gi 0)
  | _ => false
/-- Count a word of a redundant group (R338): one that holds its group counts when its hold is
over, and one that raises a precise cause counts when it makes its entry (R347). -/
def State.counted (s : State) (g : Group) : State :=
  match s.pairOf g.wg with
  | none => s
  | some (k, p, lead) =>
    let r := p.role lead
    s.setPair k (p.setRole lead { r with count := r.count.set g.gi (r.count.getD g.gi 0 + 1) })
/-- Raise a precise cause of a group. While earlier accesses may still end in a deferred cause the trap is held and the
word counts as unissued (R181); in a redundant group it makes an entry and waits for the other role's (R347), the sweep
not before its lead (R338) and neither while its buffer is full (R339). -/
def State.raiseTrap (s : State) (k plane : Nat) (t : TrapReq) : State :=
  match s.groups.get? k with
  | none => s
  | some g =>
    if s.mayDefer g.wg g.gi then s.setGroup k { g with heldTrap := true }
    else match s.pairOf g.wg with
    | none => s.takeTrap k t
    | some (i, p, lead) =>
      let r := p.role lead
      if s.aheadOfLead g ∨ 64 ≤ r.entries.length then s else
      let p := p.setRole lead { r with count := r.count.set g.gi (r.count.getD g.gi 0 + 1) }
      let sig := entrySig 8 0 plane t.lanes (leBytes 1 t.cause.toNat ++ leBytes 4 t.ofs.toNat)
      (s.addEntry i p lead g.gi g.gi 8 sig t.ofs plane [] (.trap t)).setGroup k { g with wait := .trapMatch }

/-! ### Ending a path (R143, R492) -/

/-- How a run of resume() ends. -/
inductive ResumeRes where
  | running (g : Group)
  | ended
  | trap (cause : BitVec 8) (extra : W64)
  deriving DecidableEq, Repr

/-- One round of resume(): the frame or entry on top is checked and popped (R143, R492). -/
def State.resumeRound (s : State) (w : Wg) (g : Group) : ResumeRes :=
  let len := w.desc.len
  let popEntry : ResumeRes :=
    match g.hw with
    | [] => .ended
    | e :: _ =>
      if len ≤ e.ofs.toNat then .trap 0x0A (BitVec.ofNat 64 e.ofs.toNat)
      else
        let g := s.popDiv w g
        .running { g with exec := e.mask &&& g.live &&& ~~~(s.park w g), ofs := e.ofs, cj := e.join }
  match s.topFrame w g with
  | some f =>
    if g.depth = f.depth then
      if f.kind = 1 then .trap 0x0B 1
      else if f.kind ≠ 0 then .trap 0x0B (BitVec.ofNat 64 (2 + f.kind.toNat * 256))
      else if len ≤ f.ofs.toNat then .trap 0x0A (BitVec.ofNat 64 f.ofs.toNat)
      else
        let g := g.popFrame f
        .running { g with exec := f.mask &&& g.live &&& ~~~(s.park w g), ofs := f.ofs, cj := f.cj }
    else popEntry
  | none => popEntry
/-- resume(), with fuel for the entries and frames it may pop: rounds until EXEC is not zero. -/
def State.resumeLoop (s : State) (w : Wg) : Nat → Group → ResumeRes
  | 0, _ => .ended
  | fuel + 1, g =>
    match s.resumeRound w g with
    | .running g' => if g'.exec = 0 then State.resumeLoop s w fuel g' else .running g'
    | r => r

/-- A cause of resume(), which began at the group's offset (R161, R492). -/
def Group.resumeReq (g : Group) (cause : BitVec 8) (extra : W64) : TrapReq :=
  { cause, lanes := g.exec, exec := g.exec, addr := 0, extra, ofs := g.ofs, pmask := g.pmask, planes := 0xFF,
    resume := g.ofs, resumePlanes := 0xFF }
/-- The group as a run of resume() leaves it: the planes a handler's return names and the words captured behind a copy
are those of the offset it leaves, and hold there alone (R163, R228). -/
def Group.resumed (g g' : Group) : Group :=
  if g'.ofs = g.ofs then { g' with resumePlanes := 0xFF }
  else { g' with resumePlanes := 0xFF, captured := 0, capturedNext := 0 }
/-- Begin an offset: run resume() while OFFSET = CJ or no plane is occupied, then sample the planes (R58, R143). Each run
that ends well is kept, so that a cause of a later one names where that one began (R492). `none` means that the group
ended or raised a cause instead; the state says which. -/
def State.beginLoop (s : State) (k : Nat) (w : Wg) : Nat → Group → State × Option Group
  | 0, _ => (s, none)
  | fuel + 1, g =>
    if g.ofs = g.cj ∨ g.pmask = 0 then
      match s.resumeLoop w (g.depth + g.callDepth + 1) g with
      | .running g' => State.beginLoop (s.setGroup k (g.resumed g')) k w fuel (g.resumed g')
      | .ended => (s.endGroup k, none)
      | .trap cause extra => (s.raiseTrap k 0 (g.resumeReq cause extra), none)
    else
      let g := { g with todo := some (g.pmask &&& g.resumePlanes), resumePlanes := 0xFF,
                        execNext := g.exec, planesNext := g.planes }
      (s.setGroup k g, some g)
/-- Begin the group's next offset if it stands at a boundary. -/
def State.beginOffset (s : State) (k : Nat) (w : Wg) (g : Group) : State × Option Group :=
  if g.todo.isSome then (s, some g) else s.beginLoop k w (g.depth + g.callDepth + 2) g

/-- Leave an offset straight on (R58, R60): what was written for the next offset takes effect. -/
def State.advance (s : State) (k : Nat) : State :=
  match s.groups.get? k with
  | none => s
  | some g =>
    match s.wgs.get? g.wg with
    | none => s
    | some w =>
      if w.desc.len ≤ g.ofs.toNat + 1 then
        s.raiseTrap k 0 ⟨0x0A, g.exec, g.exec, 0, BitVec.ofNat 64 (g.ofs.toNat + 1), g.ofs, g.pmask, 0, g.ofs, 0⟩
      else
        s.setGroup k { g with ofs := g.ofs + 1, exec := g.execNext, planes := g.planesNext, todo := none,
                              captured := g.capturedNext, capturedNext := 0 }
/-- A plane's word at the offset is done; the last one advances the offset. -/
def State.planeDone (s : State) (k plane : Nat) : State :=
  match s.groups.get? k with
  | none => s
  | some g =>
    if g.ended then s else
    let left := (g.todo.getD 0) &&& ~~~(1#8 <<< plane)
    if left = 0 then (s.setGroup k { g with todo := some 0 }).advance k
    else s.setGroup k { g with todo := some left }

end Sys2Proof.Machine
end

