-- ==== Sys2Proof/Machine/Operands.lean ====
section
/-! DEFINITION. Operand forms: reading and writing registers, special registers, guards, and the shared course of
issuing one word of a group (R51, R53, R58, R114–R116, R129, R184–R187, R209, R319). -/

namespace Sys2Proof.Machine
open Sys2Proof

/-- What the word being issued knows: its group and workgroup, its plane, and its active lanes. -/
structure Ctx where
  core : Nat
  slot : Nat
  k : Nat
  g : Group
  w : Wg
  /-- The registers as the word reads them: an injected stuck bit is forced (R449). -/
  regs : Regs
  /-- CYCLE, TIME and GROUP as the other role read them (R336). -/
  clk : List W64
  plane : Nat
  /-- active(o, p), or EXEC for a congruent word (R58, R62). -/
  lanes : Mask
  deriving DecidableEq, Repr

/-- How the issue of one word ends. -/
inductive Res where
  /-- Done; the group goes straight on. -/
  | next (s : State)
  /-- A congruent word moved the group to an offset itself. -/
  | moved (s : State)
  /-- A precise cause: code, lanes, address, EXTRA. The word has no effect. -/
  | trap (cause : BitVec 8) (lanes : Mask) (addr extra : W64)
  /-- TRAP and CHKERR.trap, which resume behind the word (R161). -/
  | trapNext (cause : BitVec 8) (lanes : Mask) (addr extra : W64)
  /-- The word waits for a page or an answer it has asked for; it has not issued. -/
  | wait (s : State)
  /-- The word has issued and holds its group (WAITP, CLOCK.until, MSTAT). -/
  | held (s : State)
  /-- The hold of a word that issued earlier is over; the group goes straight on. -/
  | resumed (s : State)
  /-- The word is not ready; nothing changes. -/
  | hold
  deriving DecidableEq, Repr

/-- A precise cause by name. -/
def Res.cause (c : Cause) (lanes : Mask) (addr extra : W64) : Res := .trap c.code lanes addr extra

/-! ### Reading -/

/-- A uniform special register, or a per-lane one in a lane (R53, R54). -/
def State.sreg (s : State) (c : Ctx) (r : SReg) (lane : Nat) : W64 :=
  match r with
  | .exec => c.g.exec.zeroExtend 64
  | .plane => BitVec.ofNat 64 (c.g.planeOf lane)
  | .pmask => c.g.pmask.zeroExtend 64
  | .lane => BitVec.ofNat 64 lane
  | .group => c.clk.getD 2 (groupReg c.w c.g)
  | .wg => BitVec.ofNat 64 c.w.wgid
  | .nbh => nbhReg c.w
  | .sched => schedReg c.g
  | .chkint => c.g.chk.read
  | .cycle => c.clk.getD 0 (BitVec.ofNat 64 (s.core c.core).cycle)
  | .time => c.clk.getD 1 (BitVec.ofNat 64 s.time)
  | .role => BitVec.ofNat 64 c.w.role

/-- A vector register in a lane. -/
def Regs.vec (r : Regs) (n lane : Nat) : W32 := r.v.getD (32 * n + lane) 0
/-- A vector pair in a lane: the even register is the low half (R86). -/
def Regs.vec64 (r : Regs) (n lane : Nat) : W64 := r.vec (n + 1) lane ++ r.vec n lane
/-- A uniform register. -/
def Regs.uni (r : Regs) (n : Nat) : W64 := r.s.getD n 0
/-- A predicate's lane mask. -/
def Regs.pred (r : Regs) (n : Nat) : Mask := r.p.getD n 0
/-- An operand of 64 bits in a lane (R115, R116, R188). -/
def State.read64 (s : State) (c : Ctx) (o : Opnd) (lane : Nat) : W64 :=
  match o with
  | .v n => c.regs.vec64 n.toNat lane
  | .s n => c.regs.uni n.toNat
  | .p n => if (c.regs.pred n.val).getLsbD lane then 1 else 0
  | .sr r => s.sreg c r lane
  | .imm k => BitVec.ofInt 64 (inlineVal k)
/-- An operand of 32 bits in a lane: bits [31:0] of a uniform register (R186). -/
def State.read32 (s : State) (c : Ctx) (o : Opnd) (lane : Nat) : W32 :=
  match o with
  | .v n => c.regs.vec n.toNat lane
  | _ => (s.read64 c o lane).truncate 32
/-- An integer operand at the operation's width. -/
def State.readW (s : State) (c : Ctx) (wide : Bool) (o : Opnd) (lane : Nat) : W64 :=
  if wide then s.read64 c o lane else (s.read32 c o lane).zeroExtend 64
/-- A floating-point operand's code in a format: an inline integer is converted exactly (R116, R194). -/
def State.readF (s : State) (c : Ctx) (f : Fmt) (o : Opnd) (lane : Nat) : Nat :=
  match o with
  | .imm k => inlineFloat f (inlineVal k)
  | _ => (s.read32 c o lane).toNat % 2 ^ f.width
/-- A packed operand: an inline integer stands in both elements (R197). -/
def State.readH (s : State) (c : Ctx) (f : Fmt) (o : Opnd) (lane : Nat) : Nat :=
  match o with
  | .imm k => packed2 fun _ => inlineFloat f (inlineVal k)
  | _ => (s.read32 c o lane).toNat
/-- A predicate operand in a lane; an inline −1 reads true and an inline 0 false (R158). -/
def Ctx.readP (c : Ctx) (o : Opnd) (lane : Nat) : Bool :=
  match o with
  | .p n => (c.regs.pred n.val).getLsbD lane
  | .imm k => inlineVal k == -1
  | _ => false
/-- A uniform or inline operand, 64 bits (R236). -/
def State.uniVal (s : State) (c : Ctx) (o : Opnd) : W64 := s.read64 c o 0

/-! ### Guards -/

/-- The lanes whose guard is true (R114). -/
def Regs.guard (r : Regs) (g : Guard) : Mask :=
  if g.idx = 63 then (if g.neg then 0 else BitVec.allOnes 32)
  else if g.neg then ~~~(r.pred g.idx.toNat) else r.pred g.idx.toNat
/-- The lanes that take part in a word: active, with a true guard. -/
def Ctx.part (c : Ctx) (g : Guard) : Mask := c.lanes &&& c.regs.guard g
/-- The lanes that take part in a half: guard 0 is always, 1–7 name p1–p7 (R123). -/
def Ctx.halfPart (c : Ctx) (h : Half) : Mask :=
  if h.idx = 0 then c.lanes
  else c.lanes &&& (if h.neg then ~~~(c.regs.pred h.idx.toNat) else c.regs.pred h.idx.toNat)

/-! ### Writing -/

/-- Write a vector register in a lane. -/
def Regs.setVec (r : Regs) (n lane : Nat) (x : W32) : Regs := { r with v := Tab.put 0 r.v (32 * n + lane) x }
/-- Write a vector pair in a lane. -/
def Regs.setVec64 (r : Regs) (n lane : Nat) (x : W64) : Regs :=
  (r.setVec n lane (x.truncate 32)).setVec (n + 1) lane (x.extractLsb' 32 32)
/-- Write a uniform register. -/
def Regs.setUni (r : Regs) (n : Nat) (x : W64) : Regs := { r with s := Tab.put 0 r.s n x }
/-- Write a predicate's lane mask. -/
def Regs.setPred (r : Regs) (n : Nat) (x : Mask) : Regs := { r with p := Tab.put 0 r.p n x }
/-- Write one lane of a predicate. -/
def Regs.setPredLane (r : Regs) (n lane : Nat) (b : Bool) : Regs :=
  let m := r.pred n
  r.setPred n (if b then m ||| (1#32 <<< lane) else m &&& ~~~(1#32 <<< lane))

/-- Change the registers of the issuing group. -/
def State.updRegs (s : State) (k : Nat) (f : Regs → Regs) : State :=
  s.updGroup k fun g => { g with regs := f g.regs }

/-- Write a result of at most 64 bits to a destination lane: a 32-bit vector register, an even pair when `wide`,
or a whole uniform register (R184, R186). -/
def Regs.setDst (r : Regs) (o : Opnd) (wide : Bool) (lane : Nat) (x : W64) : Regs :=
  match o with
  | .v n => if wide then r.setVec64 n.toNat lane x else r.setVec n.toNat lane (x.truncate 32)
  | .s n => r.setUni n.toNat x
  | _ => r

/-- A word of groups 1 to 3 with a vector or uniform destination: the value of each lane is computed from the old
registers, then written; a uniform destination is computed once, if any lane takes part (R184, R185). -/
def Ctx.alu (c : Ctx) (s : State) (g : Guard) (d : Opnd) (wide : Bool) (f : Nat → W64) : Res :=
  let part := c.part g
  if d.isUni then
    if part = 0 then .next s else .next (s.updRegs c.k fun r => r.setDst d wide 0 (f 0))
  else
    let vals := (lanesOf part).map fun l => (l, f l)
    .next (s.updRegs c.k fun r => vals.foldl (fun r x => r.setDst d wide x.1 x.2) r)
/-- A word with a predicate destination: each participating lane's bit is written (R184). -/
def Ctx.aluP (c : Ctx) (s : State) (g : Guard) (d : Opnd) (f : Nat → Bool) : Res :=
  let part := c.part g
  let bits : Mask := (lanesOf part).foldl (fun m l => if f l then m ||| (1#32 <<< l) else m) 0
  .next (s.updRegs c.k fun r => r.setPred d.num ((r.pred d.num &&& ~~~part) ||| bits))

/-! ### The course of issuing a word -/

/-- Whether a register range lies within the group's budgets (R51). -/
def Wg.inBudget (w : Wg) (x : RegSpan) : Bool :=
  match x.file with
  | .v => decide (x.first + x.count ≤ w.vregs)
  | .s => decide (x.first + x.count ≤ w.sregs)
  | .p => decide (x.first + x.count ≤ w.preds)
/-- The register ranges a word names, its guard among them (R51, R114). -/
def wordSpans (i : Instr) : List RegSpan :=
  let guard : List RegSpan := match i with
    | .pairWord h0 h1 =>
      let hg (h : Half) : List RegSpan := if h.idx = 0 then [] else [⟨.p, h.idx.toNat, 1⟩]
      hg h0 ++ hg h1
    | _ => match i.guard? with
      | some g => if g.idx.toNat < 48 then [⟨.p, g.idx.toNat, 1⟩] else []
      | none => []
  guard ++ (i.slots.map Slot.spans).flatten
/-- Whether a register of a range is pending (R319). -/
def Group.isPending (g : Group) (x : RegSpan) : Bool :=
  g.pend.any fun (f, n, _) => f == x.file && decide (x.first ≤ n) && decide (n < x.first + x.count)
/-- Mark the registers of ranges as pending on an access or command (R209, R319). -/
def Group.setPending (g : Group) (xs : List RegSpan) (owner : Nat) : Group :=
  { g with pend := (xs.map fun x => (List.range x.count).map fun j => (x.file, x.first + j, owner)).flatten ++ g.pend }
/-- Clear what is pending on an access or command. -/
def Group.clearPending (g : Group) (owner : Nat) : Group := { g with pend := g.pend.filter fun x => x.2.2 ≠ owner }

/-- The bits of a word as a trap record's EXTRA carries them (R174). -/
def wordBits (i : Instr) : W64 :=
  match encode i with
  | .core w _ => w
  | .queue w => w.zeroExtend 64
  | .none => 0
/-- Whether a pair word breaks the pairing rules (R123). -/
def pairIllegal : Instr → Bool
  | .pairWord h0 h1 => !pairOk h0 h1
  | _ => false
/-- Whether a MOVI lacks its extension word (R112). -/
def extMissing : Instr → Bool
  | .movi w => w.ext.isNone
  | _ => false
/-- The encoding cause a word has when it issues, in the order of R129; budgets are part of ILL_OPERAND (R51). -/
def encodingCause (i : Instr) (w : Wg) : Option Cause :=
  if pairIllegal i then some .illPair
  else if !i.modOk then some .illMod
  else if !i.operandsOk || !(wordSpans i).all w.inBudget then some .illOperand
  else if extMissing i then some .extMissing
  else none

/-! ### Redundant pairs (R329, R336–R340) -/

/-- Take the next load-value place of a group with register values: the lead fills it, the sweep and a lead that
retries read it (R336, R337, R345). -/
def Ctx.shared (c : Ctx) (s : State) (vals : List W64) (body : State → List W64 → Res) : Res :=
  match s.pairOf c.g.wg with
  | none => body s vals
  | some (k, p, lead) =>
    let r := p.role lead
    let n := r.taken.getD c.g.gi 0
    let key := placeKey c.g.gi n
    let p' := p.setRole lead { r with taken := r.taken.set c.g.gi (n + 1) }
    match p.places.get? key with
    | some x => if x.filled then body (s.setPair k p') x.regs else .hold
    | none =>
      if lead then
        let x : LvPlace := { filled := true, mask := c.lanes, els := [], bytes := [], poison := [], dead := none, regs := vals }
        body (s.setPair k { p' with places := p'.places.set key x }) vals
      else .hold
/-- Whether a word of the lead, issued from `p0`, has overflowed the lead's journal or the load-value log (R344). The sweep comes
behind with the same words; a word that alone needs more than the journal's 512 lines proceeds from an empty one. -/
def Pair.overflows (p p0 : Pair) : Bool :=
  (decide (512 < p.lead.journal.length) && decide (p0.lead.journal.length < p.lead.journal.length) && p0.lead.journal != [])
    || (decide (1024 < p.places.length) && decide (p0.places.length < p.places.length))

/-! ### Fault injection (R449) -/

/-- Force a stuck bit in the registers a slot reads. -/
def Inject.force (j : Inject) (r : Regs) : Regs :=
  let k := 32 * j.vreg + j.lane
  let x := r.v.getD k 0
  { r with v := Tab.put 0 r.v k (if j.mode = 1 then x &&& ~~~(1#32 <<< j.bit) else x ||| (1#32 <<< j.bit)) }
/-- The registers of a slot as its words read them. -/
def State.readRegs (s : State) (core slot : Nat) (r : Regs) : Regs :=
  match (s.core core).inject with
  | some j => if j.slot = slot ∧ 1 ≤ j.mode then j.force r else r
  | none => r
/-- A word at an offset wrote a vector register of a slot in a lane mask: the NTH such write has its bit flipped. -/
def State.injectWrite (s : State) (core slot : Nat) (ofs : BitVec 24) (written : List (RegSpan × Mask)) : State :=
  match (s.core core).inject with
  | none => s
  | some j =>
    let hit := written.any fun (x, m) => x.file == .v && decide (x.first ≤ j.vreg) && decide (j.vreg < x.first + x.count)
      && m.getLsbD j.lane
    if j.mode = 0 ∧ j.slot = slot ∧ j.ofs = some ofs.toNat ∧ hit then
      if j.nth ≤ 1 then
        let s := s.setCore core { s.core core with inject := some { j with ofs := none }, firings := (s.core core).firings + 1 }
        s.updRegs (gid core slot) fun r => r.setVec j.vreg j.lane (r.vec j.vreg j.lane ^^^ (1#32 <<< j.bit))
      else s.setCore core { s.core core with inject := some { j with nth := j.nth - 1 } }
    else s
/-- Words whose destinations are written later than their issue (R209). -/
def isDelayed : Instr → Bool
  | .ld _ | .ldu _ | .updr _ | .ucas _ | .tex _ | .tld _ | .tgath _ | .tdim _ | .hgf _ | .rbox _ | .rtri _ => true
  | _ => false
/-- Words whose d field is a source. -/
def dIsSource : Instr → Bool
  | .st _ | .stu _ | .upd _ | .vismax _ | .ist _ | .hgs _ | .pref _ | .discard _ => true
  | _ => false
/-- The register ranges a word writes, with their lanes. -/
def Ctx.written (c : Ctx) (i : Instr) : List (RegSpan × Mask) :=
  match i with
  | .pairWord h0 h1 =>
    let half (h : Half) : List (RegSpan × Mask) := if h.op = .hnop then [] else [(⟨.v, h.d.toNat, 1⟩, c.halfPart h)]
    half h0 ++ half h1
  | _ =>
    if dIsSource i then [] else
    let m := match i.guard? with
      | some g => c.part g
      | none => c.lanes
    let second : List Slot := match i with
      | .qnb8 w => [.vec w.b]
      | .qmx w => [.dst false w.b]
      | _ => []
    ((i.slots.take 1 ++ second).map Slot.spans).flatten.map fun x => (x, m)
/-- Count a forced read of an injected register. -/
def State.injectRead (s : State) (core slot : Nat) (i : Instr) : State :=
  match (s.core core).inject with
  | none => s
  | some j =>
    let read := (if dIsSource i then i.slots else i.slots.drop 1).any fun x =>
      x.spans.any fun y => y.file == .v && decide (y.first ≤ j.vreg) && decide (j.vreg < y.first + y.count)
    if 1 ≤ j.mode ∧ j.slot = slot ∧ read then
      s.setCore core { s.core core with firings := (s.core core).firings + 1 }
    else s

/-! ### Issue -/

/-- A precise cause at a word of the context's plane, as it is raised (R66, R161, R174). -/
def Ctx.trapReq (c : Ctx) (congruent after : Bool) (cause : BitVec 8) (lanes : Mask) (addr extra : W64) : TrapReq :=
  let pm := c.g.pmask
  let planes := if congruent then pm else planesFrom (c.g.todo.getD pm) c.plane
  { cause, lanes, exec := c.g.exec, addr, extra, ofs := c.g.ofs, pmask := pm, planes,
    resume := if after then c.g.ofs + 1 else c.g.ofs, resumePlanes := if after then 0xFF else planes }
/-- Count a word of a redundant group (R338). -/
def Ctx.counted (c : Ctx) (s : State) : State := s.counted c.g
/-- Raise a precise cause at the word (R66, R161, R181, R347). -/
def Ctx.raise (c : Ctx) (s : State) (congruent after : Bool) (cause : BitVec 8) (lanes : Mask) (addr extra : W64) : State :=
  s.raiseTrap c.k c.plane (c.trapReq congruent after cause lanes addr extra)

/-- Whether a word is PNOP. -/
def isPnop : Instr → Bool
  | .pnop => true
  | _ => false
/-- What an issue leaves behind on its core and group: the wait stamp and the counters (R317, R327, R483). -/
def Ctx.noted (c : Ctx) (s : State) : State :=
  let x := s.core c.core
  -- FIRSTSLOT is the lowest slot that issues in the first cycle after the wake in which one does
  let first := x.waking || (x.firstAt == some x.cycle && decide (c.slot < (x.wakeReason.extractLsb' 16 6).toNat))
  let reason : W64 := if first then (x.wakeReason &&& 0xFFFFFFFFFFC0FFFF) ||| (BitVec.ofNat 64 c.slot <<< 16) else x.wakeReason
  (s.updGroup c.k fun g => { g with stamp := s.stepNo }).setCore c.core
    { x with issued := x.issued + 1, idle := 0, waking := false, wakeReason := reason,
             firstAt := if x.waking then some x.cycle else x.firstAt }
/-- What every issue leaves behind: the group holds no trap, and but for PNOP, which takes no issue (R59), the issue is
noted; then a fault injected into what was written (R449). -/
def Ctx.stamped (c : Ctx) (s : State) (i : Instr) : State :=
  let s := s.updGroup c.k fun g => { g with heldTrap := false }
  let s := if isPnop i then s else c.noted s
  let s := if isDelayed i then s else s.injectWrite c.core c.slot c.g.ofs (c.written i)
  s.injectRead c.core c.slot i
/-- What the issue of a finished word leaves behind. -/
def Ctx.issued (c : Ctx) (s : State) (i : Instr) : State := c.counted (c.stamped s i)

/-- A word that would overflow the journal or the log of a pair waits while a checkpoint is taken (R344); one in the middle of
its offset, where no checkpoint can be taken, asks for it and proceeds (log entry 22). -/
def Ctx.fits (c : Ctx) (s0 s : State) : State :=
  match s.pairOf c.g.wg, s0.pairOf c.g.wg with
  | some (k, p, true), some (_, p0, _) => if p.overflows p0 then (if c.g.atBoundary then s0 else s).askCkpt k else s
  | _, _ => s
/-- The group goes straight on behind a word. -/
def Ctx.goOn (c : Ctx) (s : State) (congruent : Bool) : State :=
  if congruent then
    match s.groups.get? c.k with
    | some g => (s.setGroup c.k { g with todo := some 0 }).advance c.k
    | none => s
  else s.planeDone c.k c.plane
/-- Finish the issue of a word: `s0` is the state before it. -/
def Ctx.finish (c : Ctx) (s0 : State) (i : Instr) (congruent : Bool) : Res → State
  | .next s => c.fits s0 (c.goOn (c.issued s i) congruent)
  | .held s => c.stamped s i
  | .resumed s => c.fits s0 (c.goOn (c.counted s) congruent)
  | .moved s => c.fits s0 (c.issued s i)
  | .wait s => s
  | .trap cause lanes addr extra => c.raise s0 congruent false cause lanes addr extra
  | .trapNext cause lanes addr extra => c.raise s0 congruent true cause lanes addr extra
  | .hold => s0

/-- The context of a plane of a resident group. -/
def State.ctxOf (s : State) (core slot plane : Nat) (congruent : Bool) : Option Ctx :=
  let k := gid core slot
  match s.groups.get? k with
  | some g =>
    if g.ended then none else
    (s.wgs.get? g.wg).map fun w =>
      { core, slot, k, g, w, plane, regs := s.readRegs core slot g.regs, clk := [],
        lanes := if congruent then g.exec else g.active plane }
  | none => none
/-- The context of the focused group, whose offset has begun. -/
def State.ctx? (s : State) (congruent : Bool) : Option Ctx :=
  match s.focus with
  | .group core slot plane => s.ctxOf core slot plane congruent
  | _ => none
/-- Operands whose reads enter the load-value queue (R336). -/
def opndIsClock : Opnd → Bool
  | .sr .cycle | .sr .time | .sr .group => true
  | _ => false

/-! ### Code words and follow-ons (R41, R67, R228) -/

/-- Address of a plane's word at an offset (R41). -/
def Wg.codeVa (w : Wg) (plane ofs : Nat) : W64 := w.codeBase + BitVec.ofNat 64 ((plane * w.desc.len + ofs) * 8)
/-- A plane's word at an offset, or why it does not translate (R67). -/
def State.codeWord (s : State) (w : Wg) (plane ofs : Nat) : Except TransFail W64 :=
  let va := w.codeVa plane ofs
  match s.translate w.core w.pasid w.pitch 3 va with
  | .error e => .error e
  | .ok t => .ok (BitVec.ofNat 64 (leNat ((List.range 8).map fun k => s.memByte (Pte.key t.leaf) (t.phys va + k))))
/-- Whether a word takes the word behind it as a follow-on: a copy with .fo (R223, R228). -/
def takesFollowOn : Instr → Bool
  | .cpy w | .cpyg w | .cpys w | .cpyt w => w.m.getLsbD 3
  | _ => false
/-- Whether no follow-on stands behind the group's offset in a plane: there is no word, or one that is no full word of
BLD, MMA, MMAP or MMT (R228). -/
def Ctx.noFollowOn (c : Ctx) (s : State) (plane : Nat) : Bool :=
  decide (c.w.desc.len ≤ c.g.ofs.toNat + 1) || (match s.codeWord c.w plane (c.g.ofs.toNat + 1) with
    | .ok x => not ([0x300, 0x301, 0x302, 0x307].contains (x.extractLsb' 52 12).toNat)
    | .error _ => false)
/-- The cause that a word's encoding raises, that of a follow-on which is not there with it (R129, R228). -/
def Ctx.wordCause (c : Ctx) (s : State) (i : Instr) : Option Cause :=
  if takesFollowOn i && c.noFollowOn s c.plane then some .illMod else encodingCause i c.w

/-! ### Issuing -/

/-- Issue a word of the focused group: encoding causes first, then the scoreboard, then its effect. -/
def issue (i : Instr) (s : State) (body : State → Ctx → Res) : Host.Outcome State Fault Refusal :=
  let cong := i.congruent
  match s.ctx? cong with
  | none => .fault .noIssuer
  | some c =>
    if s.aheadOfLead c.g then .next s else
    match c.wordCause s i with
    | some cause => .next (c.raise s cong false cause.code (if cong then c.g.exec else c.lanes) 0 (wordBits i))
    | none =>
      if (wordSpans i).any c.g.isPending then .next s
      else if i.slots.any fun x => opndIsClock x.o then
        .next (c.finish s i cong (c.shared s
          [BitVec.ofNat 64 (s.core c.core).cycle, BitVec.ofNat 64 s.time, groupReg c.w c.g]
          fun s clk => body s { c with clk }))
      else .next (c.finish s i cong (body s c))

end Sys2Proof.Machine
end

