-- ==== Sys2Proof/Machine/MemOps.lean ====
section
/-! DEFINITION. Group 4: how a memory word issues, resolves and is performed, and its words: loads, stores, updates,
fences and cache control (09 R207–R222, 14 R322–R324, 16 R336–R341, 19 R389–R392, 20 R396–R405). -/

namespace Sys2Proof.Machine
open Sys2Proof

/-! ### Elements and addresses (R121, R213) -/

/-- Bytes of an element by TYPE (R121). -/
def typeBytes (ty : Nat) : Nat :=
  match ty with
  | 0 | 1 => 1
  | 2 | 3 => 2
  | 4 => 4
  | _ => 8
/-- A loaded element as its register holds it (R186). -/
def typeLoad (ty v : Nat) : W64 :=
  match ty with
  | 1 => (BitVec.ofNat 8 v).signExtend 64
  | 3 => (BitVec.ofNat 16 v).signExtend 64
  | _ => BitVec.ofNat 64 v
/-- Bytes of an element by UTYPE (R213). -/
def utypeBytes (u : Nat) : Nat := if u = 2 ∨ u = 3 ∨ u = 6 then 8 else 4
/-- The displacement of a MEM word; the update words keep fewer bits (R121, R213). -/
def memDisp (w : MEM) (upd : Bool) : Int :=
  match w.x, upd with
  | false, false => w.ofs.toInt
  | true, false => (w.ofs.extractLsb' 0 12).toInt
  | false, true => (w.ofs.extractLsb' 3 15).toInt
  | true, true => (w.ofs.extractLsb' 3 9).toInt
/-- The address of a lane (R121). -/
def memAddr (r : Regs) (w : MEM) (upd : Bool) (lane : Nat) : W64 :=
  let base : W64 :=
    if w.x then r.uni w.idxReg.toNat + (r.vec w.base.num lane).zeroExtend 64
    else match w.base with
      | .s n => r.uni n.toNat
      | b => r.vec64 b.num lane
  base + BitVec.ofInt 64 (memDisp w upd)
/-- The elements of a lane-wise word; a word performed once has one, in the lowest participating lane (R207). -/
def memEls (r : Regs) (w : MEM) (upd once : Bool) (part : Mask) (n : Nat) : List (Nat × W64 × Nat) :=
  let lanes := if once then (lanesOf part).take 1 else lanesOf part
  lanes.map fun l => (l, memAddr r w upd l, n)

/-! ### Checks and interlocks at issue (R208, R315, R322, R323, R400) -/

/-- Whether an element is local (R336, R375). -/
def allLocal (els : List (Nat × W64 × Nat)) : Bool := els.all fun x => isLocal x.2.1
/-- The precise cause of a word's addresses: the lowest code, the lanes that meet it, the lowest address among
them, EXTRA (R175, R180, R208). `all` replaces the lanes of a word performed once. -/
def State.memCause (s : State) (w : Wg) (kind : Nat) (align : Bool) (all : Option Mask) (els : List (Nat × W64 × Nat)) :
    Option (Cause × Mask × W64 × W64) :=
  let bad : List (Nat × W64 × Cause × Nat) := els.filterMap fun (l, va, n) =>
    if align && decide (va.toNat % n ≠ 0) then some (l, va, Cause.alignAtomic, n)
    else (s.addrCheck w va n).map fun c =>
      (l, va, c, if c = .scratchRange ∨ c = .nbhWindow then w.rangeExtra c else 0)
  match bad with
  | [] => none
  | b :: bs =>
    let low := bs.foldl (fun m x => if x.2.2.1.code.toNat < m.code.toNat then x.2.2.1 else m) b.2.2.1
    let hit := bad.filter fun x => x.2.2.1 = low
    let lanes : Mask := hit.foldl (fun m x => m ||| (1#32 <<< x.1)) 0
    let least := hit.foldl (fun m x => if x.2.1.toNat < m.2.1.toNat then x else m) (hit.headD b)
    some (low, all.getD lanes, least.2.1, BitVec.ofNat 64 (kind + 256 * least.2.2.2))

/-- Whether an access stands in the operand log. -/
def Access.inLog (a : Access) : Bool :=
  match a.phase with
  | .inflight | .stalled => false
  | _ => true
/-- The accesses of a group that have not been performed, by number. -/
def State.accsOf (s : State) (w gi : Nat) : List (Nat × Access) := s.accs.filter fun x => x.2.wg == w && x.2.gi == gi
/-- Whether two ranges of bytes meet. -/
def meets (a : W64) (n : Nat) (b : W64) (m : Nat) : Bool :=
  decide (a.toNat < b.toNat + m) && decide (b.toNat < a.toNat + n)
/-- Whether two elements touch a common 128-byte line (R323). -/
def sameLine (a : W64) (n : Nat) (b : W64) (m : Nat) : Bool :=
  decide (a.toNat / 128 ≤ (b.toNat + m - 1) / 128) && decide (b.toNat / 128 ≤ (a.toNat + n - 1) / 128)
/-- Entries of a core's operand log (R322). -/
def State.logCount (s : State) (core : Nat) : Nat :=
  (s.accs.filter fun x => x.2.inLog && (match s.wgs.get? x.2.wg with
    | some w => w.core == core && w.phase != .saved
    | none => false)).length
/-- Entries of the log a group holds. -/
def State.groupLog (s : State) (w gi : Nat) : Nat := ((s.accsOf w gi).filter fun x => x.2.inLog).length
/-- Whether an access of a group of the same pipe holds the pipe's memory port: its fault has found the core's log full
(R322). -/
def State.portHeld (s : State) (w gi : Nat) : Bool :=
  match s.wgs.get? w with
  | some x => s.accs.any fun y => y.2.phase == .stalled && (match s.wgs.get? y.2.wg with
      | some z => z.core == x.core && z.phase == .resident && (z.slot + y.2.gi) % 4 == (x.slot + gi) % 4
      | none => false)
  | none => false
/-- A group at its log limit, or behind an acquire, issues no memory, update or copy word, nor does one whose pipe's memory
port is held (R322, R400). -/
def State.memBlocked (s : State) (w gi : Nat) : Bool :=
  decide (16 ≤ s.groupLog w gi) || s.portHeld w gi || (s.accsOf w gi).any (fun x => x.2.acquire) || (match s.pairOf w with
    | some (_, p, lead) => (p.role lead).entries.any fun e => e.stream == gi && (match e.act with
      | .access a _ => a.acquire
      | _ => false)
    | none => false)
/-- Elements that must wait for earlier accesses of the group: those of the log by line, those in flight by byte,
since an agent's accesses to one byte keep program order (R323, R397). -/
def State.overlaps (s : State) (w gi : Nat) (els : List (Nat × W64 × Nat)) : Bool :=
  (s.accsOf w gi).any fun x => x.2.els.any fun (_, b, m) => els.any fun (_, a, n) =>
    if x.2.inLog then sameLine a n b m else meets a n b m
/-- Elements that one of a redundant group's unperformed entries writes (R338). -/
def State.entryOverlaps (s : State) (w gi : Nat) (els : List (Nat × W64 × Nat)) : Bool :=
  match s.pairOf w with
  | some (_, p, true) => p.lead.entries.any fun e => e.gi == gi && e.els.any fun (_, b, m) => els.any fun (_, a, n) => meets a n b m
  | _ => false

/-- Whether a redundant group's entries are still unmatched: its releases wait for them (R409). -/
def State.redBusy (s : State) (w gi : Nat) : Bool :=
  match s.pairOf w with
  | some (_, p, true) => p.lead.entries.any fun e => e.stream == gi || e.stream == 32
  | _ => false
/-- The course of issuing a memory word: limits, precise checks, overlaps, then `go`. A release waits for every
earlier access of the group (R400). -/
def Ctx.memIssue (c : Ctx) (s : State) (kind : Nat) (align release : Bool) (all : Option Mask) (els : List (Nat × W64 × Nat))
    (go : Res) : Res :=
  if els = [] then .next s
  else if s.memBlocked c.g.wg c.g.gi then .hold
  else match s.memCause c.w kind align all els with
    | some (cause, lanes, addr, extra) => .cause cause lanes addr extra
    | none =>
      if s.overlaps c.g.wg c.g.gi els then .hold
      else if release && (s.accsOf c.g.wg c.g.gi != [] || s.redBusy c.g.wg c.g.gi) then .hold
      else go

/-! ### Making an access (R209) -/

/-- An access of the word being issued, in flight. -/
def Ctx.access (c : Ctx) (i : Instr) (mask : Mask) (els : List (Nat × W64 × Nat)) (acquire : Bool) : Access :=
  { wg := c.g.wg, gi := c.g.gi, word := i, ofs := c.g.ofs, plane := c.plane, mask, exec := c.g.exec, pmask := c.g.pmask, regs := c.regs,
    phase := .inflight, els, mirror := none, place := none, units := [], formed := false, got := [], poison := none, acquire }
/-- Put an access in flight, its destinations pending on it. -/
def State.launchAcc (s : State) (k : Nat) (a : Access) (dests : List RegSpan) : State :=
  { s with accs := s.accs.set s.nextId a, nextId := s.nextId + 1,
           groups := s.groups.modify k fun g => g.setPending dests s.nextId }

/-! ### Writing destinations -/

/-- Values for registers: file, number, lane, value. -/
abbrev RegWrites := List (RegFile × Nat × Nat × W64)
/-- Write register values. -/
def Regs.writeAll (r : Regs) (ws : RegWrites) : Regs :=
  ws.foldl (fun r (f, n, l, v) => match f with
    | .v => r.setVec n l (v.truncate 32)
    | .s => r.setUni n v
    | .p => r.setPredLane n l (v != 0)) r
/-- A value for a destination operand in a lane, 64-bit ones as a pair. -/
def dstWrites (o : Opnd) (wide : Bool) (lane : Nat) (v : W64) : RegWrites :=
  match o with
  | .v n => if wide then [(.v, n.toNat, lane, v.extractLsb' 0 32 |>.zeroExtend 64), (.v, n.toNat + 1, lane, (v.extractLsb' 32 32).zeroExtend 64)]
      else [(.v, n.toNat, lane, v)]
  | .s n => [(.s, n.toNat, 0, v)]
  | .p n => [(.p, n.val, lane, v)]
  | _ => []
/-- The register ranges written, for fault injection. -/
def writtenOf (ws : RegWrites) : List (RegSpan × Mask) := ws.map fun x => (⟨x.1, x.2.1, 1⟩, 1#32 <<< x.2.2.1)
/-- Write a saved group's tokens into its context block and clear their TOKMASK bits (R367). -/
def State.writeSaved (s : State) (w : Wg) (gi : Nat) (ws : RegWrites) : State :=
  let key := s.pitchKey w.pitch
  let put (s : State) (a n v : Nat) : State := ((leBytes n v).zipIdx).foldl (fun s (b, k) => s.setMemByte key (a + k) b) s
  ws.foldl (fun s (f, n, _, v) =>
    match f with
    | .s =>
      let s := put s (w.ctxAt gi + 0x140 + 8 * n) 8 v.toNat
      let at_ := w.ctxAt gi + 0x28 + n / 8
      put s at_ 1 (s.memByte key at_ &&& ~~~(1#8 <<< (n % 8))).toNat
    | _ => s) s
/-- Write a group's destinations when an access or command completes, and clear what is pending on it. -/
def State.writeDests (s : State) (w gi : Nat) (ofs : BitVec 24) (owner : Nat) (ws : RegWrites) : State :=
  match s.wgs.get? w with
  | none => s
  | some x =>
    if x.phase = .saved then s.writeSaved x gi ws else
    match s.groupOf w gi with
    | none => s
    | some (k, g) =>
      let s := s.setGroup k (({ g with regs := g.regs.writeAll ws }).clearPending owner)
      s.injectWrite x.core (x.slot + gi) ofs (writtenOf ws)
/-- Set CHKINT of a group whose word `n` consumed poison (R54, R390). -/
def State.consume (s : State) (w gi n : Nat) (va : Option W64) : State :=
  match va, s.groupOf w gi with
  | some a, some (k, g) => s.setGroup k { g with chk := g.chk.consume n a }
  | _, _ => s
/-- Remove an access; one that acquired does so at its scope (R396, R400). -/
def State.dropAcc (s : State) (id : Nat) : State := { s with accs := s.accs.del id }

/-! ### Performing reads (R210, R389, R390) -/

/-- How an attempt to perform an access ends. -/
inductive Attempt where
  | done (s : State)
  | fault (va : W64) (cause : BitVec 8)
  | wait (va : W64)
  | dead (cause : BitVec 8) (lanes : Mask) (addr extra : W64)
  deriving DecidableEq, Repr

/-- What a load computes from memory: rounds of elements, each knowing what earlier rounds read, then the register
values or a deferred cause (code, lanes, address, EXTRA). -/
structure LoadProg where
  rounds : List ((W64 → Nat → Nat) → List (Nat × W64 × Nat))
  result : (W64 → Nat → Nat) → Except (BitVec 8 × Mask × W64 × W64) RegWrites
  /-- Every destination written with zero (R171). -/
  zeros : RegWrites
  scope : Nat

/-- The value of `n` bytes at a virtual address as a workgroup's word reads it. -/
def State.readVa (s : State) (w : Wg) (gi kind scope : Nat) (va : W64) (n : Nat) : Nat :=
  match s.resolveOne w gi kind 0 va n with
  | .ok (ps, _) => s.readPlaces w.core scope ps
  | .error _ => 0
/-- Resolve the rounds of a load: all elements with their places, or why not. -/
def State.resolveRounds (s : State) (w : Wg) (gi : Nat) (rd : W64 → Nat → Nat) :
    List ((W64 → Nat → Nat) → List (Nat × W64 × Nat)) → Except Attempt (List (Nat × W64 × Nat) × List (List Place) × List (Nat × W64 × TlbEntry))
  | [] => .ok ([], [], [])
  | r :: rs =>
    let els := r rd
    match s.memCause w 0 false none els with
    | some (c, lanes, addr, extra) => .error (.dead c.code lanes addr extra)
    | none =>
      match s.resolve w gi 0 els with
      | .fault va c => .error (.fault va c)
      | .wait va => .error (.wait va)
      | .dead c lanes addr extra => .error (.dead c lanes addr (BitVec.ofNat 64 (256 * extra)))
      | .ok places used =>
        match State.resolveRounds s w gi rd rs with
        | .error e => .error e
        | .ok (e2, p2, u2) => .ok (els ++ e2, places.map (·.2) ++ p2, used ++ u2)
/-- The elements of the rounds of a load, as far as what the rounds read translates now (R323). -/
def State.roundEls (s : State) (w : Wg) (gi : Nat) (rd : W64 → Nat → Nat) :
    List ((W64 → Nat → Nat) → List (Nat × W64 × Nat)) → List (Nat × W64 × Nat)
  | [] => []
  | r :: rs =>
    let els := r rd
    els ++ (match s.resolve w gi 0 els with
      | .ok .. => State.roundEls s w gi rd rs
      | _ => [])
/-- The lanes that read a poisoned sector, ascending, each with the first of its addresses that does (R337, R390). -/
def State.poisonAt (s : State) (els : List (Nat × W64 × Nat)) (places : List (List Place)) : List (Nat × W64) :=
  if s.poison = [] then [] else
  let hit := (els.zip places).filter fun x => s.anyPoison x.2
  (List.range 32).filterMap fun l => (hit.find? fun x => x.1.1 == l).map fun x => (l, x.1.2.1)
/-- FIRSTVA of a word that consumed poison: the address of the lowest such lane (R390). -/
def firstPoison (xs : List (Nat × W64)) : Option W64 := xs.head?.map (·.2)
/-- A list without repeats. -/
def dedup {α : Type} [BEq α] : List α → List α
  | [] => []
  | x :: xs => x :: (dedup xs).filter fun y => !(y == x)
/-- What a read leaves behind: lines brought into the L1, uncorrectable reads counted. -/
def State.afterRead (s : State) (core scope : Nat) (places : List (List Place)) : State :=
  let s := places.flatten.foldl (fun s p => s.touchPlace core scope p) s
  if s.poison = [] then s else
  let read : List (Nat × Nat) := places.flatten.filterMap fun p => match p with
    | .mem k _ a => some (k, a / 64)
    | _ => none
  (dedup read).foldl (fun s x => s.countUe x.1 (x.2 * 64)) s
/-- Look a byte-wise value up in what a lead read (R337). -/
def placeRd (bs : List (W64 × Byte)) (va : W64) : Nat → Nat
  | 0 => 0
  | n + 1 =>
    let b : Nat := match bs.find? fun (x : W64 × Byte) => x.1 == va with
      | some x => x.2.toNat
      | none => 0
    b + 256 * placeRd bs (va + 1) n
/-- The bytes of elements read, for the load-value queue. -/
def readBytes (rd : W64 → Nat → Nat) (els : List (Nat × W64 × Nat)) : List (W64 × Byte) :=
  (els.map fun (_, va, n) => (List.range n).map fun j =>
    (va + BitVec.ofNat 64 j, BitVec.ofNat 8 (rd (va + BitVec.ofNat 64 j) 1))).flatten
/-- Fill a group's place in the load-value queue (R337). -/
def State.fillPlace (s : State) (wg : Nat) (place : Option Nat) (x : LvPlace) : State :=
  match place, s.pairOf wg with
  | some k, some (n, p, _) => s.setPair n { p with places := p.places.set k x }
  | _, _ => s

/-- Try to perform a load that stands as access `id`: all its lanes or none (R172, R389). -/
def State.performLoad (s : State) (id : Nat) (a : Access) (w : Wg) (p : LoadProg) : Attempt :=
  let rd := s.readVa w a.gi 0 p.scope
  match s.resolveRounds w a.gi rd p.rounds with
  | .error e => e
  | .ok (els, places, used) =>
    match p.result rd with
    | .error (c, lanes, addr, extra) => .dead c lanes addr extra
    | .ok ws =>
      let poison := s.poisonAt els places
      let x : LvPlace := { filled := true, mask := a.mask, els := els, bytes := readBytes rd els, poison, dead := none, regs := [] }
      let s := s.fillPlace a.wg a.place x
      let s := ((s.touchAll w a.gi used).afterRead w.core p.scope places).writeDests a.wg a.gi a.ofs id ws
      let s := (s.consume a.wg a.gi id (firstPoison poison)).dropAcc id
      .done (if a.acquire then s.acquire w.core p.scope else s)

/-- A redundant pair rolls back on a mismatch; the cause, word and plane are noted and CHECKPOINT's recorded state
is restored in Machine/Redundant.lean (R345). -/
def State.noteMismatch (s : State) (k : Nat) (cause : BitVec 8) (ofs : BitVec 24) (plane : Nat) : State :=
  { s with pairs := s.pairs.modify k fun p => { p with mustRoll := some (cause, ofs, plane) } }

/-- The elements of a load's rounds that its queue place answers for: all of them, or where it ended in a deferred cause those
that are known without reading (R337). -/
def LoadProg.own (p : LoadProg) (x : LvPlace) : List (Nat × W64 × Nat) :=
  if x.dead.isSome then ((p.rounds.take 1).map fun r => r fun _ _ => 0).flatten
  else (p.rounds.map fun r => r (placeRd x.bytes)).flatten
/-- Issue a load with the elements known at issue: in flight in a group of its own; in a pair the lead's read takes a queue
place and the sweep computes on the lead's bytes (R336–R338). -/
def Ctx.load (c : Ctx) (s : State) (i : Instr) (mask : Mask) (els : List (Nat × W64 × Nat)) (acquire : Bool) (dests : List RegSpan)
    (p : LoadProg) : Res :=
  let a := c.access i mask els acquire
  match s.pairOf c.g.wg with
  | none => .next (s.launchAcc c.k a dests)
  | some (k, pr, lead) =>
    if allLocal els ∧ els ≠ [] then .next (s.launchAcc c.k a dests)
    else if s.entryOverlaps c.g.wg c.g.gi els then .hold
    else
      let r := pr.role lead
      let n := r.taken.getD c.g.gi 0
      let key := placeKey c.g.gi n
      let pr' := pr.setRole lead { r with taken := r.taken.set c.g.gi (n + 1) }
      match pr.places.get? key with
      | some x =>
        if !x.filled then .hold
        else if x.mask ≠ mask ∨ x.els.take (p.own x).length ≠ p.own x then
          .wait (s.noteMismatch k 0x81 c.g.ofs c.plane)
        else
          let s := s.setPair k pr'
          match x.dead with
          | some (cause, lanes, addr, extra) =>
            .next (s.launchAcc c.k { a with phase := .failed cause lanes addr extra } dests)
          | none =>
            match p.result (placeRd x.bytes) with
            | .ok ws => .next (((s.updRegs c.k fun r => r.writeAll ws).injectWrite c.core c.slot c.g.ofs (writtenOf ws)).consume c.g.wg c.g.gi s.nextId (firstPoison x.poison))
            | .error (cause, lanes, addr, extra) =>
              .next (s.launchAcc c.k { a with phase := .failed cause lanes addr extra } dests)
      | none =>
        if !lead then .hold
        else
          let x : LvPlace := { filled := false, mask, els, bytes := [], poison := [], dead := none, regs := [] }
          .next ((s.setPair k { pr' with places := pr'.places.set key x }).launchAcc c.k { a with place := some key } dests)

/-- The places of elements that a word reads before it completes, with the translations used, or how the read ends: a cause
names the lowest code over the lanes and the lowest address that meets it (R149, R180); `lanes` are the record's. -/
def Ctx.readNow (c : Ctx) (s : State) (kind : Nat) (lanes : Mask) (els : List (Nat × W64 × Nat)) :
    Except Res (List (List Place) × List (Nat × W64 × TlbEntry)) :=
  match s.memCause c.w kind false (some lanes) els with
  | some (cause, lanes, addr, extra) => .error (.cause cause lanes addr extra)
  | none =>
    -- it waits for the group's earlier accesses as a load does, and for the bytes of unmatched entries (R323, R338, R397)
    if s.overlaps c.g.wg c.g.gi els || s.entryOverlaps c.g.wg c.g.gi els then .error .hold else
    match s.resolve c.w c.g.gi kind els with
    | .fault va cause =>
      .error (.wait ((s.logFault ⟨c.w.pasid, va, kind, cause, .group c.core c.slot⟩).setGroup c.k { c.g with wait := .table }))
    | .wait va => .error (.wait ((s.askAts c.w.pasid kind va (.group c.core c.slot)).setGroup c.k { c.g with wait := .table }))
    | .dead cause _ addr extra => .error (.trap cause lanes addr (BitVec.ofNat 64 (kind + 256 * extra)))
    | .ok places used => .ok (places.map (·.2), used)
/-- The word's group with the poison it has consumed (R390). -/
def Ctx.poisoned (c : Ctx) (n : Nat) (poison : List (Nat × W64)) : Ctx :=
  match firstPoison poison with
  | some a => { c with g := { c.g with chk := c.g.chk.consume n a } }
  | none => c
/-- How a word that has taken a place in the load-value queue ends: a cause that it raises keeps the place, which is in
`s'`, and waits beforehand for what may still end in a deferred cause (R181, R336). -/
def Ctx.keepPlace (c : Ctx) (s s' : State) (r : Res) : Res :=
  match r with
  | .trap cause lanes addr extra =>
    if s.mayDefer c.g.wg c.g.gi then .hold else .wait (c.raise s' true false cause lanes addr extra)
  | r => r
/-- Read the descriptor of an IST or HGS of a pair through the load-value queue: both roles then know every address and datum of
their entry (R336, R340, log entry 100). -/
def Ctx.descriptor (c : Ctx) (s : State) (lanes : Mask) (els : List (Nat × W64 × Nat)) : Except Res (State × LvPlace) :=
  match s.pairOf c.g.wg with
  | none => .error .hold
  | some (k, p, lead) =>
    let r := p.role lead
    let n := r.taken.getD c.g.gi 0
    let key := placeKey c.g.gi n
    let p' := p.setRole lead { r with taken := r.taken.set c.g.gi (n + 1) }
    match p.places.get? key with
    | some x =>
      if !x.filled then .error .hold
      else if x.mask ≠ lanes ∨ x.els ≠ els then .error (.wait (s.noteMismatch k 0x81 c.g.ofs c.plane))
      else .ok (s.setPair k p', x)
    | none =>
      if !lead then .error .hold else
      match c.readNow s 0 lanes els with
      | .error r => .error r
      | .ok (places, used) =>
        let x : LvPlace := { filled := true, mask := lanes, els, bytes := readBytes (s.readVa c.w c.g.gi 0 0) els,
                             poison := s.poisonAt els places, dead := none, regs := [] }
        let s := (s.touchAll c.w c.g.gi used).afterRead c.core 0 places
        .ok (s.setPair k { p' with places := p'.places.set key x }, x)

/-- The program of LD and LDU. -/
def ldProg (w : MEM) (once : Bool) (els : List (Nat × W64 × Nat)) : LoadProg :=
  { rounds := [fun _ => els], scope := w.scope,
    result := fun rd => .ok (els.map fun (l, va, n) => dstWrites w.d (!once && w.ty == 5) l (typeLoad w.ty (rd va n))).flatten,
    zeros := (els.map fun (l, _, _) => dstWrites w.d (!once && w.ty == 5) l 0).flatten }
/-- LD (R210). -/
def execLd (w : MEM) (s : State) : Host.Outcome State Fault Refusal :=
  issue (.ld w) s fun s c =>
    let part := c.part w.g
    let els := memEls c.regs w false false part (typeBytes w.ty)
    c.memIssue s 0 false false none els
      (c.load s (.ld w) part els (w.order == 1) (Slot.spans (.vdst (w.ty == 5) w.d)) (ldProg w false els))
/-- LDU (R210): one element, if any lane takes part. -/
def execLdu (w : MEM) (s : State) : Host.Outcome State Fault Refusal :=
  issue (.ldu w) s fun s c =>
    let part := c.part w.g
    let els := memEls c.regs w false true part (typeBytes w.ty)
    c.memIssue s 0 false false (some part) els
      (c.load s (.ldu w) part els (w.order == 1) (Slot.spans (.uni w.d)) (ldProg w true els))

/-! ### Performing stores (R211, R380, R390) -/

/-- What a store of one element does: bytes go to their places; a whole aligned 8 bytes rings a doorbell and any
other store there is discarded (R380). -/
def State.storeEl (s : State) (core scope : Nat) (places : List Place) (v : Nat) : State :=
  let bell := places.any fun p => match p with
    | .mem _ _ a => targetOf a == .doorbell
    | _ => false
  if bell then
    match places with
    | .mem _ _ a :: _ =>
      if places.length = 8 ∧ a % 8 = 0 then
        { s with inbox := s.inbox ++ [.doorbellWrite (BitVec.ofNat 48 a) (BitVec.ofNat 64 v)] }
      else s
    | _ => s
  else s.writePlaces core scope places v
/-- Bytes below the L1 and the combining buffer that a store reaches at its scope. -/
def State.memAddrs (s : State) (core scope : Nat) (places : List Place) : List Nat :=
  places.filterMap fun p => match p with
    | .mem _ ca a => if s.viaL1 core ca scope ∨ ca = 1 ∧ core < 96 then none else some a
    | p => some p.num
/-- Try to perform a store of values, ascending lanes: the highest lane stands (R212). -/
def State.performStore (s : State) (id : Nat) (a : Access) (w : Wg) (scope : Nat) (vals : List Nat) : Attempt :=
  match s.memCause w 1 false none a.els with
  | some (c, lanes, addr, extra) => .dead c.code lanes addr extra
  | none =>
    match s.resolve w a.gi 1 a.els with
    | .fault va c => .fault va c
    | .wait va => .wait va
    | .dead c lanes addr extra => .dead c lanes addr (BitVec.ofNat 64 (1 + 256 * extra))
    | .ok places used =>
      let s := s.touchAll w a.gi used
      let s := (places.zip vals).foldl (fun s x => s.storeEl w.core scope x.1.2 x.2) s
      let s := s.clearPoison ((places.map fun x => s.memAddrs w.core scope x.2).flatten)
      .done (s.dropAcc id)
/-- Data of ST and STU in a lane: the low bits by TYPE (R211). -/
def storeVal (r : Regs) (w : MEM) (lane : Nat) : Nat :=
  let x : W64 := match w.d with
    | .v n => if w.ty = 5 then r.vec64 n.toNat lane else (r.vec n.toNat lane).zeroExtend 64
    | .s n => r.uni n.toNat
    | .imm k => BitVec.ofInt 64 (inlineVal k)
    | _ => 0
  x.toNat % 2 ^ (8 * typeBytes w.ty)

/-! ### Sent entries: redundancy and the auditor (R329, R336, R340, R452) -/

/-- Add an entry to a workgroup's audit signature (R452). -/
def State.auditAdd (s : State) (wg stream : Nat) (string : List Byte) : State :=
  match s.audits.get? wg with
  | none => s
  | some x =>
    let n := x.made.getD stream 0
    let y : AuditSig := ⟨x.sig ^^^ crc64 (leBytes 1 stream ++ leBytes 4 n ++ string), x.made.set stream (n + 1)⟩
    { s with audits := s.audits.set wg y }
/-- The string an entry's signature covers (R340). -/
def entryString (kind width plane : Nat) (mask : Mask) (content : List Byte) : List Byte :=
  leBytes 1 kind ++ leBytes 1 width ++ leBytes 1 plane ++ leBytes 4 mask.toNat ++ content
/-- Send an effect beyond the core: at once in a group of its own; as a compare-buffer entry in a pair, the lead
waiting while SLACK entries are unmatched (R329); as a signature only in an audit replay (R452).
`now` is the state with the effect sent; `act` what the entry does, given the number it is pending under. -/
def Ctx.send (c : Ctx) (s : State) (isLoc : Bool) (stream kind width : Nat) (mask : Mask) (content : List Byte)
    (els : List (Nat × W64 × Nat)) (dests : List RegSpan) (now : State → State) (replayNow : State → State)
    (act : Nat → EntryAct) : Res :=
  if isLoc then .next (now s) else
  let str := entryString kind width c.plane mask content
  let s' := s.auditAdd c.g.wg stream str
  if c.w.role = 3 then .next (replayNow s') else
  match s'.pairOf c.g.wg with
  | none => .next (now s')
  | some (k, p, lead) =>
    if !p.room lead then .hold
    else
      let owner := s'.nextId
      let s2 := { s' with nextId := owner + 1, groups := s'.groups.modify c.k fun g => g.setPending dests owner }
      .next (s2.addEntry k p lead c.g.gi stream kind (crc64 str) c.g.ofs c.plane els (act owner))
/-- The content of a lane-wise entry: address and data of each active lane, a datum being its bytes and its value. -/
def laneContent (xs : List (W64 × List (Nat × Nat))) : List Byte :=
  (xs.map fun (va, vs) => leBytes 8 va.toNat ++ (vs.map fun (n, v) => leBytes n v).flatten).flatten

/-- Perform a store at once if it translates, else leave it in flight (R172, R211). -/
def State.storeNow (s : State) (k : Nat) (a : Access) (w : Wg) (scope : Nat) (vals : List Nat) : State :=
  match s.performStore s.nextId a w scope vals with
  | .done s' => s'
  | _ => s.launchAcc k a []
/-- ST and STU share their course: a release waits, then performs (R211, R396). -/
def Ctx.store (c : Ctx) (s : State) (i : Instr) (w : MEM) (once : Bool) : Res :=
  let part := c.part w.g
  let els := memEls c.regs w false once part (typeBytes w.ty)
  let vals := els.map fun x => storeVal c.regs w x.1
  let a := c.access i part els false
  c.memIssue s 1 false (w.order == 2) (if once then some part else none) els
    (c.send s (allLocal els) c.g.gi 1 (typeBytes w.ty) part (laneContent ((els.zip vals).map fun (e, v) => (e.2.1, [(e.2.2, v)]))) els []
      (fun s => (if w.order = 2 then s.release c.core w.scope else s).storeNow c.k a c.w w.scope vals)
      (fun s => s) (fun owner => .access a owner))
/-- ST (R211). -/
def execSt (w : MEM) (s : State) : Host.Outcome State Fault Refusal :=
  issue (.st w) s fun s c => c.store s (.st w) w false
/-- STU (R211). -/
def execStu (w : MEM) (s : State) : Host.Outcome State Fault Refusal :=
  issue (.stu w) s fun s c => c.store s (.stu w) w true

/-! ### Update units (R213–R218) -/

/-- Apply an operation to an element of a type (R214, R216, R217): 0 add, 1 min, 2 max, 3 and, 4 or, 5 xor, 6 swap,
7 compare-and-swap, 8 the unsigned 64-bit maximum of VISMAX. -/
def unitOp (op ty : Nat) (m v cmp : W64) : W64 :=
  let wide := utypeBytes ty == 8
  let m32 : W32 := m.truncate 32
  let v32 : W32 := v.truncate 32
  let z (x : W32) : W64 := x.zeroExtend 64
  let uns := ty == 1 || ty == 3
  match op with
  | 0 => if ty = 4 then z (BitVec.ofNat 32 (FBin.fadd.eval .plain m32.toNat v32.toNat)) else if wide then m + v else z (m32 + v32)
  | 1 => if ty = 4 then z (BitVec.ofNat 32 (FBin.fmin.eval .plain m32.toNat v32.toNat))
    else if wide then aluMin uns m v else z (aluMin uns m32 v32)
  | 2 => if ty = 4 then z (BitVec.ofNat 32 (FBin.fmax.eval .plain m32.toNat v32.toNat))
    else if wide then aluMax uns m v else z (aluMax uns m32 v32)
  | 3 => m &&& v
  | 4 => m ||| v
  | 5 => m ^^^ v
  | 6 => v
  | 7 => if m = cmp then v else m
  | _ => if m.toNat < v.toNat then v else m
/-- Whether a link carries an operation (R218, R418). -/
def linkOp (op ty : Nat) : Bool := (op == 0 && ty != 4) || op == 6 || op == 7
/-- Whether an element's page takes an update: ATOMIC_PATH otherwise (R218, R418). -/
def State.atomicOk (s : State) (w : Wg) (op ty : Nat) (va : W64) (t : TlbEntry) : Bool :=
  let a := t.phys va
  if (targetOf a).port.isNone then targetOf a != .doorbell
  else Pte.atomic t.leaf &&
    (backInval a || (linkOp op ty && (match s.pasids.get? w.pasid with
      | some ctx => s.atomicReq.contains ctx.func
      | none => false)))

/-- Resolve the units of an update word: their places, or why the word is not performed (R172, R218, R290). -/
def State.resolveUnits (s : State) (w : Wg) (gi : Nat) (us : List UUnit) : Except Attempt (List UUnit × List (Nat × W64 × TlbEntry)) :=
  let els := us.map fun u => (u.lane, u.addr, utypeBytes u.ty * u.vals.length)
  match s.memCause w 2 false none els with
  | some (c, lanes, addr, extra) => .error (.dead c.code lanes addr extra)
  | none =>
    match s.resolve w gi 2 els with
    | .fault va c => .error (.fault va c)
    | .wait va => .error (.wait va)
    | .dead c lanes addr extra => .error (.dead c lanes addr (BitVec.ofNat 64 (2 + 256 * extra)))
    | .ok places used =>
      let bad := us.filter fun u => !isLocal u.addr && used.any fun x =>
        x.1 == u.lane && x.2.1 == u.addr && !s.atomicOk w u.op u.ty u.addr x.2.2
      match bad with
      | b :: bs =>
        let lanes : Mask := bad.foldl (fun m u => m ||| (1#32 <<< u.lane)) 0
        let low := bs.foldl (fun m u => if u.addr.toNat < m.toNat then u.addr else m) b.addr
        .error (.dead Cause.atomicPath.code lanes low 2)
      | [] => .ok ((us.zip places).map fun x => { x.1 with places := x.2.2 }, used)

/-- Read an element where its owner is: the bank, the slice, or the far end of a link (R218). -/
def State.unitRead (s : State) (ps : List Place) : W64 :=
  BitVec.ofNat 64 (leNat (ps.map fun p => match p with
    | .scr c k o => s.scrByte c k o
    | .mem k _ a => s.pastL1 k 0 3 a))
/-- Write an element where its owner is. -/
def State.unitWrite (s : State) (ps : List Place) (v : W64) : State :=
  (ps.zip (leBytes ps.length v.toNat)).foldl (fun s x => match x.1 with
    | .scr c k o => s.setScrByte c k o x.2
    | .mem k _ a => s.setPastL1 k 0 3 a x.2) s
/-- Apply one element: the value it held, and the state after; a poisoned element is not applied and reads as zero
(R214, R390). -/
def State.applyEl (s : State) (op ty : Nat) (ps : List Place) (v cmp : W64) : State × W64 :=
  if s.anyPoison ps then (s, 0)
  else
    let m := s.unitRead ps
    -- a compare that fails writes nothing (R216)
    if op = 7 ∧ m ≠ cmp then (s, m) else (s.unitWrite ps (unitOp op ty m v cmp), m)
/-- Apply a unit whole, after its lines have left the issuing core's L1 (R214, R218). -/
def State.applyUnit (s : State) (core : Nat) (u : UUnit) : State × W64 × Bool :=
  let s := u.places.foldl (fun s p => match p with
    | .mem _ _ a => s.flushLine core a
    | _ => s) s
  let n := utypeBytes u.ty
  let poison := s.anyPoison u.places
  let r := (u.vals.zipIdx).foldl (fun (x : State × W64) (v, j) =>
    let y := x.1.applyEl u.op u.ty ((u.places.drop (n * j)).take n) v u.cmp
    (y.1, if j = 0 then y.2 else x.2)) (s, 0)
  (r.1, r.2, poison)

/-- The units of UPD, UPDR, UCAS and VISMAX (R213–R217). -/
def memUnits (r : Regs) (i : Instr) (w : MEM) (els : List (Nat × W64 × Nat)) : List UUnit :=
  let ty := match i with
    | .vismax _ => 6
    | _ => w.utype
  let wide := utypeBytes ty == 8
  let val (o : Opnd) (l : Nat) : W64 := match o with
    | .v n => if wide then r.vec64 n.toNat l else (r.vec n.toNat l).zeroExtend 64
    | .s n => if wide then r.uni n.toNat else ((r.uni n.toNat).truncate 32 : W32).zeroExtend 64
    -- under .f32 an inline integer is the FP32 value (R116)
    | .imm k => if wide then BitVec.ofInt 64 (inlineVal k) else if ty = 4 then BitVec.ofNat 64 (inlineFloat fp32 (inlineVal k))
      else (BitVec.ofInt 32 (inlineVal k)).zeroExtend 64
    | _ => 0
  els.map fun (l, va, _) =>
    match i with
    | .vismax _ => ⟨l, va, 8, 6, [val w.d l], 0, []⟩
    | .ucas _ =>
      let swap : Opnd := match w.d with
        | .v n => .v (n + (if wide then 2 else 1))
        | .s n => .s (n + 1)
        | o => o
      ⟨l, va, 7, w.utype, [val swap l], val w.d l, []⟩
    | _ => ⟨l, va, w.ty, w.utype, [val w.d l], 0, []⟩
/-- What an update word writes to a lane of its destination, if it returns a value. -/
def unitReturn (i : Instr) (lane : Nat) (v : W64) : RegWrites :=
  match i with
  | .updr w => dstWrites w.d (utypeBytes w.utype == 8) lane
      (if w.utype = 0 then (v.truncate 32 : W32).signExtend 64 else v)
  | .ucas w => dstWrites w.d (utypeBytes w.utype == 8) lane v
  | _ => []
/-- Registers an update word leaves pending until its values return (R215, R216). -/
def updDests (i : Instr) : List RegSpan :=
  match i with
  | .updr w => Slot.spans { o := w.d, k := { v := true, s := true }, nv := if utypeBytes w.utype = 8 then 2 else 1 }
  | .ucas w => Slot.spans { o := w.d, k := { v := true, s := true }, nv := if utypeBytes w.utype = 8 then 2 else 1 }
  | _ => []

/-- The data of a unit in a signature: its values, for UCAS the compare value first (R213, R340). -/
def UUnit.data (u : UUnit) : List (Nat × Nat) :=
  let n := utypeBytes u.ty
  (if u.op = 7 then [(n, u.cmp.toNat)] else []) ++ u.vals.map fun v => (n, v.toNat)
/-- UPD, UPDR, UCAS and VISMAX share their course (R215–R218): one unit for each participating lane, or one. -/
def Ctx.update (c : Ctx) (s : State) (i : Instr) (w : MEM) (once : Bool) (kind : Nat) : Res :=
  let part := c.part w.g
  let vis := match i with
    | .vismax _ => true
    | _ => false
  let els := memEls c.regs w (!vis) once part (if vis then 8 else utypeBytes w.utype)
  let us := memUnits c.regs i w els
  let acq := w.order == 1 || w.order == 3
  let rel := w.order == 2 || w.order == 3
  let a := { c.access i part els acq with units := us }
  let dests := updDests i
  c.memIssue s 2 true rel (if once then some part else none) els
    (c.send s (allLocal els) c.g.gi kind (w.m.toNat % 256) part (laneContent (us.map fun u => (u.addr, u.data))) els dests
      (fun s => ((if rel then s.release c.core w.scope else s).journalEls c.g.wg c.w els).launchAcc c.k a dests)
      (fun s => s.updRegs c.k fun r => r.writeAll (els.map fun x => unitReturn i x.1 0).flatten)
      (fun owner => .access a owner))
/-- UPD (R215). -/
def execUpd (w : MEM) (s : State) : Host.Outcome State Fault Refusal :=
  issue (.upd w) s fun s c => c.update s (.upd w) w false 2
/-- UPDR (R215): once with a uniform d. -/
def execUpdr (w : MEM) (s : State) : Host.Outcome State Fault Refusal :=
  issue (.updr w) s fun s c => c.update s (.updr w) w w.d.isUni 2
/-- UCAS (R216). -/
def execUcas (w : MEM) (s : State) : Host.Outcome State Fault Refusal :=
  issue (.ucas w) s fun s c => c.update s (.ucas w) w w.d.isUni 3
/-- VISMAX (R217). -/
def execVismax (w : MEM) (s : State) : Host.Outcome State Fault Refusal :=
  issue (.vismax w) s fun s c => c.update s (.vismax w) w false 2

/-! ### Fences and cache control (R219–R222) -/

/-- Whether a FENCE's KIND releases or acquires. -/
def fenceRel (w : RRR) : Bool := (w.m.extractLsb' 2 2) != 1
@[inherit_doc fenceRel] def fenceAcq (w : RRR) : Bool := (w.m.extractLsb' 2 2) != 2
/-- Whether copies or collectives a group issued are unfinished. -/
def State.copiesOf (s : State) (w gi : Nat) : Bool :=
  s.copies.any fun x => x.2.wg == w && x.2.gi == gi && (match x.2.kind with
    | .fence _ => false
    | _ => true)
/-- Whether an MDR.add of a group still has update units to come: it is queued, or it runs (R219, R262). -/
def State.addsOf (s : State) (w gi : Nat) : Bool :=
  match s.wgs.get? w with
  | some x => x.mqueue.any fun m => m.gi == gi && (match m.word with
      | .mdr y => y.m.getLsbD 6
      | _ => false)
  | none => false
/-- Whether entries of a role's engines are unmatched (R339): its matrix and copy streams. -/
def State.copyEntries (s : State) (w : Nat) : Bool :=
  match s.pairOf w with
  | some (_, p, lead) => (p.role lead).entries.any fun e => decide (32 ≤ e.stream)
  | none => false
/-- Whether .eng waits: copies, collectives and update units of the group are unfinished (R219). -/
def State.engBusy (s : State) (w gi : Nat) : Bool := s.copiesOf w gi || s.copyEntries w || s.addsOf w gi
/-- FENCE (R219, R400): waits for the group's log, and for its accesses as its kind needs; with .eng also for its
copies and update units. A sweep performs nothing (R336). -/
def execFence (w : RRR) (s : State) : Host.Outcome State Fault Refusal :=
  issue (.fence w) s fun s c =>
    if c.w.role = 2 then .next s
    else if s.hasLog c.g.wg c.g.gi || s.accsOf c.g.wg c.g.gi != [] || s.redBusy c.g.wg c.g.gi then .hold
    else if w.m.getLsbD 4 && s.engBusy c.g.wg c.g.gi then .hold
    else
      let scope := w.m.toNat % 4
      let s := if fenceRel w then s.release c.core scope else s.drainCore c.core
      .next (if fenceAcq w then s.acquire c.core scope else s)
/-- Whether a line of memory holds a line of a virtual range under a PASID's translations. -/
def State.holdsRange (s : State) (w : Wg) (base : W64) (len line : Nat) : Bool :=
  let first := base.toNat / 128
  let n := (base.toNat + len - 1) / 128 - first + 1
  !isLocal base && (List.range ((base.toNat + len - 1) / 4096 - base.toNat / 4096 + 1)).any fun j =>
    let p := base.toNat / 4096 + j
    match s.translate w.core w.pasid w.pitch 0 (BitVec.ofNat 64 (p * 4096)) with
    | .ok t =>
      let pa := t.phys (BitVec.ofNat 64 (p * 4096))
      let l := line * 128
      decide (pa ≤ l) && decide (l < pa + 4096) && decide (first ≤ p * 32 + (l - pa) / 128)
        && decide (p * 32 + (l - pa) / 128 < first + n)
    | .error _ => false
/-- Lines of a core's L1 and combining buffer that hold a virtual range. -/
def State.linesIn (s : State) (w : Wg) (base : W64) (len : Nat) : List Nat :=
  let held := s.wc.filter fun (x : Nat × WcByte) => x.1 / 2 ^ 48 == w.core
  let own : List Nat := held.map fun (x : Nat × WcByte) => x.1 % 2 ^ 48 / 128
  ((s.linesOf w.core).map (·.1) ++ own).filter (s.holdsRange w base len)
/-- Lines of system pages in the memory-side cache that hold a virtual range. -/
def State.farLinesIn (s : State) (w : Wg) (base : W64) (len : Nat) : List Nat :=
  (s.msc.map (·.1)).filter fun l => isSystem (l * 128) && s.holdsRange w base len l
/-- The lines of a range leave a core's L1 and, at .sys, those of system pages the memory-side cache (R220, R396, R401). -/
def State.fenceRange (s : State) (w : Wg) (base : W64) (len scope : Nat) : State :=
  let s := (s.linesIn w base len).foldl (fun s l => s.flushLine w.core (l * 128)) s
  if scope = 3 then (s.farLinesIn w base len).foldl (fun s l => s.mscEvict l) s else s
/-- RFENCE (R220, R401): a length of 0 completes at once; the range is rounded outward to lines; .eng is FENCE's. -/
def execRfence (w : RRR) (s : State) : Host.Outcome State Fault Refusal :=
  issue (.rfence w) s fun s c =>
    if c.w.role = 2 then .next s
    else
      let base := c.regs.uni w.a.num
      let len := (c.regs.uni w.b.num).toNat
      if len = 0 then .next s
      else if 2 ^ 64 < base.toNat + len then .cause .addrCanon c.lanes base 0
      else if (s.accsOf c.g.wg c.g.gi).any fun x => x.2.els.any fun (_, b, m) => sameLine base len b m then .hold
      else if w.m.getLsbD 4 && s.engBusy c.g.wg c.g.gi then .hold
      else
        .next (s.fenceRange c.w base len (w.m.toNat % 4))
/-- Bring the line of an address into the L1 under WB, or for .msc into the memory-side cache. -/
def State.prefetch (s : State) (core key cache a : Nat) (msc : Bool) : State :=
  if msc then (if cache = 2 ∨ reachesFar cache 0 a then s else s.mscTouch key a) else if cache = 0 then (s.drainLine core a).fillLine core key a else s
/-- PREF (R221, R322): the lane's line comes nearer; a lane whose address is not canonical or does not translate does
nothing. -/
def execPref (w : MEM) (s : State) : Host.Outcome State Fault Refusal :=
  issue (.pref w) s fun s c =>
    if c.w.role = 2 then .next s else
    let els := memEls c.regs w false false (c.part w.g) 1
    if els ≠ [] ∧ (s.memBlocked c.g.wg c.g.gi ∨ s.overlaps c.g.wg c.g.gi els) then .hold else
    .next (els.foldl (fun s (l, va, _) =>
      if isLocal va || !canonical va then s else
      match s.resolveOne c.w c.g.gi 0 l va 1 with
      | .ok ([.mem k ca a], _) => s.prefetch c.core k ca a (w.ty == 1)
      | _ => s) s)
/-- Discard the line of an address: each dirty byte is written back or not, freely, from the L1 and, for .msc, from the
memory-side cache (R222). -/
def State.discardLine (s : State) (core a : Nat) (msc : Bool) : State :=
  let line := a / 128
  let s := match s.l1.get? (s.lineKey core a) with
    | none => s
    | some l =>
      let kept := (List.range 128).foldl (fun (m : BitVec 128) k =>
        if Config.freeBool s.stepNo (line * 128 + k) then m ||| (1#128 <<< k) else m) 0
      let s := s.writeBack a { l with dirty := l.dirty &&& kept }
      { s with l1 := s.l1.del (s.lineKey core a) }
  if msc then s.mscDrop line fun k => Config.freeBool s.stepNo (2 ^ 48 + line * 128 + k) else s
/-- Try to perform a DISCARD: the page must be writable (R222). -/
def State.performDiscard (s : State) (id : Nat) (a : Access) (w : Wg) (msc : Bool) : Attempt :=
  let els := a.els.filter fun x => !isLocal x.2.1
  match s.resolve w a.gi 1 els with
  | .fault va c => .fault va c
  | .wait va => .wait va
  | .dead c lanes addr extra => .dead c lanes addr (BitVec.ofNat 64 (1 + 256 * extra))
  | .ok places used =>
    let s := s.touchAll w a.gi used
    .done ((places.foldl (fun s x => match x.2 with
      | .mem _ _ pa :: _ => (s.drainLine w.core pa).discardLine w.core pa msc
      | _ => s) s).dropAcc id)
/-- Perform a DISCARD at once if it translates. -/
def State.discardNow (s : State) (k : Nat) (a : Access) (w : Wg) (msc : Bool) : State :=
  match s.performDiscard s.nextId a w msc with
  | .done s' => s'
  | _ => s.launchAcc k a []
/-- DISCARD (R222). -/
def execDiscard (w : MEM) (s : State) : Host.Outcome State Fault Refusal :=
  issue (.discard w) s fun s c =>
    let part := c.part w.g
    let els := memEls c.regs w false false part 1
    let a := c.access (.discard w) part els false
    c.memIssue s 1 false false none els
      (c.send s (allLocal els) c.g.gi 7 (w.m.toNat % 256) part (laneContent (els.map fun e => (e.2.1, []))) els []
        (fun s => s.discardNow c.k a c.w (w.ty == 1)) (fun s => s) (fun owner => .access a owner))

end Sys2Proof.Machine
end

