-- ==== Sys2Proof/Machine/Control.lean ====
section
/-! DEFINITION. Group 0: no-operations, branches and stacks, planes, lane and predicate operations, traps, time,
errors and phases (06). CSRs stand in Machine/Csr.lean and CKPT in Machine/Redundant.lean. -/

namespace Sys2Proof.Machine
open Sys2Proof

/-! ### Branches (R146–R153) -/

/-- Whether an offset lies in 0 to L − 1 (R60). -/
def Ctx.inPlane (c : Ctx) (o : Int) : Bool := decide (0 ≤ o) && decide (o < c.w.desc.len)
/-- Move the whole group to an offset (R147); EXEC, CJ and the stacks stand as `g` has them. -/
def Ctx.goto (c : Ctx) (s : State) (g : Group) (o : Int) : Res :=
  .moved (s.setGroup c.k { g with ofs := BitVec.ofInt 24 o, todo := none, execNext := g.exec, captured := 0, capturedNext := 0 })
/-- OFFSET_RANGE of a transfer: EXTRA is the offset that would have been reached (R174). -/
def Ctx.outOfRange (c : Ctx) (o : Int) : Res := .cause .offsetRange c.lanes 0 (BitVec.ofInt 64 o)
/-- The offset of the word, as an integer. -/
def Ctx.o (c : Ctx) : Int := c.g.ofs.toNat

/-- NOP (R146). -/
def execNop (w : RRR) (s : State) : Host.Outcome State Fault Refusal := issue (.nop w) s fun s _ => .next s
/-- PNOP and an extension word met on its own (R58, R146). -/
def execPnop (s : State) : Host.Outcome State Fault Refusal := issue .pnop s fun s _ => .next s
/-- BRA (R147). -/
def execBra (w : BR) (s : State) : Host.Outcome State Fault Refusal :=
  issue (.bra w) s fun s c =>
    let t := c.o + w.target.toInt
    if c.inPlane t then c.goto s c.g t else c.outOfRange t

/-- The distinct values of a list, ascending. -/
def sortedDistinct : List Int → List Int
  | [] => []
  | x :: xs => ins x (sortedDistinct xs)
where
  /-- Insert into an ascending list without repeats. -/
  ins (x : Int) : List Int → List Int
    | [] => [x]
    | y :: ys => if x < y then x :: y :: ys else if x = y then y :: ys else y :: ins x ys

/-- The divergent branch shared by BRC and BRI: a target for each lane and the join (R148). Of several targets out of the plane EXTRA
names the lowest (log entry 107). -/
def Ctx.diverge (c : Ctx) (s : State) (target : Nat → Int) (j : Int) : Res :=
  let lanes := lanesOf c.lanes
  let ts := sortedDistinct (lanes.map target)
  let mask (t : Int) : Mask := lanes.foldl (fun m l => if target l = t then m ||| (1#32 <<< l) else m) 0
  match ts.find? fun t => !c.inPlane t with
  | some t => c.outOfRange t
  | none =>
    match ts with
    | [] => .next s
    | [t] => c.goto s c.g t
    | t0 :: rest =>
      let j24 : BitVec 24 := BitVec.ofInt 24 j
      let atJoin := c.g.cj = j24 ∧ c.inPlane j
      let pushed := rest.filter fun t => t ≠ j
      let n := (if atJoin then 0 else 1) + pushed.length
      let bytes := stackBytes (c.g.depth + n) c.g.frameBytes
      if c.w.spillBytes < bytes ∧ 16 < c.g.depth + n then
        .cause .stackOvf c.lanes 0 (BitVec.ofNat 64 (c.w.spillBytes + bytes * 2 ^ 32))
      else
        let es : List DivEntry := (if atJoin then [] else [⟨j24, c.g.exec, c.g.cj⟩])
          ++ pushed.reverse.map fun t => ⟨BitVec.ofInt 24 t, mask t, j24⟩
        let (s, g) := es.foldl (fun x e => x.1.pushDiv c.w c.k x.2 e) (s, c.g)
        c.goto s { g with exec := mask t0, cj := j24 } t0
/-- BRC: lanes whose guard is true take the target. Where a lane takes it, the target and then the join must lie in 0 to
L − 1 (R120, R148). -/
def execBrc (w : BR) (s : State) : Host.Outcome State Fault Refusal :=
  issue (.brc w) s fun s c =>
    let cond := c.regs.guard w.g
    let target (l : Nat) : Int := if cond.getLsbD l then c.o + w.target.toInt else c.o + 1
    let j := c.o + w.join.toInt
    if c.lanes &&& cond ≠ 0 ∧ (lanesOf c.lanes).all (fun l => c.inPlane (target l)) ∧ !c.inPlane j then c.outOfRange j
    else c.diverge s target j

/-- The lanes of a BRI whose index is not below the table's count (R149). -/
def Ctx.briBad (c : Ctx) (w : RRR) (n : Nat) : List Nat := (lanesOf c.lanes).filter fun l => decide (n ≤ (c.regs.vec w.a.num l).toNat)
/-- The elements a BRI reads: the header, and each lane's entry where every index is in range (R137, R149). -/
def Ctx.briEls (c : Ctx) (w : RRR) (n : Nat) : List (Nat × W64 × Nat) :=
  let base := c.regs.uni w.b.num
  (0, base, 8) :: (if c.briBad w n = [] then
    (lanesOf c.lanes).map fun l => (l, base + 8 + BitVec.ofNat 64 (4 * (c.regs.vec w.a.num l).toNat), 4)
  else [])
/-- BRI on a table whose words `rd` reads (R148, R149). -/
def Ctx.briGo (c : Ctx) (s : State) (w : RRR) (rd : W64 → Nat → Nat) : Res :=
  let base := c.regs.uni w.b.num
  let h := rd base 8
  let idx (l : Nat) : Nat := (c.regs.vec w.a.num l).toNat
  match c.briBad w (h % 2 ^ 16) with
  | l :: ls => .cause .briRange ((l :: ls).foldl (fun m l => m ||| (1#32 <<< l)) 0) 0 (BitVec.ofNat 64 (idx l))
  | [] =>
    let ofs (l : Nat) : Int := (BitVec.ofNat 24 (rd (base + 8 + BitVec.ofNat 64 (4 * idx l)) 4)).toInt
    c.diverge s (fun l => c.o + ofs l) (c.o + (BitVec.ofNat 24 (h / 2 ^ 16)).toInt)
/-- BRI from memory: the header, then the entries; what the reads leave behind (R149, R384, R390). `keep` puts what was
read where the pair's other role finds it, and `close` ends the word. -/
def Ctx.briRead (c : Ctx) (s : State) (w : RRR) (keep : State → LvPlace → State) (close : State → State → Res → Res) : Res :=
  let head : Nat × W64 × Nat := (0, c.regs.uni w.b.num, 8)
  let rd := s.readVa c.w c.g.gi 4 0
  match c.readNow s 4 c.g.exec [head] with
  | .error r => r
  | .ok _ =>
    let els := c.briEls w (rd head.2.1 8 % 2 ^ 16)
    match c.readNow s 4 c.g.exec els with
    | .error r => r
    | .ok (places, used) =>
      let poison := s.poisonAt els places
      let x : LvPlace := { filled := true, mask := c.lanes, els, bytes := readBytes rd els, poison, dead := none, regs := [] }
      let s' := keep ((s.touchAll c.w c.g.gi used).afterRead c.core 0 places) x
      close s s' ((c.poisoned s.nextId poison).briGo s' w rd)
/-- BRI (R149); in a pair the lead's table reads enter the load-value queue, and the sweep takes them from it
(R336–R338). -/
def execBri (w : RRR) (s : State) : Host.Outcome State Fault Refusal :=
  issue (.bri w) s fun s c =>
    let base := c.regs.uni w.b.num
    if base.toNat % 8 ≠ 0 then .cause .briRange c.g.exec 0 (BitVec.allOnes 64) else
    match s.pairOf c.g.wg, isLocal base with
    | none, _ | _, true => c.briRead s w (fun s _ => s) (fun _ _ r => r)
    | some (k, p, lead), false =>
      let r := p.role lead
      let n := r.taken.getD c.g.gi 0
      let key := placeKey c.g.gi n
      let p' := p.setRole lead { r with taken := r.taken.set c.g.gi (n + 1) }
      match p.places.get? key with
      | some x =>
        let rd := placeRd x.bytes
        if !x.filled then .hold
        else if x.mask ≠ c.lanes ∨ x.els ≠ c.briEls w (rd base 8 % 2 ^ 16) then .wait (s.noteMismatch k 0x81 c.g.ofs c.plane)
        else c.keepPlace s (s.setPair k p') ((c.poisoned s.nextId x.poison).briGo (s.setPair k p') w rd)
      | none =>
        if !lead then .hold
        else c.briRead s w (fun s x => s.setPair k { p' with places := p'.places.set key x }) (c.keepPlace)

/-- CALL (R150). -/
def execCall (w : BR) (s : State) : Host.Outcome State Fault Refusal :=
  issue (.call w) s fun s c =>
    let t := c.o + w.target.toInt
    let bytes := stackBytes c.g.depth (c.g.frameBytes + 16)
    if !c.inPlane t then c.outOfRange t
    else if c.w.spillBytes < bytes then
      .cause .stackOvf c.lanes 0 (BitVec.ofNat 64 (c.w.spillBytes + bytes * 2 ^ 32))
    else
      let (s, g) := s.pushFrame c.w c.g ⟨c.g.ofs + 1, 0, 0, c.g.depth, c.g.cj, 0⟩ []
      c.goto s { g with cj := 0xFFFFFF } t
/-- RET (R151): the lanes of EXEC are parked; the last path of the callee returns them all. -/
def execRet (w : RRR) (s : State) : Host.Outcome State Fault Refusal :=
  issue (.ret w) s fun s c =>
    match s.topFrame c.w c.g with
    | none => .cause .stackUnder c.lanes 0 0
    | some f =>
      if f.kind = 1 then .cause .stackUnder c.lanes 0 1
      else if f.kind ≠ 0 then .cause .stackUnder c.lanes 0 (BitVec.ofNat 64 (2 + f.kind.toNat * 256))
      else
        let m := f.mask ||| c.g.exec
        -- bits [63:32] of the frame in memory are RETMASK (R142)
        let kept := s.spillWrite c.w c.g.gi (c.w.spillBytes - c.g.frameBytes + 4) 4 m.toNat
        if f.depth < c.g.depth then c.goto kept { c.g with exec := 0 } c.o
        else if c.w.desc.len ≤ f.ofs.toNat then c.outOfRange f.ofs.toNat
        else
          let g := c.g.popFrame f
          c.goto kept { g with exec := m &&& g.live &&& ~~~(s.park c.w g), cj := f.cj } f.ofs.toNat
/-- EXIT (R152). -/
def execExit (w : RRR) (s : State) : Host.Outcome State Fault Refusal :=
  issue (.exit w) s fun s c =>
    let x := c.part w.g
    if x = 0 then .next s
    else
      let live := c.g.live &&& ~~~x
      let exec := c.g.exec &&& ~~~x
      if live = 0 then .moved ((s.setGroup c.k { c.g with live, exec }).endGroup c.k)
      else if exec = 0 then c.goto s { c.g with live, exec } c.o
      else .next (s.setGroup c.k { c.g with live, exec, execNext := exec })

/-! ### Planes (R154) -/

/-- Set PLANE of the participating lanes from the next offset on, or raise PLANE_RANGE (R63, R154). -/
def Ctx.setPlanes (c : Ctx) (s : State) (part : Mask) (v : Nat → Nat) : Res :=
  let lanes := lanesOf part
  let bad := lanes.filter fun l => decide (c.w.desc.planes ≤ v l)
  match bad with
  | l0 :: _ => .cause .planeRange (bad.foldl (fun m l => m ||| (1#32 <<< l)) 0) 0 (BitVec.ofNat 64 (v l0))
  | [] => .next (s.updGroup c.k fun g =>
      { g with planesNext := lanes.foldl (fun t l => Tab.put 0 t l (BitVec.ofNat 3 (v l))) g.planesNext })
/-- PSET (R154). -/
def execPset (w : RRR) (s : State) : Host.Outcome State Fault Refusal :=
  issue (.pset w) s fun s c => c.setPlanes s (c.part w.g) fun l => (s.read32 c w.a l).toNat
/-- PSETI (R154). -/
def execPseti (w : RI) (s : State) : Host.Outcome State Fault Refusal :=
  issue (.pseti w) s fun s c => c.setPlanes s (c.part w.g) fun _ => w.imm.toNat % 8

/-! ### Lane and predicate operations (R155–R159) -/

/-- A mask of the lanes that meet a test. -/
def maskOf (m : Mask) (p : Nat → Bool) : Mask :=
  (lanesOf m).foldl (fun x l => if p l then x ||| (1#32 <<< l) else x) 0
/-- Write one truth value to a predicate in the lanes of a mask. -/
def Regs.fillPred (r : Regs) (n : Nat) (m : Mask) (b : Bool) : Regs :=
  r.setPred n (if b then r.pred n ||| m else r.pred n &&& ~~~m)
/-- VOTE (R155). -/
def execVote (w : RRR) (s : State) : Host.Outcome State Fault Refusal :=
  issue (.vote w) s fun s c =>
    let part := c.part w.g
    let on := maskOf part fun l => c.readP w.a l
    match w.m3 % 4 with
    | 0 => .next (s.updRegs c.k fun r => r.setUni w.d.num (on.zeroExtend 64))
    | 1 => .next (s.updRegs c.k fun r => r.fillPred w.d.num part (on != 0))
    | 2 => .next (s.updRegs c.k fun r => r.fillPred w.d.num part (on == part))
    | _ =>
      let vals := (lanesOf part).map fun l => c.regs.vec w.a.num l
      .next (s.updRegs c.k fun r => r.fillPred w.d.num part (vals.all fun v => v == vals.headD 0))
/-- The source lane of LSHF (R156). -/
def lshfLane (mode : Nat) (b l : Nat) : Int :=
  match mode with
  | 0 => (b % 32 : Nat)
  | 1 => (l : Int) - b
  | 2 => (l : Int) + b
  | 3 => (l ^^^ (b % 32) : Nat)
  | _ => (b % 32 : Nat)
/-- LSHF (R156). -/
def execLshf (w : RRR) (s : State) : Host.Outcome State Fault Refusal :=
  issue (.lshf w) s fun s c =>
    let part := c.part w.g
    let wide := w.m.getLsbD 3
    let src (l : Nat) : Int :=
      lshfLane w.m3 (if w.m3 = 0 then c.regs.vec w.b.num l else s.read32 c w.b 0).toNat l
    let valid (l : Nat) : Bool := decide (0 ≤ src l) && decide (src l ≤ 31) && part.getLsbD (src l).toNat
    let from_ (l : Nat) : Nat := if valid l then (src l).toNat else l
    let vals := (lanesOf part).map fun l => (l, s.readW c wide w.a (from_ l))
    let ok := maskOf part valid
    .next (s.updRegs c.k fun r =>
      let r := vals.foldl (fun r x => r.setDst w.d wide x.1 x.2) r
      if w.m.getLsbD 4 then r.setPred w.c.num ((r.pred w.c.num &&& ~~~part) ||| ok) else r)
/-- The operation of LRED on 32-bit values (R157). -/
def lredOp (op : Nat) (a b : W32) : W32 :=
  match op with
  | 0 => a + b
  | 1 => aluMin false a b
  | 2 => aluMax false a b
  | 3 => aluMin true a b
  | 4 => aluMax true a b
  | 5 => a &&& b
  | 6 => a ||| b
  | 7 => a ^^^ b
  | 8 => BitVec.ofNat 32 (FBin.fadd.eval .plain a.toNat b.toNat)
  | 9 => BitVec.ofNat 32 (FBin.fmin.eval .plain a.toNat b.toNat)
  | _ => BitVec.ofNat 32 (FBin.fmax.eval .plain a.toNat b.toNat)
/-- The identity of an LRED operation (R157). -/
def lredId (op : Nat) : W32 :=
  match op with
  | 1 => 0x7FFFFFFF
  | 2 => 0x80000000
  | 3 | 5 => 0xFFFFFFFF
  | 8 => 0x80000000
  | 9 => 0x7F800000
  | 10 => 0xFF800000
  | _ => 0
/-- The fixed reduction tree: neighbours first, five levels (R157). -/
def lredTree (op : Nat) : Nat → List W32 → W32
  | 0, xs => xs.headD 0
  | n + 1, xs => lredTree op n (pairUp xs)
where
  /-- Combine neighbours. -/
  pairUp : List W32 → List W32
    | a :: b :: t => lredOp op a b :: pairUp t
    | t => t
/-- LRED (R157). -/
def execLred (w : RRR) (s : State) : Host.Outcome State Fault Refusal :=
  issue (.lred w) s fun s c =>
    let part := c.part w.g
    let op := w.m.toNat % 16
    let y := lredTree op 5 ((List.range 32).map fun l =>
      if part.getLsbD l then c.regs.vec w.a.num l else lredId op)
    let ext : W64 := if op ≤ 2 then y.signExtend 64 else y.zeroExtend 64
    if w.d.isUni then .next (s.updRegs c.k fun r => r.setUni w.d.num ext)
    else .next (s.updRegs c.k fun r => (lanesOf part).foldl (fun r l => r.setVec w.d.num l y) r)
/-- PLOG (R158). -/
def execPlog (w : RRR) (s : State) : Host.Outcome State Fault Refusal :=
  issue (.plog w) s fun s c =>
    c.aluP s w.g w.d fun l =>
      w.m.getLsbD (4 * (c.readP w.a l).toNat + 2 * (c.readP w.b l).toNat + (c.readP w.c l).toNat)
/-- PMOV (R159). -/
def execPmov (w : RRR) (s : State) : Host.Outcome State Fault Refusal :=
  issue (.pmov w) s fun s c =>
    match w.m3 % 4 with
    | 0 => c.aluP s w.g w.d fun l => s.read32 c w.a l != 0
    | 1 => c.alu s w.g w.d false fun l => if c.readP w.a l then 1 else 0
    | 2 => .next (s.updRegs c.k fun r => r.setUni w.d.num ((maskOf (c.part w.g) fun l => c.readP w.a l).zeroExtend 64))
    | _ => c.aluP s w.g w.d fun l => (c.regs.uni w.a.num).getLsbD l

/-! ### Traps (R162, R163) -/

/-- TRAP (R162): resumes behind the word. -/
def execTrap (w : RI) (s : State) : Host.Outcome State Fault Refusal :=
  issue (.trap w) s fun s c =>
    let lanes := c.part w.g
    if lanes = 0 then .next s
    else .trapNext Cause.trapSw.code lanes 0 (BitVec.ofNat 64 (w.imm.toNat % 2 ^ 16))
/-- TRET (R163). -/
def execTret (w : RRR) (s : State) : Host.Outcome State Fault Refusal :=
  issue (.tret w) s fun s c =>
    match s.topFrame c.w c.g with
    | none => .cause .tretState c.lanes 0 0
    | some f =>
      if f.kind ≠ 1 ∨ c.g.depth ≠ f.depth then .cause .tretState c.lanes 0 0
      else if c.w.desc.len ≤ f.ofs.toNat then c.outOfRange f.ofs.toNat
      else .moved (s.trapReturn c.k c.w c.g f)

/-! ### Time, errors and phases (R165–R167) -/

/-- Sample TIME and CYCLE into an even pair of uniform registers (R165); the roles of a pair share the sample (R336). -/
def Ctx.sampleClock (c : Ctx) (s : State) (d : Nat) : Res :=
  c.shared s [BitVec.ofNat 64 s.time, BitVec.ofNat 64 (s.core c.core).cycle] fun s v =>
    .next (s.updRegs c.k fun r => (r.setUni d (v.getD 0 0)).setUni (d + 1) (v.getD 1 0))
/-- CLOCK (R165): CLOCK.until holds the group until TIME reaches the target. A sweep waits for its lead's sample. -/
def execClock (w : RRR) (s : State) : Host.Outcome State Fault Refusal :=
  issue (.clock w) s fun s c =>
    let target := c.regs.uni w.a.num
    if w.m.getLsbD 0 ∧ s.time < target.toNat ∧ c.w.role ≠ 2 then
      .held (s.setGroup c.k { c.g with wait := .clock target w.d.num })
    else c.sampleClock s w.d.num
/-- The hold of CLOCK.until ends (R165): the values are sampled and the plane's word is done. -/
def execClockUntilExpiry (core slot : Nat) (s : State) : Host.Outcome State Fault Refusal :=
  match s.groups.get? (gid core slot) with
  | some g =>
    match g.wait with
    | .clock target d =>
      if s.time < target.toNat then .fault .notEnabled
      else
        let s := (s.setGroup (gid core slot) { g with wait := .none }).wake core wakeTimer
        match s.ctxOf core slot (lowPlane (g.todo.getD 0)) false with
        | some c =>
          .next (c.finish s (.clock ⟨.always, .s (BitVec.ofNat 6 d), .v 0, .v 0, .v 0, 1⟩) false
            (match c.sampleClock s d with
            | .next s => .resumed s
            | r => r))
        | none => .fault .notEnabled
    | _ => .fault .notEnabled
  | none => .fault .notEnabled

/-- Whether a word's access makes CHKERR wait: loads, UPDR, UCAS and logged entries (R166). -/
def Access.chkWaits (a : Access) : Bool :=
  match a.word with
  | .st _ | .stu _ | .upd _ | .vismax _ | .ist _ | .hgs _ | .discard _ => (match a.phase with
    | .inflight | .stalled => false
    | _ => true)
  | _ => true
/-- CHKERR (R166). -/
def execChkerr (w : RRR) (s : State) : Host.Outcome State Fault Refusal :=
  issue (.chkerr w) s fun s c =>
    if (s.accsOf c.g.wg c.g.gi).any fun x => x.2.chkWaits then .hold
    else if w.m.getLsbD 0 then
      if c.g.chk.poison then .trapNext Cause.poisonConsumed.code c.g.exec (c.g.chk.firstVa.zeroExtend 64) 0
      else .next s
    else .next (s.updRegs c.k fun r => r.fillPred w.d.num c.g.exec c.g.chk.poison)

/-- Role-0 members of schedule (w0, w1) among n (R370). -/
def roleZero (n w0 w1 : Nat) : Nat := max 1 (min (n - 1) ((2 * n * w0 + w0 + w1) / (2 * (w0 + w1))))
/-- The schedule with the least predicted phase time; predictions are exact rationals num/den (R370). -/
def selectPhase (n : Nat) (scheds : List (Nat × Nat)) (cur t0 t1 : Nat) : Nat :=
  let role (i : Nat) : Nat := roleZero n (scheds.getD i (1, 1)).1 (scheds.getD i (1, 1)).2
  let n0 := role cur
  let pred (i : Nat) : Nat × Nat :=
    let a := (t0 * n0, role i)
    let b := (t1 * (n - n0), n - role i)
    if a.1 * b.2 < b.1 * a.2 then b else a
  (List.range scheds.length).foldl (fun best i =>
    if (pred i).1 * (pred best).2 < (pred best).1 * (pred i).2 then i else best) 0
/-- The groups of a neighbourhood. -/
def State.nbhGroups (s : State) (n : Nbh) : List (Nat × Group) := s.groups.filter fun x => n.members.contains x.2.wg
/-- Release a neighbourhood whose groups have all executed PHASE or ended (R167, R370). -/
def State.phaseRelease (s : State) (u : Nat) : State :=
  match s.nbhs.get? u with
  | none => s
  | some n =>
    let gs := s.nbhGroups n
    let held := gs.filter fun x => x.2.wait == .phase
    -- a group of a saved member has abandoned its PHASE and executes it afresh (R366)
    let away := n.members.any fun m => match s.wgs.get? m with
      | some w => w.phase == .saved && w.savedGroups.any fun g => !g.ended
      | none => false
    if held = [] ∨ away ∨ !(gs.all fun x => x.2.ended || x.2.wait == .phase) then s else
    match s.wgs.get? (n.members.headD 0) with
    | none => s
    | some w =>
      let cur := ((held.head?).map fun x => x.2.schedIndex.toNat).getD 0
      let size := w.desc.w * w.desc.h
      let n0 := roleZero size (w.desc.scheds.getD cur (1, 1)).1 (w.desc.scheds.getD cur (1, 1)).2
      let time (role0 : Bool) : Nat := held.foldl (fun m x =>
        match s.wgs.get? x.2.wg with
        | some y => if decide (y.member < n0) = role0 then max m (x.2.phaseTime - n.released) else m
        | none => m) 0
      let index : BitVec 2 := if w.desc.nsched = 0 then 0
        else BitVec.ofNat 2 (selectPhase size (w.desc.scheds.take w.desc.nsched) cur (time true) (time false))
      let s := held.foldl (fun s x =>
        (s.setGroup x.1 { x.2 with schedIndex := index, phaseNo := x.2.phaseNo + 1, wait := .none, todo := some 0 }).advance x.1) s
      { s with nbhs := s.nbhs.set u { n with released := s.time, schedIndex := index, phaseNo := n.phaseNo + 1 } }
/-- PHASE (R167). -/
def execPhase (w : RRR) (s : State) : Host.Outcome State Fault Refusal :=
  issue (.phase w) s fun s c =>
    .moved ((s.setGroup c.k { c.g with wait := .phase, phaseTime := s.time }).phaseRelease c.w.nbh)

/-- PREFC (R169): flash-pending rows are asked for, present ones only come nearer; nothing faults. -/
def execPrefc (w : RI) (s : State) : Host.Outcome State Fault Refusal :=
  issue (.prefc w) s fun s c =>
    let count := min 64 (max 0 (s.uniVal c w.a).toInt).toNat
    let first := (c.o + w.imm.toInt) / 512
    let pages : List Nat := (List.range count).filterMap fun (j : Nat) =>
      let pg : Int := first + j
      if 0 ≤ pg ∧ pg * 512 < c.w.desc.len then some pg.toNat else none
    match s.pasids.get? c.w.pasid with
    | none => .next s
    | some ctx =>
      let vas : List W64 := (pages.map fun pg => (List.range c.w.desc.planes).map fun p =>
        c.w.codeBase + BitVec.ofNat 64 (p * c.w.desc.len * 8 + pg * 4096)).flatten
      .next (vas.foldl (fun s va =>
        match s.walk ctx.root va with
        | .absent e => if Pte.flashPend e then s.logFault ⟨c.w.pasid, va, 3, 0x22, .none⟩ else s
        | _ => s) s)

end Sys2Proof.Machine
end

