-- ==== Sys2Proof/Machine/Image.lean ====
section
/-! DEFINITION. Group 7: texture, hash-grid, ray and mesh instructions (11). -/

namespace Sys2Proof.Machine
open Sys2Proof

/-! ### FP32 codes -/

/-- FP32 operations on codes, rounded once by rne() (R273). -/
def fAdd (a b : Nat) : Nat := FBin.fadd.eval .plain a b
@[inherit_doc fAdd] def fSub (a b : Nat) : Nat := FBin.fsub.eval .plain a b
@[inherit_doc fAdd] def fMul (a b : Nat) : Nat := FBin.fmul.eval .plain a b
@[inherit_doc fAdd] def fDiv (a b : Nat) : Nat := FBin.fdiv.eval .plain a b
/-- The value of an FP32 code. -/
def fNum (a : Nat) : Num := fp32.decode a
/-- The FP32 code of a value, rounded by rne(). -/
def fRne (x : Num) : Nat := fp32.encode .near false x
/-- FP32 codes of constants. -/
def fOne : Nat := 0x3F800000
@[inherit_doc fOne] def fHalf : Nat := 0x3F000000
/-- A rational as a number. -/
def ratio (v : Int) (d : Nat) : Num := .ofInt false v d
/-- The floor of a number as an integer; NaN gives 0, infinities a bound beyond every product of an FP32 value and an axis. -/
def floorInt (x : Num) : Int := x.toIntSat .down (-(2 ^ 200)) (2 ^ 200)
/-- Whether a number is infinite. -/
def isInfNum (x : Num) : Bool :=
  match x with
  | .inf _ => true
  | _ => false
/-- Comparisons of codes on the numbers; a NaN compares false. -/
def fLt (a b : Nat) : Bool := (fNum a).lt (fNum b)
@[inherit_doc fLt] def fLe (a b : Nat) : Bool := (fNum a).lt (fNum b) || (fNum a).beq (fNum b)
/-- The code with its sign cleared. -/
def fAbs (a : Nat) : Nat := a % 2 ^ 31
/-- The code with its sign changed. -/
def fNeg (a : Nat) : Nat := if a / 2 ^ 31 % 2 = 1 then a - 2 ^ 31 else a + 2 ^ 31

/-! ### The texture descriptor (R274–R277) -/

/-- The fields of a texture descriptor (R275). -/
structure TexDesc where
  base : Nat
  fmt : Nat
  dim : Nat
  w : Nat
  h : Nat
  dm1 : Nat
  lm1 : Nat
  filter : Nat
  mip : Nat
  aniso : Nat
  mu : Nat
  mv : Nat
  mw : Nat
  bias : Int
  minLod : Nat
  maxLod : Nat
  border : Nat
  reserved : Bool
  deriving DecidableEq, Repr

/-- Bits [lo + n − 1 : lo] of a number. -/
def bitsOf (x lo n : Nat) : Nat := x / 2 ^ lo % 2 ^ n
/-- A texture descriptor from its 64 bytes as one number (R275). -/
def TexDesc.ofBits (x : Nat) : TexDesc :=
  let w (i : Nat) : Nat := bitsOf x (64 * i) 64
  { base := bitsOf (w 0) 0 48, fmt := bitsOf (w 0) 48 8, dim := bitsOf (w 0) 56 3,
    w := bitsOf (w 1) 0 16 + 1, h := bitsOf (w 1) 16 16 + 1, dm1 := bitsOf (w 1) 32 12, lm1 := bitsOf (w 1) 44 4,
    filter := bitsOf (w 2) 0 1, mip := bitsOf (w 2) 1 1, aniso := bitsOf (w 2) 2 3,
    mu := bitsOf (w 2) 5 3, mv := bitsOf (w 2) 8 3, mw := bitsOf (w 2) 11 3,
    bias := (BitVec.ofNat 16 (bitsOf (w 2) 16 16)).toInt, minLod := bitsOf (w 2) 32 8, maxLod := bitsOf (w 2) 40 8,
    border := bitsOf (w 3) 0 2,
    reserved := decide (bitsOf (w 0) 59 5 ≠ 0) || decide (bitsOf (w 1) 48 16 ≠ 0) || decide (bitsOf (w 2) 14 2 ≠ 0)
      || decide (bitsOf (w 2) 48 16 ≠ 0) || decide (bitsOf (w 3) 2 62 ≠ 0) || decide (bitsOf x 256 256 ≠ 0) }
/-- Bytes of a texel by FORMAT; 0 for an undefined one (R276). -/
def texBytes (fmt : Nat) : Nat :=
  match fmt with
  | 1 | 2 | 3 | 5 | 0x0A => 4
  | 4 => 8
  | 6 => 16
  | 7 => 1
  | 8 | 9 => 2
  | _ => 0
/-- Whether DIM is a cube or a cube array. -/
def TexDesc.cube (t : TexDesc) : Bool := t.dim == 3 || t.dim == 4
/-- Depth of level 0 of a 3D texture, else 1. -/
def TexDesc.depth (t : TexDesc) : Nat := if t.dim = 2 then t.dm1 + 1 else 1
/-- Layers of an array. -/
def TexDesc.layers (t : TexDesc) : Nat := if t.dim = 1 ∨ t.dim = 4 then t.dm1 + 1 else 1
/-- Width and height of a level (R277). -/
def TexDesc.wl (t : TexDesc) (l : Nat) : Nat := max 1 (t.w / 2 ^ l)
@[inherit_doc TexDesc.wl] def TexDesc.hl (t : TexDesc) (l : Nat) : Nat := max 1 (t.h / 2 ^ l)
/-- Slices of a level (R277). -/
def TexDesc.zl (t : TexDesc) (l : Nat) : Nat :=
  match t.dim with
  | 2 => max 1 (t.depth / 2 ^ l)
  | 1 => t.layers
  | 3 => 6
  | 4 => 6 * t.layers
  | _ => 1
/-- Row pitch of a level. -/
def TexDesc.pitch (t : TexDesc) (l : Nat) : Nat := (t.wl l * texBytes t.fmt + 255) / 256 * 256
/-- Byte address of a level. -/
def TexDesc.start (t : TexDesc) (l : Nat) : Nat :=
  (List.range l).foldl (fun a k => a + t.zl k * t.hl k * t.pitch k) t.base
/-- Address of a texel (R277). -/
def TexDesc.texel (t : TexDesc) (l x y z : Nat) : W64 :=
  BitVec.ofNat 64 (t.start l + z * t.pitch l * t.hl l + y * t.pitch l + x * texBytes t.fmt)
/-- The field code of a descriptor that fails a check, the lowest one (R277). -/
def TexDesc.fail (t : TexDesc) (noCube no3d : Bool) : Option Nat :=
  let big := max t.w (max t.h t.depth)
  if texBytes t.fmt = 0 then some 1
  else if 4 < t.dim then some 2
  else if t.base % 256 ≠ 0 then some 3
  else if big.log2 < t.lm1 ∨ (t.cube ∧ t.w ≠ t.h) then some 4
  else if 3 < t.mu ∨ 3 < t.mv ∨ 3 < t.mw then some 5
  else if 4 < t.aniso ∨ t.border = 3 then some 6
  else if t.maxLod < t.minLod then some 7
  else if t.reserved then some 8
  else if (noCube && t.cube) || (no3d && t.dim == 2) then some 9
  else none

/-- A texel's four channels in FP32 (R276). -/
def texChannels (fmt raw : Nat) : List Nat :=
  let un (lo n : Nat) : Nat := fRne (.fin false (bitsOf raw lo n) (2 ^ n - 1))
  let fl (f : Fmt) (lo : Nat) : Nat := fRne (f.decode (bitsOf raw lo f.width))
  match fmt with
  | 1 => [un 0 8, un 8 8, un 16 8, un 24 8]
  | 2 => [un 16 8, un 8 8, un 0 8, un 24 8]
  | 3 => [fl fp16 0, fl fp16 16, 0, fOne]
  | 4 => [fl fp16 0, fl fp16 16, fl fp16 32, fl fp16 48]
  | 5 => [un 0 10, un 10 10, un 20 10, un 30 2]
  | 6 => [fl fp32 0, fl fp32 32, fl fp32 64, fl fp32 96]
  | 7 => [un 0 8, 0, 0, fOne]
  | 8 => [un 0 16, 0, 0, fOne]
  | 9 => [fl fp16 0, 0, 0, fOne]
  | _ => [fl fp32 0, 0, 0, fOne]
/-- The BORDER value (R275). -/
def borderOf (b : Nat) : List Nat :=
  match b with
  | 0 => [0, 0, 0, 0]
  | 1 => [0, 0, 0, fOne]
  | _ => [fOne, fOne, fOne, fOne]

/-! ### Addressing and filtering (R278–R280) -/

/-- A texel index placed by an axis's mode; none reads the border (R278). -/
def placeIndex (mode n : Nat) (i : Int) : Option Nat :=
  match mode with
  | 0 => some (i % (n : Int)).toNat
  | 1 =>
    let k := (i % (2 * n : Int)).toNat
    some (if n ≤ k then 2 * n - 1 - k else k)
  | 2 => some (max 0 (min ((n : Int) - 1) i)).toNat
  | _ => if 0 ≤ i ∧ i < n then some i.toNat else none
/-- The texel indices along an axis with their exact weights: one for nearest, two for bilinear (R278). -/
def axisTaps (filter mode n : Nat) (u : Num) : List (Option Nat × Num) :=
  let t := match u with
    | .nan => Num.fin false 0 1
    | x => x.mul (ratio n 1)
  let inf := isInfNum t && decide (mode < 2)
  let at_ (i : Int) (j : Nat) : Option Nat := if inf then some (Config.infTexel (2 * n + j) % n) else placeIndex mode n i
  if filter = 0 then [(at_ (floorInt t) 0, ratio 1 1)]
  else
    let h := t.add .near (ratio (-1) 2)
    let i0 := floorInt h
    let a := if isInfNum t then (Config.infWeight n % 256 : Int)
      else floorInt ((h.add .near (ratio (-i0) 1)).mul (ratio 256 1))
    [(at_ i0 0, ratio (256 - a) 256), (at_ (i0 + 1) 1, ratio a 256)]
/-- A layer coordinate: rne() to an integer, clamped (R278). -/
def layerOf (layers : Nat) (v : Num) : Nat := (v.toIntSat .near 0 ((layers : Int) - 1)).toNat
/-- One tap of a sample: its texel's address, or none for the border, and its weight. -/
abbrev Tap := Option W64 × Num
/-- The taps of a sample at a level: axis u fastest (R279). -/
def TexDesc.taps (t : TexDesc) (l : Nat) (us vs ws : List (Option Nat × Num)) (slice : Option Nat) : List Tap :=
  (ws.map fun (z, c) => (vs.map fun (y, b) => us.map fun (x, a) =>
    let z := match slice with
      | some k => some k
      | none => z
    (match x, y, z with
      | some x, some y, some z => some (t.texel l x y z)
      | _, _, _ => none, (a.mul b).mul c)).flatten).flatten
/-- The face and face coordinates of a cube direction (R279). -/
def cubeFace (x y z : Nat) : Nat × Nat × Nat :=
  let (ax, ay, az) := (fAbs x, fAbs y, fAbs z)
  let neg (a : Nat) : Bool := a / 2 ^ 31 % 2 == 1
  let (face, sc, tc, ma) :=
    if !fLt az ay && !fLt az ax then (if neg z then (5, fNeg x, fNeg y, az) else (4, x, fNeg y, az))
    else if !fLt ay ax then (if neg y then (3, x, fNeg z, ay) else (2, x, z, ay))
    else if neg x then (1, z, fNeg y, ax) else (0, fNeg z, fNeg y, ax)
  let coord (s : Nat) : Nat := fMul (fAdd (fDiv s ma) fOne) fHalf
  (face, coord sc, coord tc)
/-- The taps of one sample at a level for coordinate codes (R278, R279). -/
def TexDesc.sampleTaps (t : TexDesc) (l : Nat) (co : Nat → Nat) : List Tap :=
  let one : List (Option Nat × Num) := [(some 0, ratio 1 1)]
  if t.cube then
    let (f, u, v) := cubeFace (co 0) (co 1) (co 2)
    let layer := if t.dim = 4 then layerOf t.layers (fNum (co 3)) else 0
    t.taps l (axisTaps t.filter 2 (t.wl l) (fNum u)) (axisTaps t.filter 2 (t.hl l) (fNum v)) one (some (6 * layer + f))
  else
    let us := axisTaps t.filter t.mu (t.wl l) (fNum (co 0))
    let vs := axisTaps t.filter t.mv (t.hl l) (fNum (co 1))
    match t.dim with
    | 2 => t.taps l us vs (axisTaps t.filter t.mw (t.zl l) (fNum (co 2))) none
    | 1 => t.taps l us vs one (some (layerOf t.layers (fNum (co 2))))
    | _ => t.taps l us vs one none
/-- Reading of the channels of a tap. -/
def TexDesc.tapValue (t : TexDesc) (rd : W64 → Nat → Nat) (x : Tap) : List Nat :=
  match x.1 with
  | some a => texChannels t.fmt (rd a (texBytes t.fmt))
  | none => borderOf t.border
/-- The filtered channels of a sample: one FFMA for each corner, or the texel itself (R279). -/
def TexDesc.filterTaps (t : TexDesc) (rd : W64 → Nat → Nat) (taps : List Tap) : List Nat :=
  if t.filter = 0 then t.tapValue rd (taps.headD (none, ratio 0 1))
  else taps.foldl (fun s x =>
    List.zipWith (fun v s => fRne (((fNum v).mul x.2).add .near (fNum s))) (t.tapValue rd x) s) [0, 0, 0, 0]

/-- Levels and sample positions of a TEX (R280): coordinates of each sample, the first level, and the fraction in
256ths of the next level. -/
structure TexPlan where
  coords : List (Nat → Nat)
  level : Nat
  frac : Nat

/-- The least number of doublings of 1 that reaches a ratio, at most `k`. -/
def doublings (r : Num) : Nat → Nat → Nat
  | 0, n => n
  | k + 1, n => if !(ratio (2 ^ n) 1).lt r && !r.isNan then n else doublings r k (n + 1)
/-- The plan of one lane (R280): `co` are its coordinates, `lod` its LOD or gradient registers, as codes. -/
def TexDesc.plan (t : TexDesc) (lodm : Nat) (co lod : Nat → Nat) : TexPlan :=
  let bias := fRne (ratio t.bias 256)
  let lam0 : Nat × Nat × (Nat → Nat) :=
    match lodm with
    | 0 => (0, 0, fun _ => 0)
    | 1 => (fAdd (lod 0) bias, 0, fun _ => 0)
    | _ =>
      let n := if t.dim = 2 then 3 else 2
      let size (i : Nat) : Nat := fRne (ratio (if i = 0 then t.w else if i = 1 then t.h else t.depth) 1)
      let len (k : Nat) : Nat :=
        let sq (i : Nat) : Nat := let p := fMul (lod (k + i)) (size i); fMul p p
        let s := fAdd (sq 0) (sq 1)
        FUn.fsqrt.eval .plain (if n = 3 then fAdd s (sq 2) else s)
      let (px, py) := (len 0, len n)
      let yMax := fLt px py
      let (pmax, pmin) := if yMax then (py, px) else (px, py)
      let logN := if (fNum pmin).isZero then t.aniso else doublings ((fNum pmax).div (fNum pmin)) t.aniso 0
      (fAdd (FUn.flog2.eval .plain (fRne ((fNum pmax).div (ratio (2 ^ logN) 1)))) bias, logN,
        fun i => if i < n then lod (if yMax then n + i else i) else 0)
  let lam :=
    let x := lam0.1
    let mn := fRne (ratio t.minLod 16)
    let mx := fRne (ratio t.maxLod 16)
    let x := if (fNum x).isNan then mn else if fLt x mn then mn else if fLt mx x then mx else x
    let top := fRne (ratio t.lm1 1)
    if fLt x 0 then 0 else if fLt top x then top else x
  let n := 2 ^ lam0.2.1
  let coords : List (Nat → Nat) :=
    if n = 1 then [co]
    else (List.range n).map fun (i : Nat) => fun (j : Nat) =>
      if j < (if t.dim = 2 then 3 else 2) then
        fAdd (co j) (fRne ((fNum (lam0.2.2 j)).mul (ratio (2 * (i : Int) + 1 - (n : Int)) (2 * n))))
      else co j
  if t.mip = 0 then ⟨coords, (floorInt (fNum (fAdd lam fHalf))).toNat, 0⟩
  else
    let l0 := (floorInt (fNum lam)).toNat
    ⟨coords, l0, if l0 = t.lm1 then 0 else (floorInt (((fNum lam).add .near (ratio (-(l0 : Int)) 1)).mul (ratio 256 1))).toNat⟩
/-- All the taps a plan reads: for each sample the first level and, with a fraction, the next. -/
def TexDesc.planTaps (t : TexDesc) (p : TexPlan) : List (List Tap × List Tap) :=
  p.coords.map fun co => (t.sampleTaps p.level co, if p.frac = 0 then [] else t.sampleTaps (p.level + 1) co)
/-- The result of a plan (R280). -/
def TexDesc.planValue (t : TexDesc) (rd : W64 → Nat → Nat) (p : TexPlan) : List Nat :=
  let f := ratio p.frac 256
  let samples := (t.planTaps p).map fun (a, b) =>
    let s := t.filterTaps rd a
    if p.frac = 0 then s
    else List.zipWith (fun s s1 =>
      fRne (((fNum s1).mul f).add .near (fNum (fRne ((fNum s).mul (ratio (256 - p.frac : Int) 256)))))) s (t.filterTaps rd b)
  let sum := samples.tail.foldl (fun a s => List.zipWith fAdd a s) (samples.headD [])
  if samples.length ≤ 1 then sum else sum.map fun x => fRne ((fNum x).mul (ratio 1 samples.length))

/-! ### The texture instructions (R281–R285) -/

/-- The descriptor's element of a word. -/
def descEl (mask : Mask) (a : W64) : List (Nat × W64 × Nat) := ((lanesOf mask).take 1).map fun l => (l, a, 64)
/-- A deferred TEX_DESC or HG_DESC: the lanes, the descriptor's address, the field code (R274). -/
def descCause (c : Cause) (mask : Mask) (a : W64) (code : Nat) : BitVec 8 × Mask × W64 × W64 := (c.code, mask, a, BitVec.ofNat 64 code)
/-- A texture's descriptor as read, or its cause. -/
def texRead (rd : W64 → Nat → Nat) (mask : Mask) (a : W64) (noCube no3d : Bool) : Except (BitVec 8 × Mask × W64 × W64) TexDesc :=
  if a.toNat % 64 ≠ 0 then .error (descCause .texDesc mask a 0)
  else
    let t := TexDesc.ofBits (rd a 64)
    match t.fail noCube no3d with
    | some code => .error (descCause .texDesc mask a code)
    | none => .ok t
/-- Destinations of four channels, packed to FP16 with .h (R281). -/
def texWrites (d lane : Nat) (half : Bool) (v : List Nat) : RegWrites :=
  if half then
    let h (i : Nat) : Nat := fp16.encode .near false (fNum (v.getD i 0))
    [(.v, d, lane, BitVec.ofNat 64 (h 0 + h 1 * 2 ^ 16)), (.v, d + 1, lane, BitVec.ofNat 64 (h 2 + h 3 * 2 ^ 16))]
  else (List.range 4).map fun i => (.v, d + i, lane, BitVec.ofNat 64 (v.getD i 0))
/-- Elements of the taps of a lane. -/
def tapEls (lane n : Nat) (taps : List Tap) : List (Nat × W64 × Nat) := taps.filterMap fun x => x.1.map fun a => (lane, a, n)
/-- The value of an operand of TLD, TDIM and IST's level in a lane. -/
def levelOf (r : Regs) (o : Opnd) (lane : Nat) : Nat :=
  match o with
  | .v n => (r.vec n.toNat lane).toNat
  | .s n => (r.uni n.toNat).toNat % 2 ^ 32
  | .imm k => (BitVec.ofInt 32 (inlineVal k)).toNat
  | _ => 0
/-- A texel addressed by integers, if level and coordinates are in range (R282). -/
def TexDesc.texelAt (t : TexDesc) (r : Regs) (b lane level : Nat) : Option W64 :=
  let x := (r.vec b lane).toInt
  let y := (r.vec (b + 1) lane).toInt
  let z := if t.dim = 0 then 0 else (r.vec (b + 2) lane).toInt
  if t.lm1 < level then none
  else if 0 ≤ x ∧ x < t.wl level ∧ 0 ≤ y ∧ y < t.hl level ∧ 0 ≤ z ∧ z < t.zl level then
    some (t.texel level x.toNat y.toNat z.toNat)
  else none

/-- A lane-wise image load from what it reads: the descriptor, then elements and values of each lane. -/
def texProg (r : Regs) (mask : Mask) (w : RRR) (noCube no3d : Bool) (nd : Nat)
    (els : TexDesc → Nat → List (Nat × W64 × Nat)) (val : TexDesc → (W64 → Nat → Nat) → Nat → RegWrites) : LoadProg :=
  let a := r.uni w.a.num
  { scope := 0,
    rounds := [fun _ => if a.toNat % 64 ≠ 0 then [] else descEl mask a,
      fun rd => match texRead rd mask a noCube no3d with
        | .ok t => ((lanesOf mask).map (els t)).flatten
        | .error _ => []],
    result := fun rd => match texRead rd mask a noCube no3d with
      | .ok t => .ok ((lanesOf mask).map (val t rd)).flatten
      | .error e => .error e,
    zeros := ((lanesOf mask).map fun l => (List.range nd).map fun i => (RegFile.v, w.d.num + i, l, (0 : W64))).flatten }
/-- TEX from its captured registers (R281). -/
def texWordProg (r : Regs) (mask : Mask) (w : RRR) : LoadProg :=
  let plan (t : TexDesc) (l : Nat) : TexPlan :=
    t.plan (w.m3 % 4) (fun i => (r.vec (w.b.num + i) l).toNat) fun i => (r.vec (w.c.num + i) l).toNat
  texProg r mask w (w.m3 % 4 == 2) false (if w.m.getLsbD 2 then 2 else 4)
    (fun t l => ((t.planTaps (plan t l)).map fun x => tapEls l (texBytes t.fmt) (x.1 ++ x.2)).flatten)
    (fun t rd l => texWrites w.d.num l (w.m.getLsbD 2) (t.planValue rd (plan t l)))
/-- TLD from its captured registers (R282). -/
def tldProg (r : Regs) (mask : Mask) (w : RRR) : LoadProg :=
  let at_ (t : TexDesc) (l : Nat) := t.texelAt r w.b.num l (levelOf r w.c l)
  texProg r mask w false false (if w.m.getLsbD 2 then 2 else 4)
    (fun t l => tapEls l (texBytes t.fmt) [(at_ t l, ratio 1 1)])
    (fun t rd l => texWrites w.d.num l (w.m.getLsbD 2) (match at_ t l with
      | some a => texChannels t.fmt (rd a (texBytes t.fmt))
      | none => [0, 0, 0, 0]))
/-- TGATH from its captured registers (R283): the bilinear footprint whatever FILTER says. -/
def tgathProg (r : Regs) (mask : Mask) (w : RRR) : LoadProg :=
  let taps (t : TexDesc) (l : Nat) := { t with filter := 1 }.sampleTaps 0 fun i => (r.vec (w.b.num + i) l).toNat
  texProg r mask w true true 4
    (fun t l => tapEls l (texBytes t.fmt) (taps t l))
    (fun t rd l => texWrites w.d.num l false ((taps t l).map fun x => (t.tapValue rd x).getD (w.m3 % 4) 0))
/-- TDIM from its captured registers (R284). -/
def tdimProg (r : Regs) (mask : Mask) (w : RRR) : LoadProg :=
  texProg r mask w false false 4 (fun _ _ => [])
    (fun t _ l =>
      let k := levelOf r w.c l
      let z := if t.dim = 3 then 1 else t.zl k
      let v := if t.lm1 < k then [0, 0, 0] else [t.wl k, t.hl k, z]
      texWrites w.d.num l false (v ++ [t.lm1 + 1]))

/-- The precise cause of a descriptor's address, which is checked only when it is used: one off 64 bytes is not read (R208,
R273). -/
def Ctx.descCause (c : Ctx) (s : State) (els : List (Nat × W64 × Nat)) : Option (Cause × Mask × W64 × W64) :=
  s.memCause c.w 0 false none (if els.any fun x => x.2.1.toNat % 64 ≠ 0 then [] else els)
/-- Issue an image load: its descriptor's address is checked; its accesses keep the group's program order with every texel
or table byte that they are known to read (R323, R397). -/
def Ctx.imageLoad (c : Ctx) (s : State) (i : Instr) (w : RRR) (dests : List RegSpan) (els : List (Nat × W64 × Nat)) (p : LoadProg) : Res :=
  let part := c.part w.g
  if part = 0 then .next s else
  match c.descCause s els with
  | some (cause, lanes, addr, extra) => .cause cause lanes addr extra
  | none =>
    let all := s.roundEls c.w c.g.gi (s.readVa c.w c.g.gi 0 p.scope) p.rounds
    if s.memBlocked c.g.wg c.g.gi || s.overlaps c.g.wg c.g.gi all then .hold
    else c.load s i part all false dests p
/-- TEX (R281). -/
def execTex (w : RRR) (s : State) : Host.Outcome State Fault Refusal :=
  issue (.tex w) s fun s c =>
    c.imageLoad s (.tex w) w (Slot.spans (.vecs (if w.m.getLsbD 2 then 2 else 4) w.d))
      (descEl (c.part w.g) (c.regs.uni w.a.num)) (texWordProg c.regs (c.part w.g) w)
/-- TLD (R282). -/
def execTld (w : RRR) (s : State) : Host.Outcome State Fault Refusal :=
  issue (.tld w) s fun s c =>
    c.imageLoad s (.tld w) w (Slot.spans (.vecs (if w.m.getLsbD 2 then 2 else 4) w.d))
      (descEl (c.part w.g) (c.regs.uni w.a.num)) (tldProg c.regs (c.part w.g) w)
/-- TGATH (R283). -/
def execTgath (w : RRR) (s : State) : Host.Outcome State Fault Refusal :=
  issue (.tgath w) s fun s c =>
    c.imageLoad s (.tgath w) w (Slot.spans (.vecs 4 w.d))
      (descEl (c.part w.g) (c.regs.uni w.a.num)) (tgathProg c.regs (c.part w.g) w)
/-- TDIM (R284). -/
def execTdim (w : RRR) (s : State) : Host.Outcome State Fault Refusal :=
  issue (.tdim w) s fun s c =>
    c.imageLoad s (.tdim w) w (Slot.spans (.vecs 4 w.d))
      (descEl (c.part w.g) (c.regs.uni w.a.num)) (tdimProg c.regs (c.part w.g) w)

/-- A texel's bytes from FP32 channels, as one number (R285). -/
def texEncode (fmt : Nat) (v : List Nat) : Nat :=
  let un (i n : Nat) : Nat := match fNum (v.getD i 0) with
    | .nan => 0
    | x => ((x.mul (ratio (2 ^ n - 1) 1)).toIntSat .near 0 (2 ^ n - 1)).toNat
  let fl (f : Fmt) (i : Nat) : Nat := f.encode .near false (fNum (v.getD i 0))
  match fmt with
  | 1 => un 0 8 + un 1 8 * 2 ^ 8 + un 2 8 * 2 ^ 16 + un 3 8 * 2 ^ 24
  | 2 => un 2 8 + un 1 8 * 2 ^ 8 + un 0 8 * 2 ^ 16 + un 3 8 * 2 ^ 24
  | 3 => fl fp16 0 + fl fp16 1 * 2 ^ 16
  | 4 => fl fp16 0 + fl fp16 1 * 2 ^ 16 + fl fp16 2 * 2 ^ 32 + fl fp16 3 * 2 ^ 48
  | 5 => un 0 10 + un 1 10 * 2 ^ 10 + un 2 10 * 2 ^ 20 + un 3 2 * 2 ^ 30
  | 6 => fl fp32 0 + fl fp32 1 * 2 ^ 32 + fl fp32 2 * 2 ^ 64 + fl fp32 3 * 2 ^ 96
  | 7 => un 0 8
  | 8 => un 0 16
  | 9 => fl fp16 0
  | _ => fl fp32 0
/-- The texels an IST writes: lane, address and bytes, and their values. -/
def istStores (r : Regs) (mask : Mask) (w : RRR) (t : TexDesc) : List ((Nat × W64 × Nat) × Nat) :=
  (lanesOf mask).filterMap fun l => (t.texelAt r w.b.num l (levelOf r w.c l)).map fun a =>
    ((l, a, texBytes t.fmt), texEncode t.fmt ((List.range 4).map fun i => (r.vec (w.d.num + i) l).toNat))
/-- The descriptor's elements of an IST or HGS: none where its address is off 64 bytes. -/
def descRead (mask : Mask) (va : W64) : List (Nat × W64 × Nat) := if va.toNat % 64 ≠ 0 then [] else descEl mask va
/-- The texels of an IST as units: lane, address, and a texel's bytes as values. -/
def istUnits (r : Regs) (mask : Mask) (w : RRR) (t : TexDesc) : List UUnit :=
  (istStores r mask w t).map fun ((l, a, n), v) =>
    ⟨l, a, 6, 0, (List.range n).map fun k => BitVec.ofNat 64 (v / 2 ^ (8 * k) % 256), 0, []⟩
/-- Element and value of a texel's unit. -/
def UUnit.texel (u : UUnit) : (Nat × W64 × Nat) × Nat := ((u.lane, u.addr, u.vals.length), leNat (u.vals.map (·.truncate 8)))
/-- The elements an IST touches: its descriptor, and its texels where the descriptor translates (R323). -/
def State.istEls (s : State) (w : Wg) (gi : Nat) (r : Regs) (mask : Mask) (x : RRR) : List (Nat × W64 × Nat) :=
  s.roundEls w gi (s.readVa w gi 0 0) [fun _ => descRead mask (r.uni x.a.num), fun rd =>
    match texRead rd mask (r.uni x.a.num) false false with
    | .ok t => (istStores r mask x t).map (·.1)
    | .error _ => []]
/-- Try to perform an IST: its descriptor is read as a load, unless its texels are known already, and its texels are written
as stores (R273, R285). -/
def State.performIst (s : State) (id : Nat) (a : Access) (w : Wg) (x : RRR) : Attempt :=
  if a.formed then
    let st := a.units.map UUnit.texel
    s.performStore id { a with els := st.map (·.1) } w 0 (st.map (·.2))
  else
  let rd := s.readVa w a.gi 0 0
  let at_ := a.regs.uni x.a.num
  match s.resolveRounds w a.gi rd [fun _ => descRead a.mask at_] with
  | .error e => e
  | .ok (els, places, used) =>
    match texRead rd a.mask at_ false false with
    | .error (c, lanes, addr, extra) => .dead c lanes addr extra
    | .ok t =>
      let st := istStores a.regs a.mask x t
      let poison := s.poisonAt els places
      let s := ((s.touchAll w a.gi used).afterRead w.core 0 places).consume a.wg a.gi id (firstPoison poison)
      s.performStore id { a with els := st.map (·.1) } w 0 (st.map (·.2))
/-- Perform an IST at once if it translates. -/
def State.istNow (s : State) (k : Nat) (a : Access) (w : Wg) (x : RRR) : State :=
  match s.performIst s.nextId a w x with
  | .done s' => s'
  | _ => s.launchAcc k a []
/-- Width byte and content of an IST's entry: address and texel of each lane that writes one (R340). -/
def istEntry (us : List UUnit) : Nat × List Byte :=
  ((us.head?.map fun u => u.vals.length).getD 0, laneContent (us.map fun u => (u.addr, u.vals.map fun v => (1, v.toNat))))
/-- Make an entry of a pair from what a word's descriptor gives, or its deferred cause, which the lead meets (R340, R347). -/
def Ctx.sendFormed (c : Ctx) (s : State) (a : Access) (x : LvPlace) (n : Nat) (us : Except (BitVec 8 × Mask × W64 × W64) (List UUnit))
    (go : State → List UUnit → Res) : Res :=
  let s := s.consume c.g.wg c.g.gi n (firstPoison x.poison)
  match us with
  | .error (cause, lanes, addr, extra) =>
    if c.w.role = 2 then .next s else .next (s.launchAcc c.k { a with phase := .failed cause lanes addr extra } [])
  | .ok [] => .next s
  | .ok us => go s us
/-- IST (R285). -/
def execIst (w : RRR) (s : State) : Host.Outcome State Fault Refusal :=
  issue (.ist w) s fun s c =>
    let part := c.part w.g
    if part = 0 then .next s else
    match c.descCause s (descEl part (c.regs.uni w.a.num)) with
    | some (cause, lanes, addr, extra) => .cause cause lanes addr extra
    | none =>
      let desc := descRead part (c.regs.uni w.a.num)
      let els := s.istEls c.w c.g.gi c.regs part w
      if s.memBlocked c.g.wg c.g.gi || s.overlaps c.g.wg c.g.gi els then .hold
      else
        let a := c.access (.ist w) part els false
        let units (rd : W64 → Nat → Nat) : Except (BitVec 8 × Mask × W64 × W64) (List UUnit) :=
          (texRead rd part (c.regs.uni w.a.num) false false).map fun t => istUnits c.regs part w t
        let send (s : State) (loc : Bool) (a : Access) (us : List UUnit) : Res :=
          c.send s loc c.g.gi 1 (istEntry us).1 part (istEntry us).2 (us.map fun u => u.texel.1) []
            (fun s => s.istNow c.k a c.w w) (fun s => s) (fun owner => .access a owner)
        if allLocal els || (s.pairOf c.g.wg).isNone then
          send s (allLocal els) a (((units (s.readVa c.w c.g.gi 0 0)).toOption).getD [])
        else match c.descriptor s part desc with
          | .error r => r
          | .ok (s', x) => c.sendFormed s' a x s.nextId (units (placeRd x.bytes)) fun s us =>
              send s false { a with units := us, formed := true } us

/-! ### Hash grids (R286–R290) -/

/-- The fields of a hash-grid descriptor (R286). -/
structure HgDesc where
  table : Nat
  levels : Nat
  dims : Nat
  feats : Nat
  bf : Bool
  logT : Nat
  domain : Nat
  res : List Nat
  reserved : Bool
  deriving DecidableEq, Repr

/-- A hash-grid descriptor from its 64 bytes as one number (R286). -/
def HgDesc.ofBits (x : Nat) : HgDesc :=
  let levels := bitsOf x 48 4 + 1
  { table := bitsOf x 0 48, levels, dims := bitsOf x 52 1 + 2, feats := 2 ^ bitsOf x 53 2, bf := bitsOf x 55 1 == 1,
    logT := bitsOf x 56 5, domain := bitsOf x 61 2, res := (List.range levels).map fun l => bitsOf x (64 + 16 * l) 16,
    reserved := decide (bitsOf x 63 1 ≠ 0) || decide (bitsOf x 320 192 ≠ 0)
      || decide (bitsOf x (64 + 16 * levels) (256 - 16 * levels) ≠ 0) }
/-- The field code of a descriptor that fails a check (R286): NREG as HGF, HGF.h or HGS want it, and whether the
register b + 2 lies within the budget. -/
def HgDesc.fail (t : HgDesc) (nreg : Nat) (half third : Bool) : Option Nat :=
  let n := t.levels * t.feats
  if t.table % 64 ≠ 0 then some 1
  else if t.logT < 10 ∨ 22 < t.logT then some 2
  else if t.domain = 3 then some 3
  else if t.res.any (· == 0) then some 4
  else if t.reserved then some 5
  else if nreg ≠ (if half then (n + 1) / 2 else n) then some 6
  else if t.dims = 3 ∧ !third then some 7
  else none
/-- Read and check a hash-grid descriptor. -/
def hgRead (rd : W64 → Nat → Nat) (mask : Mask) (a : W64) (nreg : Nat) (half third : Bool) :
    Except (BitVec 8 × Mask × W64 × W64) HgDesc :=
  if a.toNat % 64 ≠ 0 then .error (descCause .hgDesc mask a 0)
  else
    let t := HgDesc.ofBits (rd a 64)
    match t.fail nreg half third with
    | some code => .error (descCause .hgDesc mask a code)
    | none => .ok t
/-- A coordinate in its domain (R287): none when the zero domain makes every output of the lane +0. -/
def hgCoord (domain code : Nat) : Option Num :=
  let x := fNum code
  let zero : Num := .fin false 0 1
  let one : Num := .fin false 1 1
  match domain with
  | 0 => some (if x.isNan then zero else if x.lt zero then zero else if one.lt x then one else x)
  | 1 => some (match x with
    | .fin .. => x.add .near (ratio (-(floorInt x)) 1)
    | _ => zero)
  | _ => if x.isNan || x.lt zero || one.lt x then none else some x
/-- The corners of a level: entry index and weight code of each (R287). -/
def HgDesc.corners (t : HgDesc) (l : Nat) (xs : List Num) : List (Nat × Nat) :=
  let n := t.res.getD l 1
  let cf : List (Nat × Nat) := xs.map fun x =>
    let p := fNum (fRne (x.mul (ratio n 1)))
    let c := (floorInt p).toNat
    if c = n then (n - 1, fOne) else (c, fRne (p.add .near (ratio (-(c : Int)) 1)))
  (List.range (2 ^ t.dims)).map fun k =>
    let g (d : Nat) : Nat × Nat :=
      let (c, f) := cf.getD d (0, 0)
      if k / 2 ^ d % 2 = 1 then (c + 1, f) else (c, fSub fOne f)
    let w := fMul (g 0).2 (g 1).2
    let w := if t.dims = 3 then fMul w (g 2).2 else w
    let e2 := if t.dims = 3 then (g 2).1 else 0
    let idx :=
      if (n + 1) ^ t.dims ≤ 2 ^ t.logT then (g 0).1 + (n + 1) * (g 1).1 + (n + 1) ^ 2 * e2
      else
        let h : W32 := BitVec.ofNat 32 (g 0).1 ^^^ (BitVec.ofNat 32 (g 1).1 * 0x85EBCA77)
          ^^^ (BitVec.ofNat 32 e2 * 0xC2B2AE3D)
        h.toNat % 2 ^ t.logT
    (idx, w)
/-- The coordinates of a lane, if its outputs are not all +0. -/
def HgDesc.coords (t : HgDesc) (r : Regs) (b lane : Nat) : Option (List Num) :=
  let xs := (List.range t.dims).map fun d => hgCoord t.domain (r.vec (b + d) lane).toNat
  if xs.all Option.isSome then some (xs.filterMap id) else none
/-- Address of an entry of a level, with features of `n` bytes. -/
def HgDesc.entry (t : HgDesc) (table : Nat) (n l idx : Nat) : W64 :=
  BitVec.ofNat 64 (table + (l * 2 ^ t.logT + idx) * t.feats * n)
/-- Outputs of a lane in FP32 (R287). -/
def HgDesc.outputs (t : HgDesc) (rd : W64 → Nat → Nat) (xs : Option (List Num)) : List Nat :=
  match xs with
  | none => List.replicate (t.levels * t.feats) 0
  | some xs =>
    ((List.range t.levels).map fun l =>
      let cs := t.corners l xs
      (List.range t.feats).map fun j => cs.foldl (fun y (idx, w) =>
        let code := rd (t.entry t.table 2 l idx + BitVec.ofNat 64 (2 * j)) 2
        let feat := ((if t.bf then bf16 else fp16).decode code)
        fRne ((feat.mul (fNum w)).add .near (fNum y))) 0).flatten
/-- HGF from its captured registers (R287). -/
def hgfProg (r : Regs) (mask : Mask) (w : RRR) (vregs : Nat) : LoadProg :=
  let a := r.uni w.a.num
  let half := w.m.getLsbD 7
  let read (rd : W64 → Nat → Nat) := hgRead rd mask a w.nreg half (decide (w.b.num + 2 < vregs))
  { scope := 0,
    rounds := [fun _ => if a.toNat % 64 ≠ 0 then [] else descEl mask a,
      fun rd => match read rd with
        | .ok t => ((lanesOf mask).map fun l => match t.coords r w.b.num l with
          | some xs => ((List.range t.levels).map fun k =>
              (t.corners k xs).map fun (idx, _) => (l, t.entry t.table 2 k idx, 2 * t.feats)).flatten
          | none => []).flatten
        | .error _ => []],
    result := fun rd => match read rd with
      | .ok t => .ok ((lanesOf mask).map fun l =>
          let out := t.outputs rd (t.coords r w.b.num l)
          (List.range w.nreg).map fun i =>
            let v := if half then
                fp16.encode .near false (fNum (out.getD (2 * i) 0))
                  + (if 2 * i + 1 < out.length then fp16.encode .near false (fNum (out.getD (2 * i + 1) 0)) else 0) * 2 ^ 16
              else out.getD i 0
            (RegFile.v, w.d.num + i, l, BitVec.ofNat 64 v)).flatten
      | .error e => .error e,
    zeros := ((lanesOf mask).map fun l => (List.range w.nreg).map fun i => (RegFile.v, w.d.num + i, l, (0 : W64))).flatten }
/-- Whether the third coordinate register of HGF or HGS is pending (R272, R319). -/
def Ctx.thirdPending (c : Ctx) (b : Nat) : Bool := c.g.isPending ⟨.v, b + 2, 1⟩
/-- HGF (R287). -/
def execHgf (w : RRR) (s : State) : Host.Outcome State Fault Refusal :=
  issue (.hgf w) s fun s c =>
    if c.thirdPending w.b.num then .hold else
    c.imageLoad s (.hgf w) w (Slot.spans (.vecs w.nreg w.d)) (descEl (c.part w.g) (c.regs.uni w.a.num))
      (hgfProg c.regs (c.part w.g) w c.w.vregs)

/-- Add a lane's contribution to an entry of a level's combination: entry index and accumulators (R290). -/
def hgAdd (acc : List (Nat × Nat × List Nat)) (lane idx : Nat) (v : List Nat) : List (Nat × Nat × List Nat) :=
  if acc.any fun x => x.1 == idx then
    acc.map fun x => if x.1 = idx then (x.1, x.2.1, List.zipWith fAdd x.2.2 v) else x
  else acc ++ [(idx, lane, v)]
/-- The combined units of an HGS (R290). -/
def hgsUnits (r : Regs) (mask : Mask) (w : RRR) (t : HgDesc) : List UUnit :=
  let table := (r.uni w.c.num).toNat
  ((List.range t.levels).map fun l =>
    let acc := (lanesOf mask).foldl (fun acc lane => match t.coords r w.b.num lane with
      | none => acc
      | some xs => (t.corners l xs).foldl (fun acc (idx, wt) =>
          hgAdd acc lane idx ((List.range t.feats).map fun j => fMul (r.vec (w.d.num + l * t.feats + j) lane).toNat wt)) acc)
      ([] : List (Nat × Nat × List Nat))
    acc.map fun (idx, lane, vs) =>
      ({ lane, addr := t.entry table 4 l idx, op := 0, ty := 4, vals := vs.map fun v => BitVec.ofNat 64 v, cmp := 0, places := [] } : UUnit)).flatten
/-- Form the units of an HGS: its descriptor is read as a load (R290). -/
def State.formHgs (s : State) (a : Access) (w : Wg) (x : RRR) : Except Attempt (List UUnit × List (Nat × W64 × TlbEntry) × Option (Nat × W64)) :=
  let rd := s.readVa w a.gi 0 0
  let at_ := a.regs.uni x.a.num
  match s.resolveRounds w a.gi rd [fun _ => descRead a.mask at_] with
  | .error e => .error e
  | .ok (els, places, used) =>
    match hgRead rd a.mask at_ x.nreg false (decide (x.b.num + 2 < w.vregs)) with
    | .error (c, lanes, addr, extra) => .error (.dead c lanes addr extra)
    | .ok t =>
      match s.resolveUnits w a.gi (hgsUnits a.regs a.mask x t) with
      | .error e => .error e
      | .ok (us, used2) => .ok (us, used ++ used2, (s.poisonAt els places).head?)
/-- The elements of an HGS: its descriptor, and its units where the descriptor translates (R323). -/
def State.hgsEls (s : State) (w : Wg) (gi : Nat) (r : Regs) (mask : Mask) (x : RRR) : List (Nat × W64 × Nat) :=
  s.roundEls w gi (s.readVa w gi 0 0) [fun _ => descRead mask (r.uni x.a.num), fun rd =>
    match hgRead rd mask (r.uni x.a.num) x.nreg false (decide (x.b.num + 2 < w.vregs)) with
    | .ok t => (hgsUnits r mask x t).map fun u => (u.lane, u.addr, 4 * u.vals.length)
    | .error _ => []]
/-- The precise cause of an HGS, the lowest code first: a gradient table off 64 bytes, or its descriptor's address (R180,
R290). -/
def Ctx.hgsCause (c : Ctx) (s : State) (w : RRR) (els : List (Nat × W64 × Nat)) : Option (Cause × Mask × W64 × W64) :=
  if (c.regs.uni w.c.num).toNat % 64 ≠ 0 then some (.alignAtomic, c.part w.g, c.regs.uni w.c.num, 2 + 256 * 64)
  else c.descCause s els
/-- HGS (R289, R290). -/
def execHgs (w : RRR) (s : State) : Host.Outcome State Fault Refusal :=
  issue (.hgs w) s fun s c =>
    let part := c.part w.g
    if part = 0 then .next s
    else if c.thirdPending w.b.num then .hold
    else match c.hgsCause s w (descEl part (c.regs.uni w.a.num)) with
    | some (cause, lanes, addr, extra) => .cause cause lanes addr extra
    | none =>
      let desc := descRead part (c.regs.uni w.a.num)
      let els := s.hgsEls c.w c.g.gi c.regs part w
      if s.memBlocked c.g.wg c.g.gi || s.overlaps c.g.wg c.g.gi els then .hold
      else
        let a := c.access (.hgs w) part els false
        let units (rd : W64 → Nat → Nat) : Except (BitVec 8 × Mask × W64 × W64) (List UUnit) :=
          (hgRead rd part (c.regs.uni w.a.num) w.nreg false (decide (w.b.num + 2 < c.w.vregs))).map fun t => hgsUnits c.regs part w t
        let send (s : State) (loc : Bool) (a : Access) (us : List UUnit) : Res :=
          c.send s loc c.g.gi 2 (w.m.toNat % 256) part (laneContent (us.map fun u => (u.addr, u.data)))
            (us.map fun u => (u.lane, u.addr, 4 * u.vals.length)) []
            (fun s => (s.journalEls c.g.wg c.w (us.map fun u => (u.lane, u.addr, 4 * u.vals.length))).launchAcc c.k a []) (fun s => s)
            (fun owner => .access a owner)
        let loc := allLocal els && isLocal (c.regs.uni w.c.num)
        if loc || (s.pairOf c.g.wg).isNone then send s loc a (((units (s.readVa c.w c.g.gi 0 0)).toOption).getD [])
        else match c.descriptor s part desc with
          | .error r => r
          | .ok (s', x) => c.sendFormed s' a x s.nextId (units (placeRd x.bytes)) fun s us => send s false { a with units := us } us

/-! ### Rays (R291–R294) -/

/-- Address of a node (R292). -/
def nodeAddr (r : Regs) (w : RRR) (ray base lane : Nat) : W64 :=
  let _ := w
  r.uni base + BitVec.ofNat 64 (128 * (r.vec (ray + 8) lane).toNat)
/-- A BVH_NODE cause: the lanes and the lowest one's node (R176, R292). -/
def bvhCause (mask : Mask) (a : W64) : BitVec 8 × Mask × W64 × W64 := (Cause.bvhNode.code, mask, a, 0)
/-- An FP32 word of a node. -/
def nodeWord (rd : W64 → Nat → Nat) (a : W64) (ofs : Nat) : Nat := rd (a + BitVec.ofNat 64 ofs) 4
/-- Near and far distances of a child box along one axis (R293): a NaN counts as −∞ near and +∞ far. -/
def boxAxis (org dir lo hi : Nat) : Num × Num :=
  let inv := FUn.frcp.eval .plain dir
  let t0 := fNum (fMul (fSub lo org) inv)
  let t1 := fNum (fMul (fSub hi org) inv)
  let nr (x : Num) : Num := if x.isNan then .inf true else x
  let fr (x : Num) : Num := if x.isNan then .inf false else x
  (if (nr t1).lt (nr t0) then nr t1 else nr t0, if (fr t0).lt (fr t1) then fr t1 else fr t0)
/-- The larger of two numbers by plain comparison; a NaN on either side gives NaN. -/
def plainMax (x y : Num) : Num := if x.isNan || y.isNan then .nan else if x.lt y then y else x
@[inherit_doc plainMax] def plainMin (x y : Num) : Num := if x.isNan || y.isNan then .nan else if y.lt x then y else x
/-- The four boxes of a node against a lane's ray: hit slots with entry distances, nearest first (R293). -/
def boxHits (rd : W64 → Nat → Nat) (node : W64) (ray : Nat → Nat) : List (Nat × Num) :=
  let hits := (List.range 4).filterMap fun i =>
    let ax (k : Nat) := boxAxis (ray k) (ray (4 + k)) (nodeWord rd node (24 * i + 4 * k)) (nodeWord rd node (24 * i + 12 + 4 * k))
    let near := plainMax (plainMax (plainMax (ax 0).1 (ax 1).1) (ax 2).1) (fNum (ray 3))
    let far := plainMin (plainMin (plainMin (ax 0).2 (ax 1).2) (ax 2).2) (fNum (ray 7))
    if nodeWord rd node (0x60 + 4 * i) ≠ 0xFFFFFFFF ∧ (near.lt far || near.beq far) then some (i, near) else none
  hits.foldl (fun sorted x => sorted.takeWhile (fun y => !x.2.lt y.2) ++ [x] ++ sorted.dropWhile fun y => !x.2.lt y.2) []
/-- RBOX from its captured registers (R293). -/
def rboxProg (r : Regs) (mask : Mask) (w : RRR) : LoadProg :=
  let base := r.uni w.b.num
  let node (l : Nat) := nodeAddr r w w.a.num w.b.num l
  { scope := 0,
    rounds := [fun _ => if base.toNat % 128 ≠ 0 then [] else (lanesOf mask).map fun l => (l, node l, 128)],
    result := fun rd =>
      if base.toNat % 128 ≠ 0 then .error (bvhCause mask (node ((lanesOf mask).headD 0)))
      else .ok ((lanesOf mask).map fun l =>
        let hits := boxHits rd (node l) fun i => (r.vec (w.a.num + i) l).toNat
        let bits := hits.foldl (fun m x => m + 2 ^ x.1) 0 + hits.length * 2 ^ 4
          + (hits.zipIdx.foldl (fun m (x, j) => m + x.1 * 2 ^ (8 + 2 * j)) 0)
        (RegFile.v, w.d.num, l, BitVec.ofNat 64 bits) ::
          (List.range 4).map fun j => (RegFile.v, w.d.num + 1 + j, l,
            BitVec.ofNat 64 (match hits[j]? with
              | some x => fRne x.2
              | none => 0x7F800000))).flatten,
    zeros := ((lanesOf mask).map fun l => (List.range 5).map fun i => (RegFile.v, w.d.num + i, l, (0 : W64))).flatten }
/-- Issue a ray word: its nodes are known at issue. -/
def Ctx.rayLoad (c : Ctx) (s : State) (i : Instr) (part : Mask) (base : W64) (els : List (Nat × W64 × Nat))
    (dests : List RegSpan) (p : LoadProg) : Res :=
  if part = 0 then .next s else
  c.memIssue s 0 false false none (if base.toNat % 128 ≠ 0 then [(0, base, 0)] else els) (c.load s i part els false dests p)
/-- RBOX (R293). -/
def execRbox (w : RRR) (s : State) : Host.Outcome State Fault Refusal :=
  issue (.rbox w) s fun s c =>
    let part := c.part w.g
    let base := c.regs.uni w.b.num
    let els := (lanesOf part).map fun l => (l, nodeAddr c.regs w w.a.num w.b.num l, 128)
    c.rayLoad s (.rbox w) part base els (Slot.spans (.vecs 5 w.d)) (rboxProg c.regs part w)

/-- A vector of three codes. -/
abbrev Vec3 := Nat × Nat × Nat
/-- Difference, cross and dot product, each operation rounded, left to right (R294). -/
def vSub (a b : Vec3) : Vec3 := (fSub a.1 b.1, fSub a.2.1 b.2.1, fSub a.2.2 b.2.2)
@[inherit_doc vSub] def vCross (a b : Vec3) : Vec3 :=
  (fSub (fMul a.2.1 b.2.2) (fMul a.2.2 b.2.1), fSub (fMul a.2.2 b.1) (fMul a.1 b.2.2), fSub (fMul a.1 b.2.1) (fMul a.2.1 b.1))
@[inherit_doc vSub] def vDot (a b : Vec3) : Nat := fAdd (fAdd (fMul a.1 b.1) (fMul a.2.1 b.2.1)) (fMul a.2.2 b.2.2)
/-- Test a triangle against a ray state of sixteen words; an ANYHIT ray that is DONE tests no more (R294). -/
def triTest (rd : W64 → Nat → Nat) (node : W64) (ray : List Nat × Bool) (i : Nat) : List Nat × Bool :=
  if ray.2 then ray else
  let q (k : Nat) : Nat := ray.1.getD k 0
  let v (j : Nat) : Vec3 :=
    (nodeWord rd node (36 * i + 12 * j), nodeWord rd node (36 * i + 12 * j + 4), nodeWord rd node (36 * i + 12 * j + 8))
  let dir : Vec3 := (q 4, q 5, q 6)
  let e1 := vSub (v 1) (v 0)
  let e2 := vSub (v 2) (v 0)
  let pv := vCross dir e2
  let det := vDot e1 pv
  let flags := q 15
  if (bitsOf flags 9 1 = 1 ∧ fLe det 0) ∨ (fNum det).isZero ∨ (fNum det).isNan then ray
  else
    let sv := vSub (q 0, q 1, q 2) (v 0)
    let qv := vCross sv e1
    let u := fDiv (vDot sv pv) det
    let w := fDiv (vDot dir qv) det
    let t := fDiv (vDot e2 qv) det
    if fLe 0 u ∧ fLe 0 w ∧ fLe (fAdd u w) fOne ∧ fLe (q 3) t ∧ fLe t (q 7) ∧ (q 9 = 0xFFFFFFFF ∨ fLt t (q 12)) then
      let h (x : Nat) : Nat := fp16.encode .near false (fNum x)
      let r := (((ray.1.set 9 (nodeWord rd node (0x6C + 4 * i))).set 12 t).set 7 t).set 13 (h u + h w * 2 ^ 16)
      if bitsOf flags 8 1 = 1 then (r.set 15 (if bitsOf flags 10 1 = 1 then flags else flags + 2 ^ 10), true) else (r, false)
    else ray
/-- RTRI from its captured registers (R294). -/
def rtriProg (r : Regs) (mask : Mask) (w : RRR) : LoadProg :=
  let base := r.uni w.a.num
  let node (l : Nat) := nodeAddr r w w.d.num w.a.num l
  let count (rd : W64 → Nat → Nat) (l : Nat) : Nat := nodeWord rd (node l) 0x7C % 8
  { scope := 0,
    rounds := [fun _ => if base.toNat % 128 ≠ 0 then [] else (lanesOf mask).map fun l => (l, node l, 128)],
    result := fun rd =>
      let bad := (lanesOf mask).filter fun l => decide (3 < count rd l)
      if base.toNat % 128 ≠ 0 then .error (bvhCause mask (node ((lanesOf mask).headD 0)))
      else match bad with
      | b :: _ => .error (bvhCause (bad.foldl (fun m l => m ||| (1#32 <<< l)) 0) (node b))
      | [] => .ok ((lanesOf mask).map fun l =>
          let ray0 := (List.range 16).map fun i => (r.vec (w.d.num + i) l).toNat
          let ray := ((List.range (count rd l)).foldl (triTest rd (node l)) (ray0, false)).1
          (List.range 16).map fun i => (RegFile.v, w.d.num + i, l, BitVec.ofNat 64 (ray.getD i 0))).flatten,
    zeros := ((lanesOf mask).map fun l => (List.range 16).map fun i => (RegFile.v, w.d.num + i, l, (0 : W64))).flatten }
/-- RTRI (R294). -/
def execRtri (w : RRR) (s : State) : Host.Outcome State Fault Refusal :=
  issue (.rtri w) s fun s c =>
    let part := c.part w.g
    let base := c.regs.uni w.a.num
    let els := (lanesOf part).map fun l => (l, nodeAddr c.regs w w.d.num w.a.num l, 128)
    c.rayLoad s (.rtri w) part base els (Slot.spans (.vecs 16 w.d)) (rtriProg c.regs part w)

/-! ### Mesh output (R295–R297) -/

/-- Key of a word of a vertex or of a primitive in a workgroup's mesh output (R295). -/
def vtxKey (vertex word : Nat) : Nat := vertex * 20 + word
@[inherit_doc vtxKey] def primKey (prim word : Nat) : Nat := 2 ^ 20 + prim * 4 + word
/-- Writes to the mesh output in lane order, or an overflow (R296). -/
def Ctx.meshWrite (c : Ctx) (s : State) (limit : Nat) (els : List (Nat × List (Nat × W32))) : Res :=
  if els = [] then .next s else
  let put (w : Wg) : Wg :=
    let closed := w.committed.isSome || w.desc.maxVtx == 0 || w.desc.maxPrim == 0
    els.foldl (fun w x =>
      if closed ∨ limit ≤ x.1 then { w with meshOvf := true }
      else { w with mesh := x.2.foldl (fun t y => Tab.put 0 t y.1 y.2) w.mesh }) w
  .next { s with wgs := s.wgs.modify c.g.wg put }
/-- MVTX (R295). -/
def execMvtx (w : RRR) (s : State) : Host.Outcome State Fault Refusal :=
  issue (.mvtx w) s fun s c =>
    let word := match w.c with
      | .imm k => (inlineVal k).toNat
      | _ => 0
    c.meshWrite s c.w.desc.maxVtx ((lanesOf (c.part w.g)).map fun l =>
      let v := (c.regs.vec w.a.num l).toNat
      (v, (List.range (w.m3 + 1)).map fun i => (vtxKey v (word + i), c.regs.vec (w.b.num + i) l)))
/-- MPRIM (R295). -/
def execMprim (w : RRR) (s : State) : Host.Outcome State Fault Refusal :=
  issue (.mprim w) s fun s c =>
    c.meshWrite s c.w.desc.maxPrim ((lanesOf (c.part w.g)).map fun l =>
      let p := (c.regs.vec w.a.num l).toNat
      let ind := c.regs.vec w.b.num l
      let x (j : Nat) : W32 := (byteOf ind j).zeroExtend 32
      (p, [(primKey p 0, x 0), (primKey p 1, x 1), (primKey p 2, x 2), (primKey p 3, c.regs.vec w.c.num l)]))
/-- MCOMMIT (R297): the first one counts; a primitive with an index beyond nv is culled by the rasteriser. -/
def execMcommit (w : RRR) (s : State) : Host.Outcome State Fault Refusal :=
  issue (.mcommit w) s fun s c =>
    if c.part w.g = 0 then .next s else
    let nv := (s.uniVal c w.a).toNat % 2 ^ 32
    let np := (s.uniVal c w.b).toNat % 2 ^ 32
    let commit (x : Wg) : Wg :=
      if x.committed.isSome then x else
      let v := min nv x.desc.maxVtx
      let p := min np x.desc.maxPrim
      let cull := (List.range p).any fun i => (List.range 3).any fun j => decide (v ≤ (x.mesh.getD (primKey i j) 0).toNat)
      let ovf := x.meshOvf || decide (x.desc.maxVtx < nv) || decide (x.desc.maxPrim < np) || cull
      { x with committed := some (v, p), meshOvf := ovf }
    .next { s with wgs := s.wgs.modify c.g.wg commit }

end Sys2Proof.Machine
end

