-- ==== Sys2Proof/Machine/Barrier.lean ====
section
/-! DEFINITION. Barrier objects and monitors (09 R234–R241). -/

namespace Sys2Proof.Machine
open Sys2Proof

/-! ### Objects (R234, R235) -/

/-- A byte of a workgroup's scratchpad area, wherever it lies. -/
def State.wgByte (s : State) (w : Wg) (ofs : Nat) : Byte := s.readPlace w.core 2 (w.scrPlace (s.pitchKey w.pitch) ofs)
/-- A little-endian number in a workgroup's scratchpad area. -/
def State.wgRead (s : State) (w : Wg) (ofs n : Nat) : Nat := leNat ((List.range n).map fun k => s.wgByte w (ofs + k))
/-- Write a number in a workgroup's scratchpad area. -/
def State.wgWrite (s : State) (w : Wg) (ofs n v : Nat) : State :=
  ((leBytes n v).zipIdx).foldl (fun s (b, k) => s.writePlace w.core 2 (w.scrPlace (s.pitchKey w.pitch) (ofs + k)) b) s
/-- PHASE of an object. -/
def State.objPhase (s : State) (w : Wg) (b : Nat) : W32 := BitVec.ofNat 32 (s.wgRead w (32 * b) 4)
/-- Whether phase `ph` of an object has passed (R235). -/
def phasePassed (phase ph : W32) : Bool := decide (1 ≤ (phase - ph).toNat) && decide ((phase - ph).toNat ≤ 2 ^ 31 - 1)
/-- What an event on an object leads to. -/
inductive EventRes where
  | ok (s : State) (completed : Bool)
  | barOver
  | bytesOver
  deriving DecidableEq, Repr
/-- event(k_arr, k_bytes), indivisible (R235). -/
def State.barEvent (s : State) (w : Wg) (b kArr kBytes : Nat) : EventRes :=
  let o := 32 * b
  let rem := s.wgRead w (o + 12) 4
  let remB := s.wgRead w (o + 20) 4
  if rem < kArr then .barOver
  else if remB < kBytes then .bytesOver
  else
    let s := s.wgWrite w (o + 12) 4 (rem - kArr)
    let s := s.wgWrite w (o + 20) 4 (remB - kBytes)
    if rem = kArr ∧ remB = kBytes ∧ (0 < kArr ∨ 0 < kBytes) then
      let s := s.wgWrite w o 4 ((s.objPhase w b) + 1).toNat
      let s := s.wgWrite w (o + 12) 4 (s.wgRead w (o + 8) 4)
      .ok (s.wgWrite w (o + 20) 4 (s.wgRead w (o + 16) 4)) true
    else .ok s false
/-- Wake the cores whose groups wait on an object of a workgroup (R326). -/
def State.wakeWaiters (s : State) (wg b : Nat) : State :=
  (s.groups.filter fun x => x.2.wait == .waitp wg b).foldl (fun s x => s.wake (x.1 / 64) wakePhase) s

/-- A member's workgroup number. -/
def State.memberOf (s : State) (w : Wg) (m : Nat) : Option Nat := (s.nbhs.get? w.nbh).bind fun n => n.members[m]?
/-- The object a word names: its workgroup number and record and index, or BAR_INDEX's EXTRA (R236). -/
def Ctx.object (c : Ctx) (s : State) (idx : W64) (m : Option Nat) : Except W64 (Nat × Wg × Nat) :=
  if c.w.desc.barriers ≤ idx.toNat then .error idx
  else match m with
    | none => .ok (c.g.wg, c.w, idx.toNat)
    | some k =>
      match s.memberOf c.w k with
      | none => .error (idx + BitVec.ofNat 64 (256 * k))
      | some u => match s.wgs.get? u with
        | some x => .ok (u, x, idx.toNat)
        | none => .error (idx + BitVec.ofNat 64 (256 * k))
/-- Bits [31:0] of an operand. -/
def Ctx.low32 (c : Ctx) (s : State) (o : Opnd) : Nat := (s.uniVal c o).toNat % 2 ^ 32
/-- Whether an access in flight of the issuing group touches object `b` of a workgroup: a word on the object then waits, as
a group's accesses to one byte keep its program order (R397). One in the operand log holds no barrier word (R323). -/
def Ctx.objectBusy (c : Ctx) (s : State) (w : Wg) (b : Nat) : Bool :=
  (s.accsOf c.g.wg c.g.gi).any fun x => !x.2.inLog &&
    x.2.els.any fun (_, a, n) => meets a n (windowBase + BitVec.ofNat 64 (w.member * w.desc.scratch * 256 + 32 * b)) 32
/-- Issue a barrier word on an object, if a lane takes part (R207, R236). -/
def Ctx.barrier (c : Ctx) (s : State) (w : RRR) (m : Option Nat) (go : Nat → Wg → Nat → Res) : Res :=
  if c.part w.g = 0 then .next s else
  match c.object s (s.uniVal c w.a) m with
  | .error x => .cause .barIndex c.lanes 0 x
  | .ok (u, x, b) => if c.objectBusy s x b then .hold else go u x b
/-- The member operand of a word with .nbh. -/
def Ctx.nbhMember (c : Ctx) (s : State) (w : RRR) : Option Nat :=
  if w.m.getLsbD 0 then some (s.uniVal c w.c).toNat else none

/-- An access that only carries a deferred cause to its group (R171, R235). -/
def deferred (wg gi : Nat) (ofs : BitVec 24) (plane : Nat) (exec lanes : Mask) (pmask cause : BitVec 8) (addr extra : W64) : Access :=
  { wg, gi, word := .pnop, ofs, plane, mask := lanes, exec, pmask, regs := ⟨[], [], []⟩, phase := .failed cause lanes addr extra,
    els := [], mirror := none, place := none, units := [], formed := false, got := [], poison := none, acquire := false }
/-- Add an access that has failed. -/
def State.defer (s : State) (a : Access) : State :=
  { s with accs := s.accs.set s.nextId a, nextId := s.nextId + 1 }

/-- BINIT (R236). -/
def execBinit (w : RRR) (s : State) : Host.Outcome State Fault Refusal :=
  issue (.binit w) s fun s c => c.barrier s w none fun _ x b =>
    let arr := max (c.low32 s w.b) 1
    let o := 32 * b
    let s := s.wgWrite x (o + 4) 4 0
    let s := s.wgWrite x (o + 8) 8 (arr + arr * 2 ^ 32)
    let s := s.wgWrite x (o + 16) 8 (c.low32 s w.c + c.low32 s w.c * 2 ^ 32)
    .next (s.wgWrite x (o + 24) 8 0)
/-- ARRIVE (R236): a release at wg or nbh, then the event; BAR_OVER is deferred. -/
def execArrive (w : RRR) (s : State) : Host.Outcome State Fault Refusal :=
  issue (.arrive w) s fun s c => c.barrier s w (c.nbhMember s w) fun u x b =>
    if s.accsOf c.g.wg c.g.gi != [] || s.redBusy c.g.wg c.g.gi then .hold
    else
      let s := s.release c.core (w.m.toNat % 2)
      let n := c.low32 s w.b
      if n = 0 then .next s else
      match s.barEvent x b n 0 with
      | .ok s done => .next (if done then s.wakeWaiters u b else s)
      | _ => .next (s.defer (deferred c.g.wg c.g.gi c.g.ofs c.plane c.g.exec c.lanes c.g.pmask 0x61 0 (s.uniVal c w.a)))
/-- EXPECT (R236). -/
def execExpect (w : RRR) (s : State) : Host.Outcome State Fault Refusal :=
  issue (.expect w) s fun s c => c.barrier s w none fun _ x b =>
    .next (s.wgWrite x (32 * b + 20) 4 (min (s.wgRead x (32 * b + 20) 4 + c.low32 s w.b) 0xFFFFFFFF))
/-- WAITP (R236): it issues and holds its group until the phase has passed (R325), then acquires. -/
def execWaitp (w : RRR) (s : State) : Host.Outcome State Fault Refusal :=
  issue (.waitp w) s fun s c => c.barrier s w none fun u x b =>
    if phasePassed (s.objPhase x b) (BitVec.ofNat 32 (c.low32 s w.b)) then
      let s := (s.setGroup c.k { c.g with wait := .none }).acquire c.core (w.m.toNat % 2)
      if c.g.wait = .waitp u b then .resumed s else .next s
    else if c.g.wait = .waitp u b then .hold
    else .held (s.setGroup c.k { c.g with wait := .waitp u b })
/-- BPOLL (R236). -/
def execBpoll (w : RRR) (s : State) : Host.Outcome State Fault Refusal :=
  issue (.bpoll w) s fun s c => c.barrier s w none fun _ x b =>
    let ph := s.objPhase x b
    let passed := phasePassed ph (BitVec.ofNat 32 (c.low32 s w.b))
    let v := ph.toNat + (if passed then 2 ^ 32 else 0)
    .next ((s.updRegs c.k fun r => r.setUni w.d.num (BitVec.ofNat 64 v)).acquire c.core (w.m.toNat % 2))

/-! ### Monitors (R238–R241) -/

/-- Apply a monitor's arrival to a workgroup's object; one that finds REMARR 0 is dropped (R238). -/
def State.monArrive (s : State) (wg b : Nat) : State :=
  match s.wgs.get? wg with
  | none => s
  | some w =>
    match s.barEvent w b 1 0 with
    | .ok s done => (if done then s.wakeWaiters wg b else s).wake w.core wakeMonitor
    | _ => s
/-- Apply a monitor's arrival, to both roles of a pair (R336), and free the monitor. -/
def State.fireMonitor (s : State) (id : Nat) (m : Monitor) : State :=
  let s := { s with monitors := s.monitors.del id }
  let s := s.monArrive m.wg m.index
  match s.pairOf m.wg with
  | some (_, p, lead) => s.monArrive (p.role (!lead)).wg m.index
  | none => s
/-- MONITOR_FIRE (R238): a write has covered the word. -/
def execMonitorFire (id : Nat) (s : State) : Host.Outcome State Fault Refusal :=
  match s.monitors.get? id with
  | some m => if m.hit then .next (s.fireMonitor id m) else .fault .notEnabled
  | none => .fault .notEnabled
/-- MONITOR_TIMEOUT (R239): the deadline of a monitor or of a timer-only arrival has come. -/
def execMonitorTimeout (id : Nat) (s : State) : Host.Outcome State Fault Refusal :=
  match s.monitors.get? id with
  | some m =>
    match m.deadline with
    | some t =>
      if t ≤ s.time then
        let s := match s.wgs.get? m.wg with
          | some w => s.wake w.core wakeTimer
          | none => s
        .next (s.fireMonitor id m)
      else .fault .notEnabled
    | none => .fault .notEnabled
  | none => .fault .notEnabled

/-- The monitor a MONA arms at a place, or the timer-only arrival, and the value of P[d] (R239). -/
def State.monitorAt (s : State) (wg gi : Nat) (va : W64) (index timeout : Nat) (p : Place) : Monitor × Bool :=
  let key := p.num
  let reports := match p with
    | .scr .. => true
    | .mem _ _ a => targetOf a == .dram || backInval a
  if decide ((s.monitors.filter fun x => x.2.pa.isSome).length < 1024) && reports then
    ({ wg, gi, va, pa := some key, index, deadline := if timeout = 0 then none else some (s.time + timeout), hit := false }, true)
  else
    ({ wg, gi, va, pa := none, index, deadline := some (s.time + (if timeout = 0 then 2000 else min 2000 timeout)), hit := false }, false)
/-- The object and timeout of a MONA from captured registers. -/
def monaArgs (r : Regs) (w : RRR) : Nat × Nat :=
  let v (o : Opnd) : W64 := match o with
    | .s n => r.uni n.toNat
    | .imm k => BitVec.ofInt 64 (inlineVal k)
    | _ => 0
  ((v w.b).toNat, (v w.c).toNat % 2 ^ 32)
/-- The writes of P[d] in every lane of EXEC. -/
def monaWrites (w : RRR) (exec : Mask) (b : Bool) : RegWrites :=
  (lanesOf exec).map fun l => (RegFile.p, w.d.num, l, if b then 1 else 0)
/-- Try to arm a monitor that stands as access `id` (R238, R239). -/
def State.performMona (s : State) (id : Nat) (a : Access) (w : Wg) (x : RRR) : Attempt :=
  match s.resolve w a.gi 0 a.els with
  | .fault va c => .fault va c
  | .wait va => .wait va
  | .dead c lanes addr extra => .dead c lanes addr (BitVec.ofNat 64 (256 * extra))
  | .ok places used =>
    match places with
    | (_, p :: _) :: _ =>
      let (index, timeout) := monaArgs a.regs x
      let (m, on) := s.monitorAt a.wg a.gi (a.regs.uni x.a.num) index timeout p
      let s := s.touchAll w a.gi used
      let s := { s with monitors := s.monitors.set s.nextId m, nextId := s.nextId + 1 }
      let s := s.fillPlace a.wg a.place ⟨true, a.mask, a.els, [], [], none, [if on then 1 else 0]⟩
      .done ((s.writeDests a.wg a.gi a.ofs id (monaWrites x a.exec on)).dropAcc id)
    | _ => .done (s.dropAcc id)
/-- Arm at once if the word translates, else in flight with P[d] pending. -/
def State.monaNow (s : State) (k : Nat) (a : Access) (w : Wg) (x : RRR) (dests : List RegSpan) : State :=
  -- the access is in place before the attempt, which removes it
  let s1 := s.launchAcc k a dests
  match s1.performMona s.nextId a w x with
  | .done s' => s'
  | _ => s1
/-- MONA (R238): a sweep takes P[d] from its lead (R336). -/
def execMona (w : RRR) (s : State) : Host.Outcome State Fault Refusal :=
  issue (.mona w) s fun s c =>
    if c.part w.g = 0 then .next s else
    let va := c.regs.uni w.a.num
    let els := [((lanesOf c.lanes).headD 0, va, 8)]
    -- the lowest code of the word's causes is taken (R180)
    match s.memCause c.w 0 false (some c.lanes) els with
    | some (cause, lanes, addr, extra) => .cause cause lanes addr extra
    | none =>
      match c.object s (s.uniVal c w.b) none with
      | .error x => .cause .barIndex c.lanes 0 x
      | .ok _ =>
        if va.toNat % 8 ≠ 0 then .cause .monAddr c.lanes va 0
        else if s.overlaps c.g.wg c.g.gi els then .hold
        else
          let dests : List RegSpan := [⟨.p, w.d.num, 1⟩]
          let a := c.access (.mona w) c.lanes els false
          match s.pairOf c.g.wg with
          | none => .next (s.monaNow c.k a c.w w dests)
          | some (k, p, lead) =>
            let r := p.role lead
            let n := r.taken.getD c.g.gi 0
            let key := placeKey c.g.gi n
            let s' := s.setPair k (p.setRole lead { r with taken := r.taken.set c.g.gi (n + 1) })
            match p.places.get? key with
            | some x =>
              if !x.filled then .hold
              else match x.dead with
                | some (cause, lanes, addr, extra) =>
                  .next (s'.launchAcc c.k { a with phase := .failed cause lanes addr extra } dests)
                | none => .next (s'.updRegs c.k fun r => r.writeAll (monaWrites w c.g.exec (x.regs.getD 0 0 != 0)))
            | none =>
              if !lead then .hold
              else
                let x : LvPlace := ⟨false, c.lanes, els, [], [], none, []⟩
                let s' := { s' with pairs := s'.pairs.modify k fun p => { p with places := p.places.set key x } }
                .next (s'.monaNow c.k { a with place := some key } c.w w dests)
/-- Whether an access is a MONA on a word for an object. -/
def Access.arms (a : Access) (va : W64) (index : Nat) : Bool :=
  match a.word with
  | .mona x => a.regs.uni x.a.num == va && (monaArgs a.regs x).1 == index
  | _ => false
/-- MONA.cancel (R240): it waits for an earlier MONA of its word and object that is not armed yet (R323). -/
def execMonaCancel (w : RRR) (s : State) : Host.Outcome State Fault Refusal :=
  issue (.monaCancel w) s fun s c =>
    if c.part w.g = 0 then .next s else
    let va := c.regs.uni w.a.num
    let idx := s.uniVal c w.b
    if c.w.desc.barriers ≤ idx.toNat then .cause .barIndex c.lanes 0 idx
    else if va.toNat % 8 ≠ 0 then .cause .monAddr c.lanes va 0
    else if (s.accsOf c.g.wg c.g.gi).any fun x => x.2.arms va idx.toNat then .hold
    else
      -- only the lead of a pair holds monitors; the sweep takes the answer from it (R336)
      let mine := s.monitors.findBy fun _ m => m.wg == c.g.wg && m.gi == c.g.gi && m.va == va && m.index == idx.toNat
      c.shared s [if mine.isSome then 1 else 0] fun s v =>
        let s := match mine with
          | some (k, _) => { s with monitors := s.monitors.del k }
          | none => s
        .next (s.updRegs c.k fun r => r.fillPred w.d.num c.g.exec (v.getD 0 0 != 0))

end Sys2Proof.Machine
end

