-- ==== Sys2Proof/Machine/Health.lean ====
section
/-! DEFINITION. Quarantine and retirement of cores, and pre-emption requests (24 R446–R450, 17 R365, 07 R178). -/

namespace Sys2Proof.Machine
open Sys2Proof

/-- The workgroups that are pre-empted with one: its neighbourhood whole, and both roles of a redundant pair
(R350, R365). -/
def State.preemptSet (s : State) (u : Nat) : List Nat :=
  let nbhOf (u : Nat) : List Nat := match s.wgs.get? u with
    | some w => match s.nbhs.get? w.nbh with
      | some n => n.members
      | none => [u]
    | none => []
  let own := nbhOf u
  dedup (own ++ (own.map fun m => match s.pairOf m with
    | some (_, p, lead) => nbhOf (p.role (!lead)).wg
    | none => []).flatten)
/-- Ask for the pre-emption of a workgroup and what goes with it (R366): the request wakes its core (R326). -/
def State.askPreempt (s : State) (u : Nat) : State :=
  (s.preemptSet u).foldl (fun s m =>
    match s.wgs.get? m with
    | some w =>
      if w.phase = .resident ∧ !w.preempt then
        let s := (s.setWg m { w with preempt := true }).wake w.core wakePreempt
        match s.pairOf m with
        | some (k, _, _) => s.askCkpt k
        | none => s
      else s
    | none => s) s
/-- Workgroups resident on a core. -/
def State.wgsOn (s : State) (core : Nat) : List Nat :=
  (s.wgs.filter fun x => x.2.core == core && x.2.phase == .resident).map (·.1)
/-- Retire a core until power-on reset (R448, R453): it leaves service, its groups move, its injection goes. -/
def State.retireCore (s : State) (core : Nat) : State :=
  let bit : BitVec 96 := 1#96 <<< core
  let mark (s : State) (n : Nat) : State :=
    let e := s.errRec n
    { s with errs := s.errs.set n { e with retired := e.retired ||| bit } }
  let s := mark (mark s (s.coreOwner core)) deviceRec
  let x := s.core core
  let s := s.setCore core { x with dead := true, outOfService := true, inject := none }
  (s.wgsOn core).foldl (fun s u => s.askPreempt u) s
/-- QUARANTINE (R178, R450): the core leaves service and its groups are pre-empted; at its third quarantine it retires
without a test. `cause` is what the record names. -/
def State.quarantine (s : State) (core : Nat) (cause : BitVec 8) : State :=
  let x := s.core core
  if x.dead then s else
  let s := s.charge (s.coreOwner core) cause core 0x7F fun e => { e with quar := sat16 (e.quar + 1) }
  let s := s.setCore core { x with outOfService := true, quarantines := x.quarantines + 1 }
  let s := (s.wgsOn core).foldl (fun s u => s.askPreempt u) s
  if 3 ≤ x.quarantines + 1 then s.retireCore core else s
/-- A quarantine without its test: the core retires at once (R269, R450). -/
def State.quarantineRetire (s : State) (core : Nat) (cause : BitVec 8) : State :=
  if (s.core core).dead then s else (s.quarantine core cause).retireCore core
/-- SELFTEST_DONE (R438, R450): a core that passes returns to service, one that fails retires. -/
def execSelftestDone (core : Nat) (pass : Bool) (s : State) : Host.Outcome State Fault Refusal :=
  let x := s.core core
  if !x.outOfService ∨ x.dead ∨ 96 ≤ core then .fault .notEnabled
  else
    let s := if pass then s.setCore core { x with outOfService := false }
      else (s.charge (s.coreOwner core) 0x89 core 0x7F fun e => { e with stFail := sat16 (e.stFail + 1) }).retireCore core
    -- a substituting layer learns the verdict at its pipe's next frame start (R438)
    .next { s with layers := s.layers.mapV fun l => { l with waitOn := l.waitOn.filter (· ≠ core) } }

end Sys2Proof.Machine
end

