-- ==== Sys2Proof/Machine/Accesses.lean ====
section
/-! DEFINITION. What becomes of an access after its issue: returns, update units, faults, the operand log, translation
answers of the host, invalidation and migration (09 R209, R214, 14 R322–R324, 19 R384–R389, 21 R415–R417). -/

namespace Sys2Proof.Machine
open Sys2Proof

/-! ### Programs of the words in flight -/

/-- The load an access performs, from its captured sources (R209). -/
def Access.prog (a : Access) (w : Wg) : Option LoadProg :=
  match a.word with
  | .ld x => some (ldProg x false (memEls a.regs x false false a.mask (typeBytes x.ty)))
  | .ldu x => some (ldProg x true (memEls a.regs x false true a.mask (typeBytes x.ty)))
  | .tex x => some (texWordProg a.regs a.mask x)
  | .tld x => some (tldProg a.regs a.mask x)
  | .tgath x => some (tgathProg a.regs a.mask x)
  | .tdim x => some (tdimProg a.regs a.mask x)
  | .hgf x => some (hgfProg a.regs a.mask x w.vregs)
  | .rbox x => some (rboxProg a.regs a.mask x)
  | .rtri x => some (rtriProg a.regs a.mask x)
  | _ => none
/-- Whether an access sends update units (R214). -/
def Access.isUpdate (a : Access) : Bool :=
  match a.word with
  | .upd _ | .updr _ | .ucas _ | .vismax _ | .hgs _ => true
  | _ => false
/-- The values an access writes when it ends in a deferred cause: zero in every destination (R171). -/
def Access.zeros (a : Access) (w : Wg) : RegWrites :=
  match a.prog w with
  | some p => p.zeros
  | none => match a.word with
    | .mona x => monaWrites x a.exec false
    | _ => (a.els.map fun x => unitReturn a.word x.1 0).flatten
/-- The scope of an update word's acquire. -/
def Access.scope (a : Access) : Nat :=
  match a.word with
  | .upd x | .updr x | .ucas x => x.scope
  | _ => 0

/-- Resolve an access's update units: with their places, and what resolving leaves behind. -/
def State.formUnits (s : State) (a : Access) (w : Wg) : Except Attempt (State × Access) :=
  match a.word with
  | .hgs x =>
    if a.units ≠ [] then match s.resolveUnits w a.gi a.units with
      | .error e => .error e
      | .ok (us, used) => .ok (s.touchAll w a.gi used, { a with units := us, formed := true, phase := .inflight })
    else match s.formHgs a w x with
    | .error e => .error e
    | .ok (us, used, poison) =>
      .ok (s.touchAll w a.gi used, { a with units := us, formed := true, poison, phase := .inflight })
  | _ =>
    match s.resolveUnits w a.gi a.units with
    | .error e => .error e
    | .ok (us, used) => .ok (s.touchAll w a.gi used, { a with units := us, formed := true, phase := .inflight })
/-- Try to perform an access, or to form its units (R172). -/
def State.attempt (s : State) (id : Nat) (a : Access) (w : Wg) : Attempt :=
  match a.prog w with
  | some p => s.performLoad id a w p
  | none =>
    match a.word with
    | .st x | .stu x => s.performStore id a w x.scope (a.els.map fun e => storeVal a.regs x e.1)
    | .ist x => s.performIst id a w x
    | .discard x => s.performDiscard id a w (x.ty == 1)
    | .mona x => s.performMona id a w x
    | .pnop => .done (s.dropAcc id)
    | _ =>
      match s.formUnits a w with
      | .error e => e
      | .ok (s, a) => .done { s with accs := s.accs.set id a }
/-- Every element of an access that is known, those its descriptor names among them. -/
def State.accEls (s : State) (a : Access) (w : Wg) : List (Nat × W64 × Nat) :=
  match a.prog w with
  | some p => s.roundEls w a.gi (s.readVa w a.gi 0 p.scope) p.rounds
  | none =>
    if a.units ≠ [] then a.els else
    match a.word with
    | .ist x => s.istEls w a.gi a.regs a.mask x
    | .hgs x => s.hgsEls w a.gi a.regs a.mask x
    | _ => a.els
/-- Lanes of a record of an access: a word performed once names the lanes that take part (log entry 33). -/
def Access.lanes (a : Access) (lanes : Mask) : Mask :=
  match a.word with
  | .ldu _ | .stu _ => a.mask
  | .updr x | .ucas x => if x.d.isUni then a.mask else lanes
  | _ => lanes

/-! ### Returns and units -/

/-- LOAD_RETURN (R209): the data of a load in flight returns. -/
def execLoadReturn (id : Nat) (s : State) : Host.Outcome State Fault Refusal :=
  match s.accs.get? id with
  | some a =>
    match s.wgs.get? a.wg, a.phase with
    | some w, .inflight =>
      match a.prog w with
      | some p =>
        match s.performLoad id a w p with
        | .done s' => .next s'
        | _ => .fault .notEnabled
      | none => .fault .notEnabled
    | _, _ => .fault .notEnabled
  | none => .fault .notEnabled

/-- The end of an update word: its values return to every role, and what consumed poison is marked (R214, R336, R390). -/
def State.endUnits (s : State) (id : Nat) (a : Access) (w : Wg) : State :=
  let s := (s.writeDests a.wg a.gi a.ofs id a.got).consume a.wg a.gi id (a.poison.map Prod.snd)
  let s := match a.mirror with
    | some (u, owner) => (s.writeDests u a.gi a.ofs owner a.got).consume u a.gi owner (a.poison.map Prod.snd)
    | none => s
  let s := s.dropAcc id
  if a.acquire then s.acquire w.core a.scope else s
/-- Apply the next unit of an access whose units are formed (R214). -/
def State.unitStep (s : State) (id : Nat) (a : Access) (w : Wg) : State :=
  match a.units with
  | [] => s.endUnits id a w
  | u :: us =>
    let (s, v, bad) := s.applyUnit w.core u
    let poison := if bad then
        match a.poison with
        | some p => some (if u.lane < p.1 then (u.lane, u.addr) else p)
        | none => some (u.lane, u.addr)
      else a.poison
    let a := { a with units := us, got := a.got ++ unitReturn a.word u.lane v, poison }
    if us = [] then s.endUnits id a w else { s with accs := s.accs.set id a }
/-- UPDATE_UNIT_APPLY (R214): the units of a word are formed and resolved together, then applied one by one. -/
def execUpdateUnitApply (id : Nat) (s : State) : Host.Outcome State Fault Refusal :=
  match s.accs.get? id with
  | some a =>
    match s.wgs.get? a.wg, a.phase with
    | some w, .inflight =>
      if !a.isUpdate then .fault .notEnabled
      else if a.formed then .next (s.unitStep id a w)
      else match s.formUnits a w with
        | .error _ => .fault .notEnabled
        | .ok (s, a) => .next (s.unitStep id a w)
    | _, _ => .fault .notEnabled
  | none => .fault .notEnabled
/-- Apply every unit of an access that is left; fuel bounds them. -/
def State.unitsOut (s : State) (id : Nat) (w : Wg) : Nat → State
  | 0 => s
  | n + 1 =>
    match s.accs.get? id with
    | some a => if a.formed then State.unitsOut (s.unitStep id a w) id w n else s
    | none => s
/-- Perform every access that has been translated already: the units that are formed (R386). -/
def State.performTranslated (s : State) : State :=
  (s.accs.filter fun x => x.2.formed && x.2.isUpdate).foldl (fun s x =>
    match s.wgs.get? x.2.wg with
    | some w => s.unitsOut x.1 w (x.2.units.length + 1)
    | none => s) s

/-! ### Faults (R172, R322, R384) -/

/-- Whether the operand log has room for an entry of a group (R322). -/
def State.logRoom (s : State) (a : Access) (w : Wg) : Bool :=
  decide (s.logCount w.core < 64) && decide (s.groupLog a.wg a.gi < 16)
/-- Kind of R175 of an access. -/
def Access.kind (a : Access) : Nat :=
  if a.isUpdate then 2 else
  match a.word with
  | .st _ | .stu _ | .ist _ | .discard _ => 1
  | _ => 0
/-- What an access without a translation becomes (R322): logged; where the log is full, holding its pipe's memory port. -/
def State.heldPhase (s : State) (a : Access) (w : Wg) : AccPhase :=
  if a.inLog || s.logRoom a w then .logged else .stalled
/-- What an attempt that cannot be performed does to its access: log it, ask the host, or fail it. `none` when it
changes nothing. -/
def State.accFault (s : State) (id : Nat) (a : Access) (w : Wg) : Option State :=
  match s.attempt id a w with
  | .done _ => none
  | .fault va c =>
    if !a.inLog ∧ !s.logRoom a w then
      (if a.phase = .stalled then none else some { s with accs := s.accs.set id { a with phase := .stalled } })
    else
      let s := s.logFault ⟨w.pasid, va, a.kind, c, .access id⟩
      some { s with accs := s.accs.set id { a with phase := .logged, els := s.accEls a w } }
  | .wait va =>
    let s' := s.askAts w.pasid a.kind va (.access id)
    if s'.atsReqs = s.atsReqs then none else some s'
  | .dead c lanes addr extra => some { s with accs := s.accs.set id { a with phase := .failed c (a.lanes lanes) addr extra } }
/-- TRANSLATION_FAULT (R322, R384): an access in flight that does not translate is logged; where the log is full, it holds its
pipe's memory port until an entry frees or it translates. -/
def execTranslationFault (id : Nat) (s : State) : Host.Outcome State Fault Refusal :=
  match s.accs.get? id with
  | some a =>
    match s.wgs.get? a.wg with
    | some w =>
      if a.inLog ∨ (a.formed ∧ a.isUpdate) then .fault .notEnabled
      else match s.accFault id a w with
        | some s' => .next s'
        | none =>
          (match s.attempt id a w, a.phase with
          | .done _, .stalled => .next { s with accs := s.accs.set id { a with phase := .inflight } }
          | _, _ => .fault .notEnabled)
    | none => .fault .notEnabled
  | none => .fault .notEnabled

/-- Fail the access of a waiter with a cause of kind D on a page that no mapping came for: of this cause and those that other
elements have met, the lowest code is taken, with the lanes that met it and the lowest of their addresses (R172, R175,
R180, log entry 33). -/
def State.failAccess (s : State) (id : Nat) (va : W64) (cause : BitVec 8) : State :=
  match s.accs.get? id with
  | some a =>
    match s.wgs.get? a.wg with
    | some w =>
      let memory (c : BitVec 8) : Bool := decide (0x20 ≤ c.toNat) && decide (c.toNat < 0x30)
      let els := s.accEls a w
      let on := els.filter fun x =>
        decide (x.2.1.toNat / 4096 ≤ va.toNat / 4096) && decide (va.toNat / 4096 ≤ (x.2.1.toNat + x.2.2 - 1) / 4096)
      let lost : List (Nat × W64 × BitVec 8 × Nat) := on.map fun x => (x.1, if memory cause then x.2.1 else va, cause, 0)
      let dead : List (Nat × W64 × BitVec 8 × Nat) := (els.filter fun x => !on.contains x).filterMap fun x =>
        match s.resolveOne w a.gi a.kind x.1 x.2.1 x.2.2 with
        | .error (_, .dead c e) => some (x.1, x.2.1, c, e)
        | _ => none
      let all := lost ++ dead
      let low := all.foldl (fun m x => if x.2.2.1.toNat < m.toNat then x.2.2.1 else m) cause
      let hit := all.filter fun x => x.2.2.1 = low
      let lanes : Mask := if hit = [] then a.mask else hit.foldl (fun m x => m ||| (1#32 <<< x.1)) 0
      let least := hit.foldl (fun m x => if x.2.1.toNat < m.2.1.toNat then x else m) (hit.headD (0, va, cause, 0))
      let extra : W64 := if memory low then BitVec.ofNat 64 (a.kind + 256 * least.2.2.2) else 0
      { s with accs := s.accs.set id { a with phase := .failed low (a.lanes lanes) least.2.1 extra } }
    | none => s
  | none => s

/-! ### Replay (R161, R181, R324) -/

/-- PLANES of the next unissued offset: 0xFF, or the planes left where some have issued or a return has named them (R161). -/
def Group.planesAhead (g : Group) : BitVec 8 :=
  match g.todo with
  | some t => if t = g.pmask then 0xFF else t
  | none => g.resumePlanes
/-- Deliver a deferred cause to a group: it resumes at its next unissued offset with PLANES 0xFF (R161), which is the one
it is in the middle of, with the planes left, if some planes there have issued. -/
def State.deliverDeferred (s : State) (wg gi : Nat) (ofs : BitVec 24) (exec : Mask) (pmask : BitVec 8) (cause : BitVec 8)
    (lanes : Mask) (addr extra : W64) : State :=
  match s.groupOf wg gi, s.wgs.get? wg with
  | some (k, g), some w =>
    let req (g : Group) (planes resumePlanes : BitVec 8) : TrapReq :=
      { cause, lanes, exec, addr, extra, ofs, pmask, planes, resume := g.ofs, resumePlanes }
    if g.ended then s.trapPolicy wg cause (trapRecord w g (req g 0 0))
    else
      match g.todo with
      | some t => s.takeTrap k (req g (if g.ofs = ofs then t else 0) g.planesAhead)
      | none =>
        match s.beginOffset k w g with
        | (s', some g') => s'.takeTrap k (req g' 0 g'.planesAhead)
        | (_, none) => s.takeTrap k (req g 0 g.resumePlanes)
  | _, _ => s
/-- End an access in its deferred cause: zero in its destinations, the cause to its group (R171). In a pair the lead
alone meets it, and the sweep takes it after as many words (R347). -/
def State.failNow (s : State) (id : Nat) (a : Access) (w : Wg) (cause : BitVec 8) (lanes : Mask) (addr extra : W64) : State :=
  let s := (s.writeDests a.wg a.gi a.ofs id (a.zeros w)).dropAcc id
  let x : LvPlace := ⟨true, a.mask, a.els, [], [], some (cause, lanes, addr, extra), []⟩
  let s := s.fillPlace a.wg a.place x
  match s.pairOf a.wg with
  | none => s.deliverDeferred a.wg a.gi a.ofs a.exec a.pmask cause lanes addr extra
  | some (_, _, false) => s
  | some (k, p, true) =>
    let s := match a.mirror with
      | some (u, owner) => s.writeDests u a.gi a.ofs owner (a.zeros w)
      | none => s
    let d : Due := ⟨a.gi, p.lead.count.getD a.gi 0, a.ofs, a.exec, a.pmask, cause, lanes, addr, extra⟩
    (s.setPair k { p with due := p.due ++ [d] }).deliverDeferred a.wg a.gi a.ofs a.exec a.pmask cause lanes addr extra
/-- Whether an older access of the group stands in the log: replays and causes keep program order (R65, R324). -/
def State.olderLogged (s : State) (id : Nat) (a : Access) (ready : Bool) : Bool :=
  (s.accsOf a.wg a.gi).any fun x => decide (x.1 < id) && (match x.2.phase with
    | .inflight | .stalled => false
    | .ready => true
    | _ => !ready)
/-- OPERAND_LOG_REPLAY (R324, R389): an entry whose page has been served replays whole, or traps. -/
def execOperandLogReplay (id : Nat) (s : State) : Host.Outcome State Fault Refusal :=
  match s.accs.get? id with
  | some a =>
    match s.wgs.get? a.wg with
    | some w =>
      if w.phase = .saved then .fault .notEnabled else
      match a.phase with
      | .ready =>
        if s.olderLogged id a true then .fault .notEnabled
        else match s.attempt id a w with
          | .done s' => .next (s'.wake w.core wakeReplay)
          | _ =>
            match s.accFault id a w with
            | some s' => .next s'
            | none => .fault .notEnabled
      | .failed cause lanes addr extra =>
        if s.olderLogged id a false then .fault .notEnabled
        else .next ((s.failNow id a w cause lanes addr extra).wake w.core wakeReplay)
      | _ => .fault .notEnabled
    | none => .fault .notEnabled
  | none => .fault .notEnabled

/-! ### Invalidation and hotness (R386, R387) -/

/-- Whether a cached translation of a space serves a page of a PASID's range: first page and length in pages. -/
def tlbHits (pasid : Nat) (range : Option (Nat × Nat)) (k : Nat) (e : TlbEntry) : Bool :=
  decide (k / 2 ^ 48 % 2 ^ 20 = pasid) &&
    (match range with
    | none => true
    | some (first, n) =>
      let lo := (k % 2 ^ 48 - e.size) / 4096
      let hi := lo + 2 ^ e.size / 4096
      decide (lo < first + n) && decide (first < hi))
/-- TLB_INVAL's work (R386): accesses translated already are performed at .dev, the stores that an L1 holds among them, then
every cached translation of the range goes, its counts to the shadow table. `range` is a first page and a number of pages of the
48-bit space. -/
def State.tlbInval (s : State) (pasid : Nat) (range : Option (Nat × Nat)) : State :=
  let s := s.performTranslated
  let inRange (lo n : Nat) : Bool := match range with
    | none => true
    | some (first, m) => decide (lo < first + m) && decide (first < lo + n)
  let pasidOf (k : Nat) : Option Nat := ((s.groups.get? k).bind fun g => s.wgs.get? g.wg).map fun w => w.pasid
  let goes (x : Nat × Nat × TlbEntry) : Bool :=
    pasidOf (x.1 / 32) == some pasid && inRange (x.2.1 * 2 ^ x.2.2.size / 4096) (2 ^ x.2.2.size / 4096)
  let lost := (s.l1Tlb.filter fun x => tlbHits pasid range x.1 x.2).map (·.2) ++ (s.lastPage.filter goes).map (·.2.2)
  let s := lost.foldl (fun s (t : TlbEntry) => s.cleanRange (Pte.base t.leaf) (2 ^ t.size)) s
  let gone1 := s.l1Tlb.filter fun x => tlbHits pasid range x.1 x.2
  let gone2 := s.baseTlb.filter fun x => tlbHits pasid range x.1 x.2
  let leaves := dedup ((gone1 ++ gone2).map fun x => x.2.at_)
  let count (a : Nat) : Nat := min 255 ((((gone1 ++ gone2).filter fun x => x.2.at_ = a).map fun x => x.2.hot).foldl (· + ·) 0)
  let s := leaves.foldl (fun s a => s.shadowAdd a (count a)) s
  let last := s.lastPage.filter fun x => !goes x
  let ats := s.atsCache.filter fun x => !(decide (x.1 / 2 ^ 48 = pasid) && inRange (x.1 % 2 ^ 48 / 4096) 1)
  { s with l1Tlb := s.l1Tlb.filter (fun x => !tlbHits pasid range x.1 x.2),
           baseTlb := s.baseTlb.filter (fun x => !tlbHits pasid range x.1 x.2), lastPage := last, atsCache := ats }

/-! ### Answers of the host (R415) -/

/-- Let a waiter of a page go on: the access replays, the fetch, copy or queue word translates again. -/
def State.release1 (s : State) (x : Waiter) : State :=
  match x with
  | .access id => { s with accs := s.accs.modify id fun a => if a.phase = .logged then { a with phase := .ready } else a }
  | .group core slot =>
    let go (g : Group) : Group := if g.wait = .fetch ∨ g.wait = .table then { g with wait := .none } else g
    s.updGroup (gid core slot) go
  | .copy id => { s with copies := s.copies.modify id fun c => { c with waiting := false } }
  | .queue hw => { s with slots := s.slots.modify hw fun q => { q with waiting := false } }
  | .drain core =>
    match (s.core core).owner with
    | some w => { s with wgs := s.wgs.modify w fun x => { x with mqueue := x.mqueue.map fun m => { m with waiting := false } } }
    | none => s
  | .none => s
/-- Resolution ended without a mapping for a waiter (R172, R227, R305). -/
def State.fail1 (s : State) (x : Waiter) (kind : Nat) (va : W64) (cause : BitVec 8) (extra : W64) : State :=
  match x with
  | .access id => s.failAccess id va cause
  | .group core slot =>
    let x : W64 := if cause.toNat < 0x20 ∨ 0x30 ≤ cause.toNat then extra else BitVec.ofNat 64 kind
    let stop (g : Group) : Group := if g.wait = .fetch ∨ g.wait = .table then { g with wait := .failed cause va x } else g
    s.updGroup (gid core slot) stop
  | .copy id => { s with copies := s.copies.modify id fun c => { c with waiting := false, phase := .faulted cause } }
  | .queue hw => { s with slots := s.slots.modify hw fun q => { q with waiting := false, dead := some cause } }
  | .drain core =>
    match (s.core core).owner with
    | some w =>
      let stop (m : MCmd) : MCmd := if m.waiting then { m with waiting := false, dead := some (cause, va) } else m
      { s with wgs := s.wgs.modify w fun x => { x with mqueue := x.mqueue.map stop } }
    | none => s
  | .none => s
/-- Whether a PASID is closing. -/
def State.isClosing (s : State) (pasid : Nat) : Bool :=
  match s.pasids.get? pasid with
  | some c => c.closing
  | none => true
/-- ATS_TRANSLATION_COMPLETION (R415): a page is cached for the base die; no access asks for the page, or fails. For a
closing PASID the answer is discarded, and what waited retranslates (R417). -/
def execAtsTranslationCompletion (req : Nat) (entry : Option W64) (s : State) : Host.Outcome State Fault Refusal :=
  match s.atsReqs.get? req with
  | none => .fault .notEnabled
  | some r =>
    if r.pageRequest then .fault .notEnabled else
    let s1 := { s with atsReqs := s.atsReqs.del req }
    if s.isClosing r.pasid then .next (r.waiters.foldl (fun s x => s.release1 x) s1)
    else match entry with
      | some page =>
        .next (r.waiters.foldl (fun s x => s.release1 x) { s1 with atsCache := s1.atsCache.set (atsKey r.pasid r.va) page })
      | none =>
        let pri := match s.pasids.get? r.pasid with
          | some c => c.pri
          | none => false
        if pri then
          let s := { s with atsReqs := s.atsReqs.set req { r with pageRequest := true } }
          .next (r.waiters.foldl (fun s x => match x with
            | .access id => (match s.accs.get? id with
              | some a => (match s.wgs.get? a.wg with
                | some w => { s with accs := s.accs.set id { a with phase := s.heldPhase a w } }
                | none => s)
              | none => s)
            | _ => s) s)
        else .next (r.waiters.foldl (fun s x => s.fail1 x r.kind r.va 0x20 0) s1)
/-- PAGE_REQUEST_RESPONSE (R415). -/
def execPageRequestResponse (req : Nat) (ok : Bool) (s : State) : Host.Outcome State Fault Refusal :=
  match s.atsReqs.get? req with
  | none => .fault .notEnabled
  | some r =>
    if !r.pageRequest then .fault .notEnabled else
    let s1 := { s with atsReqs := s.atsReqs.del req }
    if ok || s.isClosing r.pasid then .next (r.waiters.foldl (fun s x => s.release1 x) s1)
    else .next (r.waiters.foldl (fun s x => s.fail1 x r.kind r.va 0x20 0) s1)
/-- ATS_INVALIDATE_REQUEST (R415): the TLB_INVAL path; a length of 0 names the whole PASID. -/
def execAtsInvalidateRequest (pasid : Nat) (va : BitVec 48) (len : Nat) (s : State) : Host.Outcome State Fault Refusal :=
  .next (s.tlbInval pasid (if len = 0 then none else some (va.toNat / 4096, (len + 4095) / 4096)))

/-! ### Migration (R388) -/

/-- Copy a page's bytes under one key, its poison with it, every cached line written back first (R388). -/
def State.movePage (s : State) (key src dst n : Nat) : State :=
  let s := (List.range (n / 128)).foldl (fun s k => (s.flushEverywhere (src + 128 * k)).mscEvict (src / 128 + k)) s
  let s := (List.range n).foldl (fun s k => s.setPastL1 key 0 3 (dst + k) (s.memByte key (src + k))) s
  s.copyPoison src dst n
/-- Move the page of `va` to a frame: what waited on it replays, and watched words move with it (R388). -/
def State.migrate (s : State) (pasid : Nat) (va frame : BitVec 48) : Option State :=
  match s.pasids.get? pasid with
  | none => none
  | some ctx =>
    let a := va.signExtend 64
    match s.walk ctx.root a with
    | .leaf e z at_ =>
      let src := Pte.base e
      let dst := frame.toNat
      let leaf : W64 := (e &&& 0xFFFF000000000FFF) ||| frame.zeroExtend 64
      if dst % 2 ^ z ≠ 0 ∨ Pte.bad leaf ((z - 12) / 9 + 1) s.dramSize ∨ targetOf src = .doorbell ∨ targetOf dst = .doorbell then
        none
      else
        let page := va.toNat / 2 ^ z * (2 ^ z / 4096)
        let s := s.rawWrite at_ 8 (e &&& ~~~1#64).toNat
        let s := s.tlbInval pasid (some (page, 2 ^ z / 4096))
        let s := s.movePage (Pte.key e) src dst (2 ^ z)
        let s := s.rawWrite at_ 8 leaf.toNat
        let on (f : PageFault) : Bool := f.pasid == pasid && decide (f.va.toNat % 2 ^ 48 / 2 ^ z = va.toNat / 2 ^ z)
        let s := (s.faults.filter on).foldl (fun s f => s.release1 f.waiter) { s with faults := s.faults.filter fun f => !on f }
        let move (m : Monitor) : Monitor := match m.pa with
          | some p => if src ≤ p ∧ p < src + 2 ^ z then { m with pa := some (dst + (p - src)) } else m
          | none => m
        some { s with monitors := s.monitors.mapV move }
    | _ => none
/-- PAGE_MIGRATION (R388): the page of `va` moves to a frame. -/
def execPageMigration (pasid : Nat) (va frame : BitVec 48) (s : State) : Host.Outcome State Fault Refusal :=
  match s.migrate pasid va frame with
  | some s => .next s
  | none => .fault .notEnabled

end Sys2Proof.Machine
end

