-- ==== Sys2Proof/Machine/Matrix.lean ====
section
/-! DEFINITION. Group 6: the matrix engine, its queue, the MMT sequencer and drains (10, 04 R102–R107). -/

namespace Sys2Proof.Machine
open Sys2Proof

/-! ### Elements (R87, R102, R103, R251) -/

/-- Bits of an element by format code. -/
def fmtBits (f : Nat) : Nat := if f ≤ 1 then 4 else if f ≤ 4 then 8 else 16
/-- B columns of a macro by format code (R251). -/
def cpm (f : Nat) : Nat := if f ≤ 1 then 256 else if f = 2 then 128 else 64
/-- The floating-point format of a code. -/
def fmtOf (f : Nat) : Fmt :=
  match f with
  | 0 => fp4
  | 3 => e4m3
  | 4 => e5m2
  | 5 => fp16
  | _ => bf16
/-- Bytes that hold `n` elements. -/
def fmtBytes (f n : Nat) : Nat := (n * fmtBits f + 7) / 8
/-- Element `i` of a packed array whose bytes a reader gives (R87). -/
def elemCode (f : Nat) (byte : Nat → Nat) (i : Nat) : Nat :=
  match fmtBits f with
  | 4 => byte (i / 2) / 16 ^ (i % 2) % 16
  | 8 => byte i % 256
  | _ => byte (2 * i) % 256 + byte (2 * i + 1) % 256 * 256
/-- A two's-complement value of `n` bits. -/
def twos (n x : Nat) : Int := if x < 2 ^ (n - 1) then x else (x : Int) - 2 ^ n
/-- An alignment block: the integers streamed or held, the power of two they count, and a NaN mark. -/
structure EBlock where
  ints : List Int
  exp : Int
  nan : Bool
  deriving DecidableEq, Repr
/-- Eight consecutive elements as the engine takes them (R102–R104). -/
def eblock (f : Nat) (codes : List Nat) : EBlock :=
  if f = 0 then
    ⟨codes.map fun c => match fp4.decode c with
      | .fin s n d => signed s (2 * n / d)
      | _ => 0, -1, false⟩
  else if f = 1 then ⟨codes.map (twos 4), 0, false⟩
  else if f = 2 then ⟨codes.map (twos 8), 0, false⟩
  else
    let fm := fmtOf f
    let xs := codes.map fm.decode
    let emin : Int := 1 - fm.bias
    let e := xs.foldl (fun (m : Int) x => match x with
      | .fin _ n d => if n = 0 then m else max m (ratLog2 n d)
      | _ => m) emin
    let q (x : Num) : Int := match x with
      | .fin s n d =>
        let (a, b) := ratPow 1 (14 - e)
        signed s (n * a / (d * b))
      | _ => 0
    ⟨xs.map q, e - 14, xs.any fun x => match x with
      | .fin .. => false
      | _ => true⟩
/-- An integer times a power of two, or a NaN mark. -/
abbrev Scaled := Option (Int × Int)
/-- Exact sum. -/
def Scaled.add (a b : Scaled) : Scaled :=
  match a, b with
  | some (x, e), some (y, f) =>
    let m := if e < f then e else f
    some (x * 2 ^ (e - m).toNat + y * 2 ^ (f - m).toNat, m)
  | _, _ => none
/-- The value as a number. -/
def Scaled.num : Scaled → Num
  | some (v, e) => if 0 ≤ e then .ofInt false (v * 2 ^ e.toNat) 1 else .ofInt false v (2 ^ (-e).toNat)
  | none => .nan
/-- The exact product sum of two blocks (R105, R106). -/
def blockDot (a b : EBlock) : Scaled :=
  if a.nan || b.nan then none
  else some ((List.zipWith (· * ·) a.ints b.ints).foldl (· + ·) 0, a.exp + b.exp)
/-- The 16 row-group partials of a K-step from the codes of a row of A and a column of B (R105, R106). -/
def rowGroups (fa fb : Nat) (a b : Nat → Nat) : List Scaled :=
  (List.range 16).map fun g =>
    blockDot (eblock fa ((List.range 8).map fun i => a (8 * g + i))) (eblock fb ((List.range 8).map fun i => b (8 * g + i)))
/-- What a K-step adds: the exact sum, rounded once (R105). -/
def kStepValue (gs : List Scaled) : Nat := fRne (Scaled.num (gs.foldl Scaled.add (some (0, 0))))
/-- fold() (R106): the product of each partial and its two scales, summed exactly and rounded once. `sa` and `sb` give
the scale value of a row group, or none where no scale is read. The factor 2^(-2) is the two FP4 operands' and stands in the partial's
own exponent, as aligned partials' exponents do (R107, log entry 106). -/
def foldValue (gs : List Scaled) (sa sb : Nat → Option Num) : Nat :=
  let term (g : Nat) : Num :=
    let p := Scaled.num (gs.getD g (some (0, 0)))
    match sa g, sb g with
    | some x, some y => (p.mul x).mul y
    | _, _ => p
  let nan := (List.range 16).any fun g => (gs.getD g (some (0, 0))).isNone || ((sa g).map Num.isNan).getD false || ((sb g).map Num.isNan).getD false
  if nan then fRne .nan
  else fRne ((List.range 16).foldl (fun t g => t.add .near (term g)) (.fin false 0 1))

/-! ### The context (R243, R265) -/

/-- Key of an accumulator element. -/
def accKey (tile row col : Nat) : Nat := tile * 16384 + row * 256 + col
/-- An accumulator element; a clear tile reads +0. -/
def MCtx.elem (x : MCtx) (tile row col : Nat) : Nat :=
  match x.acc.get? (accKey tile row col) with
  | some v => v.toNat
  | none => match x.free.get? tile with
    | some n => (Config.mmtTile n (accKey tile row col)).toNat
    | none => 0
/-- Write an accumulator element. -/
def MCtx.setElem (x : MCtx) (tile row col v : Nat) : MCtx := { x with acc := x.acc.set (accKey tile row col) (BitVec.ofNat 32 v) }
/-- A clear matrix context. -/
def MCtx.clear : MCtx := ⟨[], [], [], none, none, false, 0, 0, []⟩
/-- Whether a part of the context is tagged by another key index: tiles 0–7, slots 8–15, the partials buffer 16 (R81). -/
def MCtx.other (x : MCtx) (key part : Nat) : Bool :=
  match x.tags.get? part with
  | some t => t != key
  | none => false
/-- The context as a key index reads it: what another key wrote reads as zero (R81). -/
def MCtx.seen (x : MCtx) (key : Nat) : MCtx :=
  { x with
    acc := x.acc.filter fun y => !x.other key (y.1 / 16384),
    free := x.free.filter fun y => !x.other key y.1,
    slots := x.slots.map fun y => if x.other key (8 + y.1) then (y.1, { y.2 with codes := [] }) else y,
    part := x.part.map fun p => if x.other key 16 then { p with vals := [] } else p,
    mmt := x.mmt.map fun m => if x.other key m.word.a.num then { m with tile := [] } else m }
/-- The parts a command writes. -/
def MCtx.writes (x : MCtx) (i : Instr) : List Nat :=
  let all (a : Nat) : List Nat := [a, a + 1, 8, 9, 10, 11, 12, 13, 14, 15, 16]
  match i with
  | .bld w => [8 + w.d.num]
  | .mma w | .mzero w | .mmov w => [w.d.num]
  | .mmap _ => [16]
  | .msa w => [w.d.num, 16]
  | .mmt w => all w.a.num
  | .mres w =>
    (match x.mmt with
    | some m => if w.m.getLsbD 0 then [m.word.a.num, m.word.a.num + 1] else all m.word.a.num
    | none => [])
  | _ => []
/-- The context after a command that saw `x` under a key and left `y`, having written some parts: those take the key, and
what another key wrote elsewhere stays in place (R81). -/
def MCtx.retag (x y : MCtx) (key : Nat) (parts : List Nat) : MCtx :=
  let keep (p : Nat) : Bool := x.other key p && !parts.contains p
  { y with
    acc := (x.acc.filter fun e => keep (e.1 / 16384)).foldl (fun t e => t.set e.1 e.2) y.acc,
    free := (x.free.filter fun e => keep e.1).foldl (fun t e => t.set e.1 e.2) y.free,
    slots := (x.slots.filter fun e => keep (8 + e.1)).foldl (fun t e => t.set e.1 e.2) y.slots,
    part := if keep 16 then x.part else y.part,
    mmt := (match x.mmt with
      | some m => if keep m.word.a.num then x.mmt else y.mmt
      | none => y.mmt),
    tags := parts.foldl (fun t p => t.set p key) y.tags }
/-- A context as it comes back from save-area bytes that have been altered: its shapes stand, what its parts hold is free (log
entry 101). -/
def MCtx.altered (x : MCtx) (n : Nat) : MCtx :=
  let slot (k : Nat) (c : CimSlot) : CimSlot :=
    { c with codes := ((List.range c.kr).map fun i => (List.range c.nc).map fun j =>
        (256 * i + j, BitVec.ofNat 16 ((Config.freeWord n (2 ^ 20 * (k + 1) + 256 * i + j)).toNat % 2 ^ fmtBits c.fb))).flatten }
  { x with
    acc := [], free := (List.range 8).map fun t => (t, n), slots := x.slots.map fun y => (y.1, slot y.1 y.2),
    part := x.part.map fun p => { p with vals := p.vals.map fun y => (y.1, some ((Config.freeWord n (2 ^ 24 + y.1)).toInt, 0)) },
    mmt := x.mmt.map fun m => { m with tile := m.tile.map fun y => (y.1, Config.freeWord n (2 ^ 25 + y.1)) } }
/-- Write a context to a workgroup's save block (R244, R366, R368). -/
def State.saveCtx (s : State) (w : Wg) (x : MCtx) : State × SavedCtx :=
  let key := s.pitchKey w.pitch
  (s.putOwn key w.mctxAt (2 ^ 20) s.stepNo, ⟨x.seen key, w.mctxAt, s.stepNo⟩)
/-- The context that a save block gives back, all of it under the pitch's key (R81, R244, R368). -/
def State.openCtx (s : State) (w : Wg) (y : SavedCtx) : MCtx :=
  let key := s.pitchKey w.pitch
  let x := if s.ownStands key y.at_ (2 ^ 20) y.no then y.ctx else y.ctx.altered s.stepNo
  { x with tags := (List.range 17).map fun p => (p, key) }

/-! ### Descriptors (R252, R253, R264) -/

/-- A region of a tile (R252). -/
structure Region where
  row0 : Nat
  m : Nat
  col0 : Nat
  n : Nat
  pitch : Nat
  deriving DecidableEq, Repr
/-- The fields of a region descriptor. -/
def regionFields (x : W64) : Region :=
  let v := x.toNat
  ⟨bitsOf v 0 6, bitsOf v 8 6 + 1, bitsOf v 14 8, bitsOf v 22 8 + 1, bitsOf v 32 32⟩
/-- A region descriptor, or the MACRO_STATE reason it raises. -/
def regionOf (x : W64) : Except Nat Region :=
  let v := x.toNat
  let r := regionFields x
  if bitsOf v 6 2 ≠ 0 ∨ bitsOf v 30 2 ≠ 0 then .error 3
  else if 64 < r.row0 + r.m ∨ 256 < r.col0 + r.n then .error 4
  else .ok r
/-- The fields of a B descriptor: KR, NC, PITCH (R253). -/
def bFields (x : W64) : Nat × Nat × Nat := (bitsOf x.toNat 0 8, bitsOf x.toNat 8 9, bitsOf x.toNat 24 32)
/-- A B descriptor, or the reason it raises. -/
def bDesc (fb : Nat) (x : W64) : Except Nat (Nat × Nat × Nat) :=
  let v := x.toNat
  let (kr, nc, _) := bFields x
  if bitsOf v 17 7 ≠ 0 ∨ bitsOf v 56 8 ≠ 0 ∨ kr = 0 ∨ 128 < kr ∨ nc = 0 ∨ cpm fb < nc then .error 3
  else .ok (bFields x)
/-- The fields of an A descriptor: ROW0, M, APITCH (R253). -/
def aFields (x : W64) : Nat × Nat × Nat := (bitsOf x.toNat 0 6, bitsOf x.toNat 8 7, bitsOf x.toNat 24 24)
/-- An A descriptor, or the reason it raises. -/
def aDesc (x : W64) : Except Nat (Nat × Nat × Nat) :=
  let v := x.toNat
  let (row0, m, _) := aFields x
  if bitsOf v 6 2 ≠ 0 ∨ bitsOf v 15 9 ≠ 0 ∨ bitsOf v 48 16 ≠ 0 ∨ m = 0 ∨ 64 < m then .error 3
  else if 64 < row0 + m then .error 4
  else .ok (aFields x)
/-- An MMT descriptor block (R264). -/
structure MmtDesc where
  a : Nat
  b : Nat
  c : Nat
  m : Nat
  n : Nat
  k : Nat
  aPitch : Nat
  bPitch : Nat
  cPitch : Nat
  sa : Nat
  sb : Nat
  deriving DecidableEq, Repr
/-- MOD fields of the matrix words (R250). -/
def mFa (w : RRR) : Nat := w.m.toNat % 8
@[inherit_doc mFa] def mFb (w : RRR) : Nat := w.m.toNat / 8 % 8
@[inherit_doc mFa] def mScaled (w : RRR) : Bool := w.m.getLsbD 6
@[inherit_doc mFa] def mMx (w : RRR) : Bool := w.m.getLsbD 7
/-- Read a descriptor block; none for reason 3. -/
def mmtDesc (w : RRR) (bs : List Byte) : Option MmtDesc :=
  let f (o n : Nat) : Nat := leNat ((bs.drop o).take n)
  let d : MmtDesc := ⟨f 0 8, f 8 8, f 16 8, f 24 2, f 26 2, f 28 2, f 32 4, f 36 4, f 40 4, f 48 8, f 56 8⟩
  if f 30 2 ≠ 0 ∨ f 44 4 ≠ 0 ∨ d.c % 4 ≠ 0 ∨ d.cPitch % 4 ≠ 0 ∨ d.m = 0 ∨ 256 < d.m ∨ d.n = 0 ∨ 1024 < d.n ∨ d.k = 0 ∨ 4096 < d.k
      ∨ (mScaled w ∧ d.k % (if mMx w then 32 else 8) ≠ 0) ∨ (!mScaled w ∧ (d.sa ≠ 0 ∨ d.sb ≠ 0)) then none
  else some d
/-- K-steps of an MMT, and its blocks. -/
def MmtDesc.ksteps (d : MmtDesc) : Nat := (d.k + 127) / 128
@[inherit_doc MmtDesc.ksteps] def MmtDesc.nbs (d : MmtDesc) : Nat := (d.n + 255) / 256
@[inherit_doc MmtDesc.ksteps] def MmtDesc.mbs (d : MmtDesc) : Nat := (d.m + 63) / 64
/-- K-steps left from a position. -/
def MmtDesc.left (d : MmtDesc) (mb nb k : Nat) : Nat := d.mbs * d.nbs * d.ksteps - ((mb * d.nbs + nb) * d.ksteps + k)

/-! ### Projected state (R247) -/

/-- What the projection keeps: formats and shapes of the slots, the record of the partials, a held MMT's tile and the
K-steps it has left. -/
structure Proj where
  slots : Tab (Nat × Nat × Nat)
  part : Option (Nat × Nat × Nat × Nat × List Nat × Nat)
  mmt : Option (Nat × Nat)
  deriving DecidableEq, Repr

/-- The projection of a context as it stands. -/
def MCtx.proj (x : MCtx) : Proj :=
  { slots := x.slots.map fun y => (y.1, y.2.fb, y.2.kr, y.2.nc),
    part := x.part.map fun p => (p.fa, p.fb, p.row0, p.m, p.cols, p.kr),
    mmt := x.mmt.bind fun m => (mmtDesc m.word m.block).map fun d => (m.word.a.num, d.left m.mb m.nb m.kstep) }
/-- The slots an MMA or MMAP uses. -/
def mmaSlots (w : RRR) : List Nat := (List.range w.nm).map fun i => 2 * (w.a.num / 2 + i) + w.a.num % 2
/-- The columns an MMA or MMAP with SPAN .n covers. -/
def spanCols (w : RRR) (ncs : List Nat) : List Nat :=
  ((List.range w.nm).map fun i => (List.range (ncs.getD i 0)).map fun n => i * cpm (mFb w) + n).flatten
/-- The budget of a command that runs, from where it has come (R266). -/
def MCmd.budget (m : MCmd) : List W64 :=
  match m.word with
  | .mres _ => if m.running then [BitVec.ofNat 64 m.left] else m.vals
  | _ => m.vals
/-- A command's effect on the projection. -/
def Proj.step (p : Proj) (i : Instr) (vals : List W64) (block : List Byte) : Proj :=
  match i with
  | .bld w =>
    match bDesc (mFa w) (vals.getD 1 0) with
    | .ok (kr, nc, _) => { p with slots := p.slots.set w.d.num (mFa w, kr, nc) }
    | .error _ => p
  | .mmap w =>
    match aDesc (vals.getD 1 0) with
    | .ok (row0, m, _) =>
      let ss := (mmaSlots w).map fun k => p.slots.getD k (0, 0, 0)
      { p with part := some (mFa w, mFb w, row0, m, spanCols w (ss.map (·.2.2)), (ss.headD (0, 0, 0)).2.1) }
    | .error _ => p
  | .msa _ => { p with part := none }
  | .mmt w =>
    match mmtDesc w block with
    | some d =>
      let left := d.left 0 0 0
      let b := (vals.getD 1 0).toNat % 2 ^ 32
      ⟨[], none, if b = 0 ∨ left ≤ b then none else some (w.a.num, left - b)⟩
    | none => p
  | .mres w =>
    match p.mmt with
    | some (a, left) =>
      let b := (vals.getD 0 0).toNat % 2 ^ 32
      if w.m.getLsbD 0 then { p with mmt := none }
      else ⟨[], none, if b = 0 ∨ left ≤ b then none else some (a, left - b)⟩
    | none => p
  | _ => p
/-- The projected state of a workgroup: its context with its queue behind it. -/
def State.project (s : State) (wg : Nat) (w : Wg) : Proj :=
  let x : MCtx := if (s.core w.core).owner = some wg then (s.core w.core).ctx else (w.savedCtx.map (·.ctx)).getD .clear
  w.mqueue.foldl (fun p m => p.step m.word m.budget m.block) x.proj

/-! ### Checks at issue (R247, R252–R270) -/

/-- A range a command reads or writes: address, bytes, and whether it must lie in scratchpad. -/
abbrev MRange := W64 × Nat × Bool
/-- Rows of bytes from a base. -/
def rowRanges (base : W64) (rows pitch n : Nat) (loc : Bool) : List MRange :=
  (List.range rows).map fun m => (base + BitVec.ofNat 64 (m * pitch), n, loc)
/-- Bytes of an element written by MDR with formats 0–2. -/
def mdrSize (fmt : Nat) : Nat := if fmt = 0 then 4 else 2
/-- Elements of a block of a requantising format, the block format of R94, and the divisor of PITCH (R260). -/
def mdrBlock (fmt : Nat) : Nat := if fmt = 3 then 8 else 32
@[inherit_doc mdrBlock] def mdrDiv (fmt : Nat) : Nat := if fmt = 3 then 4 else if fmt = 6 then 16 else 32
/-- Whether a requantising format's elements are bytes. -/
def mdrWide (fmt : Nat) : Bool := fmt == 4 || fmt == 5
/-- A command's check on the projected state: the ranges it touches, as far as its descriptors give them, and every reason
of R270 that applies, but for operands outside scratchpad. -/
def Proj.check (p : Proj) (i : Instr) (vals : List W64) (block : List Byte) : List MRange × List Nat :=
  let v (k : Nat) : W64 := vals.getD k 0
  let reserved (t : Nat) : Bool := match p.mmt with
    | some (a, _) => t == a || t == a + 1
    | none => false
  let busy (ts : List Nat) : List Nat := if ts.any reserved then [6] else []
  let failing {α : Type} (r : Except Nat α) : List Nat := match r with
    | .error e => [e]
    | .ok _ => []
  -- the slots an MMA or MMAP uses, and what is wrong with them
  let slotsOf (w : RRR) (k : Bool) : List (Nat × Nat × Nat) × List Nat :=
    let ss := (mmaSlots w).map fun j => p.slots.get? j
    let held := ss.filterMap id
    let h := held.headD (0, 0, 0)
    let unlike := held.any (fun x => x.1 != mFb w) || held.any fun x => if k then x.2.2 != h.2.2 else x.2.1 != h.2.1
    if ss.any Option.isNone then ([], [1]) else (held, if unlike then [2] else [])
  let wide (w : RRR) : List Nat := if 256 < w.nm * cpm (mFb w) then [4] else []
  match i with
  | .bld w =>
    let (kr, nc, pitch) := bFields (v 1)
    (rowRanges (v 0) nc pitch (fmtBytes (mFa w) kr) true, failing (bDesc (mFa w) (v 1)))
  | .mma w =>
    let span := w.m.getLsbD 8
    let (ss, bad) := slotsOf w (!span)
    let (_, m, pitch) := aFields (v 1)
    let rs := if span then (if ss = [] then [] else rowRanges (v 0) m pitch (fmtBytes (mFa w) (ss.headD (0, 0, 0)).2.1) true)
      else (ss.zipIdx.map fun (x, j) => rowRanges (v 0 + BitVec.ofNat 64 (fmtBytes (mFa w) (128 * j))) m pitch (fmtBytes (mFa w) x.2.1) true).flatten
    (rs, bad ++ failing (aDesc (v 1)) ++ (if span then wide w else []) ++ busy [w.d.num])
  | .mmap w =>
    let (ss, bad) := slotsOf w false
    let (_, m, pitch) := aFields (v 1)
    (if ss = [] then [] else rowRanges (v 0) m pitch (fmtBytes (mFa w) (ss.headD (0, 0, 0)).2.1) true,
      bad ++ failing (aDesc (v 1)) ++ wide w)
  | .msa w =>
    (match p.part with
    | none => ([], 5 :: busy [w.d.num])
    | some (fa, fb, _, m, cols, kr) =>
      let g := if w.m.getLsbD 0 then (kr + 31) / 32 else (kr + 7) / 8
      let st := (v 0).toNat
      (rowRanges (v 1) m (st % 2 ^ 32) g true ++ cols.map fun n => (v 2 + BitVec.ofNat 64 (n * (st / 2 ^ 32)), g, true),
        (if !w.m.getLsbD 0 ∧ (fa ≠ 0 ∨ fb ≠ 0) then [5] else []) ++ busy [w.d.num]))
  | .mzero w => ([], (if w.m.getLsbD 0 then failing (regionOf (v 0)) else []) ++ busy [w.d.num])
  | .mmov w =>
    if w.m.getLsbD 0 then
      let r := regionFields (v 1)
      (rowRanges (v 0) r.m r.pitch (r.n * (if w.m.toNat / 2 % 4 = 0 then 4 else 2)) true, failing (regionOf (v 1)) ++ busy [w.d.num])
    else ([], failing (regionOf (v 0)) ++ busy [w.d.num, w.a.num])
  | .mdr w =>
    let r := regionFields (v 1)
    let f := w.m.toNat % 8
    let band : List MRange := if w.m.getLsbD 5 then [(v 3, 10, true)] else []
    let bad := failing (regionOf (v 1)) ++ busy [w.a.num]
    if f ≤ 2 then (rowRanges (v 0) r.m r.pitch (r.n * mdrSize f) false ++ band, bad)
    else
      let b := mdrBlock f
      let n := if mdrWide f then r.n else (r.n + 1) / 2
      let off := decide (r.pitch % mdrDiv f ≠ 0) || decide (r.col0 % b ≠ 0) || decide (r.n % b ≠ 0)
      (rowRanges (v 0) r.m r.pitch n false ++ rowRanges (v 2) r.m (r.pitch / mdrDiv f) ((r.n + b - 1) / b) false ++ band,
        bad ++ (if off then [9] else []))
  | .mmt w =>
    (match mmtDesc w block with
    | none => ([], 3 :: (if p.mmt.isSome then [7] else []))
    | some d =>
      let sc (base rows : Nat) : List MRange :=
        let k := d.k / (if mMx w then 32 else 8)
        if mScaled w then rowRanges (BitVec.ofNat 64 base) rows k k true else []
      (rowRanges (BitVec.ofNat 64 d.a) d.m d.aPitch (fmtBytes (mFa w) d.k) true
        ++ rowRanges (BitVec.ofNat 64 d.b) d.n d.bPitch (fmtBytes (mFb w) d.k) true
        ++ rowRanges (BitVec.ofNat 64 d.c) d.m d.cPitch (4 * d.n) true ++ sc d.sa d.m ++ sc d.sb d.n,
        if p.mmt.isSome then [7] else []))
  | .mres _ => ([], if p.mmt.isNone then [7] else [])
  | .mchk w => ([], if !w.m.getLsbD 0 ∧ 10 < (v 0).toNat then [10] else [])
  | _ => ([], [])
/-- A precise cause of a command: code, address, EXTRA. -/
abbrev MCause := Cause × W64 × W64
/-- Of several causes the lowest code, and of its addresses the lowest (R180). -/
def lowestCause : List MCause → Option MCause
  | [] => none
  | x :: xs => some (xs.foldl (fun m y =>
      if y.1.code.toNat < m.1.code.toNat ∨ (y.1 = m.1 ∧ y.2.1.toNat < m.2.1.toNat) then y else m) x)
/-- Access kind of a command's cause (R175): a drain stores, a drain with add updates, all else loads. -/
def mKind (i : Instr) : Nat :=
  match i with
  | .mdr x => if x.m.getLsbD 6 then 2 else 1
  | _ => 0
/-- The check of a command's ranges and projection (R180, R247, R263, R270). An address that is not canonical is none of
its causes: it fails as the drain resolves (R262, R270). -/
def State.matrixCheck (s : State) (wg : Nat) (w : Wg) (i : Instr) (vals : List W64) (block : List Byte) : Option MCause :=
  let (rs, reasons) := (s.project wg w).check i vals block
  let mis : List MCause := match i with
    | .mdr x => if x.m.getLsbD 6 ∧ ((vals.getD 0 0).toNat % 4 ≠ 0 ∨ (vals.getD 1 0).toNat / 2 ^ 32 % 4 ≠ 0) then
        [(.alignAtomic, vals.getD 0 0, BitVec.ofNat 64 (2 + 256 * 4))] else []
    | _ => []
  let bad : List MCause := rs.filterMap fun (va, n, loc) =>
    if loc && !isLocal va then none
    else match s.addrCheck w va n with
      | none | some .addrCanon => none
      | some c => some (c, va, BitVec.ofNat 64 (mKind i + 256 * w.rangeExtra c))
  let outside := rs.any fun (va, n, loc) => loc && decide (0 < n) && !isLocal va
  let state : List MCause := match reasons ++ (if outside then [8] else []) with
    | [] => []
    | r :: rs => [(.macroState, 0, BitVec.ofNat 64 (rs.foldl min r))]
  lowestCause (mis ++ bad ++ state)

/-- The ranges of a command as elements, for the accesses it must wait for (R249, R323). -/
def State.matrixEls (s : State) (wg : Nat) (w : Wg) (i : Instr) (vals : List W64) (block : List Byte) : List (Nat × W64 × Nat) :=
  ((s.project wg w).check i vals block).1.map fun (va, n, _) => (0, va, n)

/-! ### Issue (R242, R245, R246) -/

/-- The uniform sources of a command, in the order its meaning takes them. -/
def matrixVals (r : Regs) (i : Instr) : List W64 :=
  let u (o : Opnd) : W64 := match o with
    | .s n => r.uni n.toNat
    | .imm k => BitVec.ofInt 64 (inlineVal k)
    | _ => 0
  match i with
  | .bld w => [u w.a, u w.b]
  | .mma w | .mmap w => [u w.b, u w.c]
  | .msa w => [u w.a, u w.b, u w.c]
  | .mzero w => [u w.b]
  | .mdr w => [u w.b, r.uni w.c.num, r.uni (w.c.num + 1), r.uni (w.c.num + 2)]
  | .mmov w => if w.m.getLsbD 0 then [u w.a, u w.b] else [u w.b]
  | .mmt w => [u w.b, u w.c]
  | .mres w => [u w.b]
  | .mchk w => [u w.a]
  | _ => []
/-- The token register of a command. -/
def matrixToken (i : Instr) : Option Nat :=
  match i with
  | .mdr w | .mmt w | .mres w => some w.d.num
  | _ => none
/-- The value of a scratchpad range at a virtual address. -/
def State.engRead (s : State) (w : Wg) (va : W64) (n : Nat) : Nat :=
  leNat ((List.range n).map fun k => match s.localByte w (va + BitVec.ofNat 64 k) with
    | .ok p => s.readPlace w.core 2 p
    | .error _ => 0)
/-- The descriptor block of an MMT (R264): its 64 bytes, or the cause of one that is not aligned in the workgroup area. -/
def State.mmtBlock (s : State) (w : Wg) (i : Instr) (vals : List W64) : Except MCause (List Byte) :=
  match i with
  | .mmt _ =>
    let a := vals.getD 0 0
    let size := w.desc.scratch * 256
    if a.toNat % 64 ≠ 0 ∨ size ≤ (a - (windowBase + BitVec.ofNat 64 (w.member * size))).toNat then .error (.alignAtomic, a, 256 * 64)
    else .ok (leBytes 64 (s.engRead w a 64))
  | _ => .ok []
/-- The lowest address of some scratchpad ranges whose bytes are poisoned (R249, R390). -/
def State.rangesPoison (s : State) (w : Wg) (rs : List MRange) : Option W64 :=
  if s.poison = [] then none else
  (rs.map fun (va, n, _) => (List.range n).map fun k => va + BitVec.ofNat 64 k).flatten.foldl (fun (m : Option W64) a =>
    match s.localByte w a with
    | .error _ => m
    | .ok p => if !s.poisoned p.num then m else match m with
      | none => some a
      | some b => some (if a.toNat < b.toNat then a else b)) none
/-- Make a workgroup the owner of its core's free engine: a saved context returns, else every part is clear (R242–R244). -/
def State.claimEngine (s : State) (wg : Nat) (w : Wg) : State :=
  let x := s.core w.core
  let s := s.setCore w.core { x with owner := some wg, ctx := (w.savedCtx.map (s.openCtx w)).getD .clear }
  { s with wgs := s.wgs.modify wg fun w => { w with savedCtx := none, claim := none } }
/-- Give a released engine to the waiting workgroup whose claim is earliest (R369). -/
def State.handOver (s : State) (core : Nat) : State :=
  let s := s.setCore core { s.core core with owner := none, ctx := .clear }
  let waiting : List (Nat × Wg × Nat) := s.wgs.filterMap fun x =>
    if x.2.core = core ∧ (x.2.phase = .resident ∨ x.2.phase = .ended) then x.2.claim.map fun t => (x.1, x.2, t) else none
  match waiting with
  | [] => s
  | x :: xs =>
    let b := xs.foldl (fun m y => if y.2.2 < m.2.2 ∨ (y.2.2 = m.2.2 ∧ y.2.1.slot < m.2.1.slot) then y else m) x
    s.claimEngine b.1 b.2.1
/-- Issue a command (R242, R245–R247). -/
def Ctx.matrix (c : Ctx) (s : State) (i : Instr) (g : Guard) : Res :=
  let part := c.part g
  if part = 0 then .next s else
  match (s.core c.core).owner with
  | none => go (s.claimEngine c.g.wg c.w) part
  | some u =>
    if u = c.g.wg then go s part
    else if c.w.claim.isSome then .hold
    else .wait { s with wgs := s.wgs.modify c.g.wg fun w => { w with claim := some s.stepNo } }
where
  /-- The owner's command: the queue limit, the block, the checks, then the queue. -/
  go (s : State) (part : Mask) : Res :=
    match s.wgs.get? c.g.wg with
    | none => .hold
    | some w =>
      let vals := matrixVals c.regs i
      if 16 ≤ w.mqueue.length then .hold else
      if (i matches .mmt _) && s.overlaps c.g.wg c.g.gi [(0, vals.getD 0 0, 64)] then .hold else
      match s.mmtBlock w i vals with
      | .error (cause, addr, extra) => .cause cause part addr extra
      | .ok block =>
        match s.matrixCheck c.g.wg w i vals block with
        | some (cause, addr, extra) => .cause cause part addr extra
        | none =>
          if s.overlaps c.g.wg c.g.gi (s.matrixEls c.g.wg w i vals block) then .hold else
          let id := s.nextId
          let m : MCmd :=
            { id, gi := c.g.gi, word := i, vals, block, token := matrixToken i, owner := id, ofs := c.g.ofs, plane := c.plane,
              exec := c.g.exec, pmask := c.g.pmask, joins := [], running := false, waiting := false, left := 0, sent := 0, dead := none }
          let pend : List RegSpan := match matrixToken i with
            | some t => [⟨.s, t, 1⟩]
            | none => []
          let read : List MRange := if i matches .mmt _ then [(vals.getD 0 0, 64, true)] else []
          let s := s.consume c.g.wg c.g.gi id (s.rangesPoison w read)
          .next { s with nextId := id + 1, wgs := s.wgs.set c.g.wg { w with mqueue := w.mqueue ++ [m] },
                         groups := s.groups.modify c.k fun g => g.setPending pend id }

/-- BLD (R254). -/
def execBld (w : RRR) (s : State) : Host.Outcome State Fault Refusal := issue (.bld w) s fun s c => c.matrix s (.bld w) w.g
/-- MMA (R255). -/
def execMma (w : RRR) (s : State) : Host.Outcome State Fault Refusal := issue (.mma w) s fun s c => c.matrix s (.mma w) w.g
/-- MMAP (R256). -/
def execMmap (w : RRR) (s : State) : Host.Outcome State Fault Refusal := issue (.mmap w) s fun s c => c.matrix s (.mmap w) w.g
/-- MSA (R257). -/
def execMsa (w : RRR) (s : State) : Host.Outcome State Fault Refusal := issue (.msa w) s fun s c => c.matrix s (.msa w) w.g
/-- MZERO (R258). -/
def execMzero (w : RRR) (s : State) : Host.Outcome State Fault Refusal := issue (.mzero w) s fun s c => c.matrix s (.mzero w) w.g
/-- MDR (R260). -/
def execMdr (w : RRR) (s : State) : Host.Outcome State Fault Refusal := issue (.mdr w) s fun s c => c.matrix s (.mdr w) w.g
/-- MMOV (R259). -/
def execMmov (w : RRR) (s : State) : Host.Outcome State Fault Refusal := issue (.mmov w) s fun s c => c.matrix s (.mmov w) w.g
/-- MMT (R264). -/
def execMmt (w : RRR) (s : State) : Host.Outcome State Fault Refusal := issue (.mmt w) s fun s c => c.matrix s (.mmt w) w.g
/-- MRES (R266). -/
def execMres (w : RRR) (s : State) : Host.Outcome State Fault Refusal := issue (.mres w) s fun s c => c.matrix s (.mres w) w.g
/-- MCHK (R268). -/
def execMchk (w : RRR) (s : State) : Host.Outcome State Fault Refusal := issue (.mchk w) s fun s c => c.matrix s (.mchk w) w.g
/-- MSTAT's value (R267). -/
def State.mstat (s : State) (wg : Nat) (w : Wg) : W64 :=
  let x := s.core w.core
  let cols := ((List.range 32).filter fun k => !x.retired.getLsbD k).length
  let common := cols * 2 ^ 24 + x.retired.toNat * 2 ^ 32
  if x.owner = some wg then
    let running := w.mqueue.any fun m => m.running && (match m.word with
      | .mmt _ | .mres _ => true
      | _ => false)
    let seq := match x.ctx.mmt with
      | some m => (if running then 1 else 2) + m.mb * 2 ^ 4 + m.nb * 2 ^ 6 + m.kstep * 2 ^ 8
      | none => if running then 1 else 0
    BitVec.ofNat 64 (seq + 4 + (if w.foDrop then 8 else 0) + x.ctx.chkK * 2 ^ 16 + (if x.ctx.chkOn then 2 ^ 20 else 0) + common)
  else BitVec.ofNat 64 common
/-- MSTAT (R267): waits for the commands that were queued when it first found them. -/
def execMstat (w : RRR) (s : State) : Host.Outcome State Fault Refusal :=
  issue (.mstat w) s fun s c =>
    if c.part w.g = 0 then .next s else
    let (held, upTo) := match c.g.wait with
      | .mstat n => (true, n)
      | _ => (false, s.nextId)
    if !w.m.getLsbD 0 ∧ c.w.mqueue.any fun m => decide (m.id < upTo) then
      if held then .hold else .held (s.setGroup c.k { c.g with wait := .mstat upTo })
    else
      let v := s.mstat c.g.wg c.w
      let s := s.setGroup c.k { c.g with wait := .none }
      let s := if (s.core c.core).owner = some c.g.wg then
          { s with wgs := s.wgs.modify c.g.wg fun w => { w with foDrop := false } }
        else s
      let s := s.updRegs c.k fun r => r.setUni w.d.num v
      if held then .resumed s else .next s

/-! ### Performing commands (R254–R266) -/

/-- A reader of bytes from a scratchpad address. -/
def State.engByte (s : State) (w : Wg) (base : W64) (i : Nat) : Nat := s.engRead w (base + BitVec.ofNat 64 i) 1
/-- BLD's slot (R254). -/
def State.loadSlot (s : State) (w : Wg) (fb : Nat) (src desc : W64) : Option CimSlot :=
  match bDesc fb desc with
  | .error _ => none
  | .ok (kr, nc, pitch) =>
    some { fb, kr, nc,
           codes := (((List.range kr).map fun i => (List.range nc).map fun n =>
             (256 * i + n, BitVec.ofNat 16 (elemCode fb (s.engByte w (src + BitVec.ofNat 64 (n * pitch))) i))).flatten) }
/-- A slot's element code. -/
def CimSlot.code (x : CimSlot) (row col : Nat) : Nat := (x.codes.getD (256 * row + col) 0).toNat
/-- The row-group partials of a row of A against a slot's column. -/
def State.slotGroups (s : State) (w : Wg) (fa : Nat) (x : CimSlot) (row : W64) (first n : Nat) : List Scaled :=
  rowGroups fa x.fb (fun i => if i < x.kr then elemCode fa (s.engByte w row) (first + i) else 0) (fun i => if i < x.kr then x.code i n else 0)
/-- Count check units of the self-check (R268). -/
def MCtx.units (x : MCtx) (n : Nat) : MCtx := if x.chkOn then { x with chkCount := x.chkCount + n } else x
@[inherit_doc MCtx.units] def MCtx.unit (x : MCtx) : MCtx := x.units 1
/-- MMA on a context (R255). -/
def State.mmaRun (s : State) (w : Wg) (x : MCtx) (i : RRR) (base desc : W64) : MCtx :=
  match aDesc desc with
  | .error _ => x
  | .ok (row0, m, pitch) =>
    let ss := (mmaSlots i).filterMap fun k => x.slots.get? k
    let span := i.m.getLsbD 8
    let rowAt (r : Nat) : W64 := base + BitVec.ofNat 64 (r * pitch)
    -- each element's K-steps: slot, first element of A, column of the slot, and the tile's column
    let work : List (CimSlot × Nat × Nat × Nat) :=
      (ss.zipIdx.map fun (c, j) => (List.range c.nc).map fun n =>
        (c, if span then 0 else 128 * j, n, if span then j * cpm (mFb i) + n else n)).flatten
    (work.foldl (fun x (c, first, n, col) => (List.range m).foldl (fun (x : MCtx) r =>
      x.setElem i.d.num (row0 + r) col
        (fAdd (x.elem i.d.num (row0 + r) col) (kStepValue (s.slotGroups w (mFa i) c (rowAt r) first n)))) x) x).unit
/-- MMAP on a context (R256). -/
def State.mmapRun (s : State) (w : Wg) (x : MCtx) (i : RRR) (base desc : W64) : MCtx :=
  match aDesc desc with
  | .error _ => x
  | .ok (row0, m, pitch) =>
    let ss := (mmaSlots i).filterMap fun k => x.slots.get? k
    let vals := ((ss.zipIdx.map fun (c, j) => ((List.range c.nc).map fun n =>
      ((List.range m).map fun r =>
        ((s.slotGroups w (mFa i) c (base + BitVec.ofNat 64 (r * pitch)) 0 n).zipIdx.map fun (p, g) =>
          ((r * 256 + (j * cpm (mFb i) + n)) * 16 + g, p))).flatten).flatten).flatten)
    let part : Partials := ⟨row0, m, spanCols i (ss.map (·.nc)), mFa i, mFb i, (ss.head?.map (·.kr)).getD 0, vals⟩
    { x with part := some part }.unit
/-- The scale of a row group from a run of scale bytes; none where no scale is read (R257). -/
def State.scaleAt (s : State) (w : Wg) (mx : Bool) (kr : Nat) (base : W64) (g : Nat) : Option Num :=
  if kr ≤ 8 * g then none
  else if mx then some (e8m0Decode (s.engByte w base (g / 4))) else some (e3m5Decode (s.engByte w base g))
/-- MSA on a context (R257). -/
def State.msaRun (s : State) (w : Wg) (x : MCtx) (i : RRR) (strides sa sb : W64) : MCtx :=
  match x.part with
  | none => x
  | some p =>
    let mx := i.m.getLsbD 0
    let st := strides.toNat
    let x := (List.range p.m).foldl (fun (x : MCtx) r => p.cols.foldl (fun (x : MCtx) n =>
      let gs : List Scaled := (List.range 16).map fun g => match p.vals.find? fun y => y.1 == (r * 256 + n) * 16 + g with
        | some y => y.2
        | none => some (0, 0)
      let v := foldValue gs (s.scaleAt w mx p.kr (sa + BitVec.ofNat 64 (r * (st % 2 ^ 32)))) (s.scaleAt w mx p.kr (sb + BitVec.ofNat 64 (n * (st / 2 ^ 32))))
      x.setElem i.d.num (p.row0 + r) n (fAdd (x.elem i.d.num (p.row0 + r) n) v)) x) x
    { x with part := none }
/-- Write a value to each element of a region. -/
def MCtx.fill (x : MCtx) (tile : Nat) (r : Region) (f : Nat → Nat → Nat) : MCtx :=
  (List.range r.m).foldl (fun x m => (List.range r.n).foldl (fun x n => x.setElem tile (r.row0 + m) (r.col0 + n) (f m n)) x) x
/-- MZERO of a whole tile. -/
def MCtx.zeroTile (x : MCtx) (tile : Nat) : MCtx :=
  { x with acc := x.acc.filter fun y => decide (y.1 / 16384 ≠ tile), free := x.free.del tile }

/-- One K-step of an MMT's element (R265). -/
def State.mmtElem (s : State) (w : Wg) (i : RRR) (d : MmtDesc) (row col j : Nat) : Nat :=
  let k0 := 128 * j
  let n := min 128 (d.k - k0)
  let aBase := BitVec.ofNat 64 (d.a + row * d.aPitch)
  let bBase := BitVec.ofNat 64 (d.b + col * d.bPitch)
  let gs := rowGroups (mFa i) (mFb i) (fun e => if e < n then elemCode (mFa i) (s.engByte w aBase) (k0 + e) else 0)
    (fun e => if e < n then elemCode (mFb i) (s.engByte w bBase) (k0 + e) else 0)
  if mScaled i then
    let b := if mMx i then 32 else 8
    foldValue gs (s.scaleAt w (mMx i) n (BitVec.ofNat 64 (d.sa + row * (d.k / b) + k0 / b)))
      (s.scaleAt w (mMx i) n (BitVec.ofNat 64 (d.sb + col * (d.k / b) + k0 / b)))
  else kStepValue gs
/-- Write an element to a scratchpad address. -/
def State.engWrite (s : State) (w : Wg) (va : W64) (n v : Nat) : State :=
  ((leBytes n v).zipIdx).foldl (fun s (b, k) => match s.localByte w (va + BitVec.ofNat 64 k) with
    | .ok p => s.writePlace w.core 2 p b
    | .error _ => s) s
/-- Rows and columns of the block at a position. -/
def MmtDesc.rowsAt (d : MmtDesc) (mb : Nat) : Nat := min 64 (d.m - 64 * mb)
@[inherit_doc MmtDesc.rowsAt] def MmtDesc.colsAt (d : MmtDesc) (nb : Nat) : Nat := min 256 (d.n - 256 * nb)
/-- One K-step of the sequencer: the new position (none when the work is done), the bytes of C written (R265). -/
def State.mmtStep (s : State) (w : Wg) (m : Mmt) (d : MmtDesc) : State × Option Mmt × Nat :=
  let rows := d.rowsAt m.mb
  let cols := d.colsAt m.nb
  let cAt (r c : Nat) : W64 := BitVec.ofNat 64 (d.c + (64 * m.mb + r) * d.cPitch + 4 * (256 * m.nb + c))
  let cells := ((List.range rows).map fun r => (List.range cols).map fun c => (r, c)).flatten
  let old (r c : Nat) : Nat := if m.kstep = 0 then s.engRead w (cAt r c) 4 else (m.tile.getD (256 * r + c) 0).toNat
  let tile : Tab W32 := cells.map fun (r, c) =>
    (256 * r + c, BitVec.ofNat 32 (fAdd (old r c) (s.mmtElem w m.word d (64 * m.mb + r) (256 * m.nb + c) m.kstep)))
  if m.kstep + 1 < d.ksteps then (s, some { m with kstep := m.kstep + 1, tile }, 0)
  else
    let s := cells.foldl (fun s (r, c) => s.engWrite w (cAt r c) 4 (tile.getD (256 * r + c) 0).toNat) s
    let n := 4 * rows * cols
    if m.nb + 1 < d.nbs then (s, some { m with nb := m.nb + 1, kstep := 0, tile := [] }, n)
    else if m.mb + 1 < d.mbs then (s, some { m with mb := m.mb + 1, nb := 0, kstep := 0, tile := [] }, n)
    else (s, none, n)
/-- Blocks that a run of `n` K-steps from a position begins: the check units of the run (R268). -/
def MmtDesc.begun (d : MmtDesc) (mb nb k n : Nat) : Nat :=
  let a := (mb * d.nbs + nb) * d.ksteps + k
  let b := min (a + n) (d.mbs * d.nbs * d.ksteps)
  (b + d.ksteps - 1) / d.ksteps - (a + d.ksteps - 1) / d.ksteps
/-- The ranges that the K-step at a position reads (R265). -/
def Mmt.reads (m : Mmt) (d : MmtDesc) : List MRange :=
  let i := m.word
  let rows := d.rowsAt m.mb
  let cols := d.colsAt m.nb
  let k0 := 128 * m.kstep
  let n := min 128 (d.k - k0)
  let base (x row pitch at_ : Nat) : W64 := BitVec.ofNat 64 (x + row * pitch + at_)
  let b := if mMx i then 32 else 8
  rowRanges (base d.a (64 * m.mb) d.aPitch (fmtBytes (mFa i) k0)) rows d.aPitch (fmtBytes (mFa i) n) true
    ++ rowRanges (base d.b (256 * m.nb) d.bPitch (fmtBytes (mFb i) k0)) cols d.bPitch (fmtBytes (mFb i) n) true
    ++ (if mScaled i then
        rowRanges (base d.sa (64 * m.mb) (d.k / b) (k0 / b)) rows (d.k / b) (n / b) true
          ++ rowRanges (base d.sb (256 * m.nb) (d.k / b) (k0 / b)) cols (d.k / b) (n / b) true
      else [])
    ++ if m.kstep = 0 then rowRanges (base d.c (64 * m.mb) d.cPitch (1024 * m.nb)) rows d.cPitch (4 * cols) true else []
/-- Run the sequencer for a command over a number of K-steps; poison it reads is its group's (R249). -/
def State.mmtRun (s : State) (u : Nat) (w : Wg) (c : MCmd) (d : MmtDesc) : Nat → Mmt → Nat → State × Option Mmt × Nat
  | 0, m, n => (s, some m, n)
  | k + 1, m, n =>
    match (s.consume u c.gi c.id (s.rangesPoison w (m.reads d))).mmtStep w m d with
    | (s, none, b) => (s, none, n + b)
    | (s, some m, b) => State.mmtRun s u w c d k m (n + b)
/-- A context after the sequencer has stopped: slots and partials are clear; a finished one leaves its tiles
unspecified (R265). -/
def MCtx.afterMmt (x : MCtx) (tile stepNo : Nat) (m : Option Mmt) : MCtx :=
  let x := { x with slots := [], part := none, mmt := m.map fun y => { y with held := true } }
  if m.isSome then x
  else { x with acc := x.acc.filter fun y => decide (y.1 / 16384 ≠ tile ∧ y.1 / 16384 ≠ tile + 1),
                free := (x.free.set tile stepNo).set (tile + 1) stepNo }

/-! ### Drains (R260–R263) -/

/-- The value of a drained element. -/
def State.drainElem (s : State) (w : Wg) (x : MCtx) (i : RRR) (r : Region) (band : W64) (m n : Nat) : Num :=
  let v := fNum (x.elem i.a.num (r.row0 + m) (r.col0 + n))
  if i.m.getLsbD 5 then
    let bf (o : Nat) : Num := bf16.decode (s.engRead w (band + BitVec.ofNat 64 o) 2)
    (v.mul (bf 0)).mul (bf (2 + 2 * ((r.col0 + n) / 64)))
  else v
/-- Bytes of 4-bit codes, packed (R87). -/
def packNibbles : List Nat → List Nat
  | a :: b :: t => (a % 16 + b % 16 * 16) :: packNibbles t
  | [a] => [a % 16]
  | [] => []
/-- The rounding mode of RND. -/
def drainRnd (k : Nat) : RMode := match k with
  | 0 => .near
  | 1 => .zero
  | 2 => .up
  | _ => .down
/-- What a drain writes: address, bytes and value of each element, and of each scale (R260). -/
def State.drainWrites (s : State) (w : Wg) (x : MCtx) (i : RRR) (vals : List W64) : List (W64 × Nat × Nat) :=
  match regionOf (vals.getD 1 0) with
  | .error _ => []
  | .ok r =>
    let f := i.m.toNat % 8
    let rm := drainRnd (i.m.toNat / 8 % 4)
    let dst := vals.getD 0 0
    let el (m n : Nat) := s.drainElem w x i r (vals.getD 3 0) m n
    let rows := List.range r.m
    if f ≤ 2 then
      let fm := if f = 0 then fp32 else if f = 1 then fp16 else bf16
      (rows.map fun m => (List.range r.n).map fun n =>
        (dst + BitVec.ofNat 64 (m * r.pitch + n * mdrSize f), mdrSize f, fm.encode rm (i.m.getLsbD 7) (el m n))).flatten
    else
      let b := mdrBlock f
      let k := if f = 4 then 0 else if f = 5 then 1 else 2
      let blk (m j : Nat) : Nat × List Nat :=
        let xs := (List.range b).map fun t => el m (b * j + t)
        if f = 3 then
          let sc := nb8Scale xs
          (sc, xs.map (nb8Code rm sc))
        else
          let sc := mxScale k xs
          (sc, xs.map (mxCode k rm sc))
      (rows.map fun m => ((List.range (r.n / b)).map fun j =>
        let (sc, cs) := blk m j
        let bytes := if mdrWide f then cs else packNibbles cs
        let at_ := if mdrWide f then b * j else b * j / 2
        (vals.getD 2 0 + BitVec.ofNat 64 (m * (r.pitch / mdrDiv f) + j), 1, sc) ::
          (bytes.zipIdx.map fun (v, t) => (dst + BitVec.ofNat 64 (m * r.pitch + at_ + t), 1, v))).flatten).flatten
/-- The place of a byte as a base-die engine reaches it for a workgroup (R384); an address that is not canonical has none. -/
def State.engPlace (s : State) (w : Wg) (kind : Nat) (va : W64) : Except TransFail Place :=
  if !canonical va then .error (.dead Cause.addrCanon.code 0)
  else if isLocal va then
    match s.localByte w va with
    | .ok p => .ok p
    | .error c => .error (.dead c.code 0)
  else
    match s.translate 96 w.pasid w.pitch kind va with
    | .error e => .error e
    | .ok t =>
      if kind ≠ 0 ∧ targetOf (t.phys va) = .doorbell then .error (.dead 0x27 0)
      else .ok (.mem (Pte.key t.leaf) (Pte.cache t.leaf) (t.phys va))
/-- Write a byte as an engine does: the line leaves the core's L1 first; a system page is written at .sys (R404). -/
def State.engPut (s : State) (core : Nat) (p : Place) (b : Byte) : State :=
  match p with
  | .scr c k o => s.setScrByte c k o b
  | .mem k ca a => (s.flushLine core a).setPastL1 k ca 3 a b
/-- Write bytes at places as an engine does. Where several meet on one place, as `twice` says they may, one of them stands, freely
chosen (R9, R225, R260; log entry 105). -/
def State.engLand (s : State) (core : Nat) (ws : List (Place × Byte)) (twice : Bool) : State :=
  let step (x : State × List Nat × Nat) (w : Place × Byte) : State × List Nat × Nat :=
    let (s, seen, k) := x
    if twice && seen.contains w.1.num && Config.freeBool s.stepNo (2 ^ 48 + k) then (s, seen, k + 1)
    else (s.engPut core w.1 w.2, if twice then w.1.num :: seen else seen, k + 1)
  (ws.foldl step (s, [], 0)).1
/-- Resolve a list of bytes: their places, or the first that fails. -/
def State.engPlaces (s : State) (w : Wg) (kind : Nat) : List W64 → Except (W64 × TransFail) (List Place)
  | [] => .ok []
  | a :: as =>
    match s.engPlace w kind a with
    | .error e => .error (a, e)
    | .ok p => match State.engPlaces s w kind as with
      | .ok ps => .ok (p :: ps)
      | .error e => .error e
/-- Note the pages an engine touched in the base-die TLB (R387). -/
def State.touchPages (s : State) (w : Wg) (kind : Nat) (vas : List W64) : State :=
  (dedup ((vas.filter fun a => !isLocal a).map fun a => a.toNat / 4096)).foldl (fun s p =>
    let va := BitVec.ofNat 64 (p * 4096)
    match s.translate 96 w.pasid w.pitch kind va with
    | .ok t => s.touchTlb 96 w.pasid va t
    | .error _ => s) s
/-- The bytes of a list of writes. -/
def writeBytes (ws : List (W64 × Nat × Nat)) : List (W64 × Byte) :=
  (ws.map fun (a, n, v) => ((leBytes n v).zipIdx).map fun (b, k) => (a + BitVec.ofNat 64 k, b)).flatten
/-- The area of the local aperture that an address lies in: the member's of the neighbourhood window (R71). -/
def Wg.areaNo (w : Wg) (va : W64) : Nat :=
  if isLocal va then (va - windowBase).toNat / (w.desc.scratch * 256) else 0
/-- The units of a drain with add: each row's run of `n` elements, split at every boundary of 4 KiB or of a member's area (R71,
R263). -/
def drainUnits (w : Wg) (n : Nat) (ws : List (W64 × Nat × Nat)) (places : List Place) : List UUnit :=
  (ws.zipIdx).foldl (fun us ((a, _, v), k) =>
    let one : UUnit := ⟨0, a, 0, 4, [BitVec.ofNat 64 v], 0, (places.drop (4 * k)).take 4⟩
    match us.getLast? with
    | some u =>
      if k % n ≠ 0 ∧ a.toNat / 4096 = u.addr.toNat / 4096 ∧ w.areaNo a = w.areaNo u.addr then
        us.dropLast ++ [{ u with vals := u.vals ++ one.vals, places := u.places ++ one.places }]
      else us ++ [one]
    | none => [one]) []
/-- Apply a drain's units, ascending. -/
def State.applyDrain (s : State) (core : Nat) (us : List UUnit) : State × Bool :=
  us.foldl (fun (x : State × Bool) u =>
    let y := x.1.applyUnit core u
    (y.1, x.2 || y.2.2)) (s, false)
/-- Bytes grouped by 4 KiB block, ascending: the drain pieces of R339. -/
def drainPieces (bs : List (W64 × Byte)) : List (List (W64 × Byte)) :=
  let blocks := dedup (bs.map fun x => x.1.toNat / 4096)
  let sorted := blocks.foldl (fun (l : List Nat) b => (l.takeWhile fun y => decide (y < b)) ++ [b] ++ l.dropWhile fun y => decide (y < b)) []
  sorted.map fun b => bs.filter fun x => x.1.toNat / 4096 = b

/-! ### Completion (R246, R262, R265, R266) -/

/-- How a command's completion attempt ends. -/
inductive MDone where
  | done (s : State) (x : MCtx) (token : W64)
  /-- Waits for a page. -/
  | wait (s : State)
  /-- A drain's further entries wait for room in the compare buffer; so many have entered (R339). -/
  | part (s : State) (n : Nat)
  /-- A drain that failed: cause, address, EXTRA (R262). -/
  | dead (cause : BitVec 8) (addr extra : W64)
  deriving DecidableEq, Repr

/-- An entry of a drain: kind, width byte, bytes, and what it does at its match. -/
abbrev DrainEntry := Nat × Nat × List (W64 × Byte) × EntryAct
/-- The string of a drain's entry (R340). -/
def MCmd.entryStr (m : MCmd) (e : DrainEntry) : List Byte :=
  entryString e.1 e.2.1 m.plane (BitVec.allOnes 32) (e.2.2.1.map fun (a, b) => leBytes 8 a.toNat ++ [b]).flatten
/-- The entries of a drain: one of all units of an MDR.add, whose width byte is the word's MOD, else one for each piece (R339,
R340). -/
def drainParts (wg : Nat) (m : MCmd) (i : RRR) (ws : List (W64 × Nat × Nat)) (us : List UUnit) : List DrainEntry :=
  if i.m.getLsbD 6 then
    [(2, i.m.toNat % 256, writeBytes ws, .units m.id { deferred wg m.gi m.ofs m.plane m.exec m.exec m.pmask 0 0 0 with units := us })]
  else (drainPieces (writeBytes ws)).map fun bs => (6, 1, bs, .drain bs)
/-- Enter what fits of a drain's entries for a role, ascending: the state and how many have not entered. -/
def State.drainEnter (s : State) (wg : Nat) (m : MCmd) : List DrainEntry → State × Nat
  | [] => (s, 0)
  | e :: es =>
    match s.pairOf wg with
    | some (n, p, lead) =>
      if !p.room lead then (s, es.length + 1) else
      let str := m.entryStr e
      let s := s.addEntry n p lead m.gi 32 e.1 (crc64 str) m.ofs m.plane (e.2.2.1.map fun (a, _) => (0, a, 1)) e.2.2.2
      State.drainEnter (s.auditAdd wg 32 str) wg m es
    | none => (s, es.length + 1)
/-- Send a drain's entries: into the compare buffer of a pair (R336, R339), signed only in an audit replay, else signed and
performed (R452). -/
def State.drainSend (s : State) (wg : Nat) (w : Wg) (x : MCtx) (m : MCmd) (es : List DrainEntry) (token : W64) (perform : State → State) : MDone :=
  match s.pairOf wg with
  | some _ =>
    (match s.drainEnter wg m (es.drop m.sent) with
    | (s, 0) => .done s x token
    | (s, k) => .part s (es.length - k))
  | none =>
    let s := es.foldl (fun s e => s.auditAdd wg 32 (m.entryStr e)) s
    .done (if w.role = 3 then s else perform s) x token
/-- Complete a drain (R260–R263). -/
def State.drainRun (s : State) (wg : Nat) (w : Wg) (x : MCtx) (m : MCmd) (i : RRR) : MDone :=
  let ws := s.drainWrites w x i m.vals
  let add := i.m.getLsbD 6
  let kind := mKind m.word
  let units := drainUnits w (regionFields (m.vals.getD 1 0)).n ws
  let band : List MRange := if i.m.getLsbD 5 then [(m.vals.getD 3 0, 10, true)] else []
  -- a drain that goes on has consumed poison already
  let s := if m.sent = 0 then s.consume wg m.gi m.id (s.rangesPoison w band) else s
  let bs := writeBytes ws
  let token := BitVec.ofNat 64 bs.length
  let sweep := w.role = 2 ∨ w.role = 3
  if sweep ∧ !(bs.all fun b => isLocal b.1) then
    s.drainSend wg w x m (drainParts wg m i ws (units [])) token fun s => s
  else
    match s.engPlaces w kind (bs.map (·.1)) with
    | .error (va, .page c) => .wait ((s.logFault ⟨w.pasid, va, kind, c, .drain w.core⟩))
    | .error (va, .ats) => .wait (s.askAts w.pasid kind va (.drain w.core))
    | .error (va, .dead c e) => .dead c va (BitVec.ofNat 64 (kind + 256 * e))
    | .ok places =>
      let link := places.any fun p => match p with
        | .mem _ _ a => (targetOf a).port.isSome
        | _ => false
      if add ∧ link then
        .dead 0x27 ((bs.head?.map (·.1)).getD 0) 2
      else
        let s := s.touchPages w kind (bs.map (·.1))
        let put (s : State) : State :=
          if add then
            let (s, bad) := s.applyDrain w.core (units places)
            s.consume wg m.gi m.id (if bad then (bs.head?.map (·.1)) else none)
          else
            let s := s.engLand w.core (places.zip (bs.map (·.2))) true
            s.clearPoison (places.map Place.num)
        if bs.all fun b => isLocal b.1 then .done (put s) x token
        else s.drainSend wg w x m (drainParts wg m i ws (units places)) token put
/-- The K-steps that the running MMT or MRES has left, with its token (R265, R266). -/
def State.sequence (s : State) (wg : Nat) (w : Wg) (x : MCtx) (m : MCmd) : MDone :=
  match x.mmt with
  | none => .done s x 0
  | some h =>
    match mmtDesc h.word h.block with
    | none => .done s x 0
    | some d =>
      let (s, r, n) := s.mmtRun wg w m d m.left h m.sent
      .done s ((x.afterMmt h.word.a.num s.stepNo r).units (d.begun h.mb h.nb h.kstep m.left))
        (BitVec.ofNat 64 (n + (if r.isSome then 2 ^ 40 else 0)))
/-- Perform the command at the front of the owner's queue. -/
def State.matrixRun (s : State) (wg : Nat) (w : Wg) (x : MCtx) (m : MCmd) : MDone :=
  let v (k : Nat) : W64 := m.vals.getD k 0
  -- poison in what it reads of scratchpad is its group's (R249)
  let s := if m.word matches .mmt _ | .mres _ | .mdr _ then s
    else s.consume wg m.gi m.id (s.rangesPoison w (x.proj.check m.word m.vals m.block).1)
  match m.word with
  | .bld i => match s.loadSlot w (mFa i) (v 0) (v 1) with
    | some c => .done s { x with slots := x.slots.set i.d.num c } 0
    | none => .done s x 0
  | .mma i => .done s (s.mmaRun w x i (v 0) (v 1)) 0
  | .mmap i => .done s (s.mmapRun w x i (v 0) (v 1)) 0
  | .msa i => .done s (s.msaRun w x i (v 0) (v 1) (v 2)) 0
  | .mzero i =>
    if i.m.getLsbD 0 then
      match regionOf (v 0) with
      | .ok r => .done s (x.fill i.d.num r fun _ _ => 0) 0
      | .error _ => .done s x 0
    else .done s (x.zeroTile i.d.num) 0
  | .mmov i =>
    if i.m.getLsbD 0 then
      match regionOf (v 1) with
      | .ok r =>
        let f := i.m.toNat / 2 % 4
        let size := if f = 0 then 4 else 2
        let fm := if f = 0 then fp32 else if f = 1 then fp16 else bf16
        .done s (x.fill i.d.num r fun a b =>
          fRne (fm.decode (s.engRead w (v 0 + BitVec.ofNat 64 (a * r.pitch + b * size)) size))) 0
      | .error _ => .done s x 0
    else
      match regionOf (v 0) with
      | .ok r => .done s (x.fill i.d.num r fun a b => x.elem i.a.num (r.row0 + a) (r.col0 + b)) 0
      | .error _ => .done s x 0
  | .mdr i => s.drainRun wg w x m i
  | .mmt _ => s.sequence wg w x m
  | .mres i =>
    if i.m.getLsbD 0 then
      (match x.mmt with
      | none => .done s x 0
      | some h => .done s { x.afterMmt h.word.a.num s.stepNo none with slots := x.slots, part := x.part } 0)
    else s.sequence wg w x m
  | .mchk i =>
    if i.m.getLsbD 0 then .done s { x with chkOn := false, chkCount := 0 } 0
    else .done s { x with chkOn := true, chkK := (v 0).toNat, chkCount := 0 } 0
  | _ => .done s x 0

/-- The owner of a core's engine with its record, while it is on the core. -/
def State.engineOwner (s : State) (core : Nat) : Option (Nat × Wg) :=
  match (s.core core).owner with
  | some u => match s.wgs.get? u with
    | some w => if w.phase = .resident ∨ w.phase = .ended then some (u, w) else none
    | none => none
  | none => none
/-- Whether a command named by number is unfinished (R232). -/
def State.unfinished (s : State) (w : Wg) (id : Nat) : Bool := (s.copies.get? id).isSome || w.mqueue.any fun m => m.id == id
/-- The sequencer as a command's start sets it, and the K-steps the command may perform (R265, R266). -/
def MCmd.begins (m : MCmd) (x : MCtx) : MCtx × Nat :=
  let run (h : Mmt) (b : Nat) : MCtx × Nat := match mmtDesc h.word h.block with
    | some d =>
      let left := d.left h.mb h.nb h.kstep
      ({ x with mmt := some { h with held := false } }, if b = 0 then left else min b left)
    | none => (x, 0)
  match m.word with
  | .mmt i => run ⟨i, m.block, 0, 0, 0, [], false⟩ ((m.vals.getD 1 0).toNat % 2 ^ 32)
  | .mres i =>
    (match x.mmt with
    | some h => if i.m.getLsbD 0 then (x, 0) else run h ((m.vals.getD 0 0).toNat % 2 ^ 32)
    | none => (x, 0))
  | _ => (x, 0)
/-- Whether a workgroup's matrix engine stands still for its save: pre-emption has been asked for and its groups stand at
boundaries; a pair's is empty by then (R244, R343, R366). -/
def State.matrixHalts (s : State) (u : Nat) (w : Wg) : Bool :=
  w.preempt && (s.pairOf u).isNone && (s.groupsOf u).all fun x => x.2.atBoundary
/-- The workgroup whose QFENCE at the front of its matrix queue has nothing left to join: it leaves whether or not its
workgroup owns the engine (R231, R232). -/
def State.fenceDone (s : State) (core : Nat) : Option (Nat × Wg) :=
  s.wgs.find? fun (_, w) => w.core == core && (w.phase == .resident || w.phase == .ended) && (match w.mqueue with
    | [] => false
    | m :: ms => (m.word matches .qfence _) && !m.joins.any (s.unfinished { w with mqueue := ms }))
/-- MATRIX_COMMAND_START (R231, R232, R245): a join whose commands are done leaves; else the front of the owner's queue
starts. -/
def execMatrixCommandStart (core : Nat) (s : State) : Host.Outcome State Fault Refusal :=
  match s.fenceDone core with
  | some (u, w) => .next (s.setWg u { w with mqueue := w.mqueue.tail })
  | none =>
    match s.engineOwner core with
    | none => .fault .notEnabled
    | some (u, w) =>
      match w.mqueue with
      | [] => .fault .notEnabled
      | m :: ms =>
        if m.running || (m.word matches .qfence _) || s.matrixHalts u w then .fault .notEnabled
        else
          let (x, left) := m.begins (s.core core).ctx
          .next ((s.setCore core { s.core core with ctx := x }).setWg u { w with mqueue := { m with running := true, left } :: ms })
/-- Write a command's token (R246, R261). -/
def State.tokenDone (s : State) (u : Nat) (w : Wg) (m : MCmd) (v : W64) : State :=
  match m.token with
  | some t => (s.writeDests u m.gi m.ofs m.owner [(.s, t, 0, v)]).wake w.core wakeToken
  | none => s
/-- MAT_SELFCHECK (R269): each checked unit of a command may find a column group at fault, which retires; the agreed
result is what the command wrote. With 16 retired groups the core retires. -/
def State.selfCheck (s : State) (core u : Nat) (old new : MCtx) : State :=
  let checked := (List.range (new.chkCount - old.chkCount)).filterMap fun k =>
    if old.chkOn ∧ (old.chkCount + k) % 2 ^ old.chkK = 0 then Config.columnFault s.stepNo (old.chkCount + k) else none
  checked.foldl (fun s col =>
    let x := s.core core
    if x.retired.getLsbD col.toNat then s
    else
      let s := s.setCore core { x with retired := x.retired ||| (1#32 <<< col.toNat) }
      let s := { s with wgs := s.wgs.modify u fun w => { w with selfcheck := true } }
      let s := s.charge (s.coreOwner core) 0x86 core 0x7F fun e => { e with matChk := sat16 (e.matChk + 1) }
      if 16 ≤ ((List.range 32).filter fun k => (s.core core).retired.getLsbD k).length then s.quarantineRetire core 0x86 else s) s
/-- MATRIX_COMMAND_COMPLETE (R246, R262, R265). -/
def execMatrixCommandComplete (core : Nat) (s : State) : Host.Outcome State Fault Refusal :=
  match s.engineOwner core with
  | none => .fault .notEnabled
  | some (u, w) =>
    match w.mqueue with
    | [] => .fault .notEnabled
    | m :: ms =>
      if !m.running || m.waiting || (decide (0 < m.left) && s.matrixHalts u w) then .fault .notEnabled else
      let old := (s.core core).ctx
      let key := s.pitchKey w.pitch
      let finish (s : State) (x : MCtx) (token : W64) : State :=
        let s := s.setCore core { s.core core with ctx := old.retag x key (old.writes m.word) }
        let s := { s with wgs := s.wgs.modify u fun w => { w with mqueue := ms } }
        s.tokenDone u w m token
      let fail (cause : BitVec 8) (addr extra : W64) : State :=
        (finish s (old.seen key) 0).defer (deferred u m.gi m.ofs m.plane m.exec m.exec m.pmask cause addr extra)
      match m.dead with
      | some (cause, va) => .next (fail cause va (BitVec.ofNat 64 (mKind m.word)))
      | none =>
        match s.matrixRun u w (old.seen key) m with
        | .done s' x token => .next ((finish s' x token).selfCheck core u old x)
        | .dead cause addr extra => .next (fail cause addr extra)
        | .wait s' => .next { s' with wgs := s'.wgs.modify u fun w => { w with mqueue := { m with waiting := true } :: ms } }
        | .part s' n => if n = m.sent then .fault .notEnabled
          else .next { s' with wgs := s'.wgs.modify u fun w => { w with mqueue := { m with sent := n } :: ms } }
/-- One K-step of a running MMT or MRES, but for its last, which completes it: a save may find it between any two (R244,
R265). -/
def State.matrixStep (s : State) (core : Nat) : Option State :=
  match s.engineOwner core with
  | none => none
  | some (u, w) =>
    match w.mqueue, (s.core core).ctx.mmt with
    | m :: ms, some h =>
      if !m.running ∨ m.left ≤ 1 ∨ s.matrixHalts u w then none else
      (match mmtDesc h.word h.block with
      | none => none
      | some d =>
        let old := (s.core core).ctx
        let key := s.pitchKey w.pitch
        let h := ((old.seen key).mmt).getD h
        let (s', r, n) := s.mmtRun u w m d 1 h m.sent
        let x := { old.seen key with mmt := r }.units (d.begun h.mb h.nb h.kstep 1)
        let s' := s'.setCore core { s'.core core with ctx := old.retag x key (old.writes m.word) }
        let s' := { s' with wgs := s'.wgs.modify u fun w => { w with mqueue := { m with left := m.left - 1, sent := n } :: ms } }
        some (s'.selfCheck core u old x))
    | _, _ => none

end Sys2Proof.Machine
end

