-- ==== Sys2Proof/Machine/Copies.lean ====
section
/-! DEFINITION. Copies, collectives and the engine queues (09 R223–R233, 20 R404, 21 R420, 24 R445). -/

namespace Sys2Proof.Machine
open Sys2Proof

/-! ### Descriptors (R224, R225) -/

/-- A field of the descriptor word. -/
def Copy.f (c : Copy) (lo n : Nat) : Nat := bitsOf c.desc.toNat lo n
/-- CREDIT. -/
def Copy.credit (c : Copy) : Bool := c.mods.getLsbD 2
/-- OP of a COLL. -/
def Copy.op (c : Copy) : Nat := c.f 32 4
/-- The communicator a COLL names, in its pitch (R420). -/
def State.commOf (s : State) (w : Wg) (c : Copy) : Option Comm := s.comms.get? (w.pitch * 4096 + c.f 36 12)
/-- Whether a descriptor is bad (R224, R227). -/
def State.copyBad (s : State) (w : Wg) (c : Copy) : Bool :=
  let own := match c.kind with
    | .cpy => c.f 40 8 != 0
    | .cpyt => c.f 44 4 != 0
    | .coll => c.f 54 6 != 0 || decide (6 ≤ c.op) || (s.commOf w c).isNone || (c.op == 4 && c.f 0 32 % 8 != 0)
    | _ => false
  own || c.f 60 4 != 0 || (!c.credit && c.f 48 12 != 0)
/-- Bytes of a COLL's source, and of its destination (R233). -/
def State.collBytes (s : State) (w : Wg) (c : Copy) : Nat × Nat :=
  let n := c.f 0 32
  if c.op < 5 then (4 * n, 4 * n)
  else if c.op = 5 then (n, n * ((s.commOf w c).map (·.ranks.length)).getD 1)
  else (n, n)
/-- Destination bytes that a descriptor names (R225, R227). -/
def State.copyBytes (s : State) (w : Wg) (c : Copy) : Nat :=
  match c.kind with
  | .cpy => c.f 0 40
  | .cpyg | .cpys => c.f 0 24 * c.f 24 24
  | .cpyt => c.f 0 16 * c.f 16 16 * c.f 32 12
  | .coll => (s.collBytes w c).2
  | .fence _ => 0
/-- Rows of a copy, given the indices its engine reads: source, destination, bytes (R225). -/
def Copy.rows (c : Copy) (idx : List Nat) : List (W64 × W64 × Nat) :=
  let o (n : Nat) : W64 := BitVec.ofNat 64 n
  match c.kind with
  | .cpy => [(c.src, c.dst, c.f 0 40)]
  | .cpyg => let rb := c.f 0 24
    (List.range (c.f 24 24)).map fun i => (c.src + o (idx.getD i 0 * rb), c.dst + o (i * rb), rb)
  | .cpys => let rb := c.f 0 24
    (List.range (c.f 24 24)).map fun i => (c.src + o (i * rb), c.dst + o (idx.getD i 0 * rb), rb)
  | .cpyt =>
    let x := c.f 0 16
    let y := c.f 16 16
    let rs := c.desc2.toNat % 2 ^ 32
    let ps := c.desc2.toNat / 2 ^ 32
    ((List.range (c.f 32 12)).map fun k => (List.range y).map fun j =>
      if c.mods.getLsbD 5 then (c.src + o ((k * y + j) * x), c.dst + o (k * ps + j * rs), x)
      else (c.src + o (k * ps + j * rs), c.dst + o ((k * y + j) * x), x)).flatten
  | _ => []
/-- Ranges known at issue: address, bytes, and whether they are written (R208, R225). -/
def State.copyRanges (s : State) (w : Wg) (c : Copy) : List (W64 × Nat × Bool) :=
  let n := s.copyBytes w c
  if s.copyBad w c || n == 0 then [] else
  match c.kind with
  | .cpyg => [(c.dst, n, true), (c.desc2, 4 * c.f 24 24, false)]
  | .cpys => [(c.src, n, false), (c.desc2, 4 * c.f 24 24, false)]
  | .cpyt => (c.rows []).map (fun (a, _, m) => (a, m, false)) ++ (c.rows []).map fun (_, b, m) => (b, m, true)
  | .coll => [(c.src, (s.collBytes w c).1, false), (c.dst, n, true)]
  | _ => [(c.src, n, false), (c.dst, n, true)]
/-- Whether every byte a copy may touch is local (R336). -/
def State.copyLocal (s : State) (w : Wg) (c : Copy) : Bool :=
  (match c.kind with
    | .coll => false
    | _ => true) && isLocal c.src && isLocal c.dst && (s.copyRanges w c).all fun x => isLocal x.1
/-- The ranges that a local copy is going to write, an indexed one's by its indices as they stand (R344). -/
def State.copyDests (s : State) (w : Wg) (c : Copy) : List (Nat × W64 × Nat) :=
  if !s.copyLocal w c then [] else
  match c.kind with
  | .cpys => (c.rows ((List.range (c.f 24 24)).map fun i => s.readVa w c.gi 0 2 (c.desc2 + BitVec.ofNat 64 (4 * i)) 4)).map fun x => (0, x.2.1, x.2.2)
  | _ => ((s.copyRanges w c).filter fun x => x.2.2).map fun x => (0, x.1, x.2.1)
/-- Elements of ranges. -/
def rangeEls (rs : List (W64 × Nat × Bool)) : List (Nat × W64 × Nat) := rs.map fun x => (0, x.1, x.2.1)

/-! ### Issue (R223–R232) -/

/-- The precise cause of a copy's addresses: the lowest code, then the lowest address (R180, R208). -/
def State.copyCause (s : State) (w : Wg) (part : Mask) (rs : List (W64 × Nat × Bool)) : Option (Cause × Mask × W64 × W64) :=
  let reads := s.memCause w 0 false (some part) (rangeEls (rs.filter fun x => !x.2.2))
  let writes := s.memCause w 1 false (some part) (rangeEls (rs.filter fun x => x.2.2))
  match reads, writes with
  | some x, some y =>
    if y.1.code.toNat < x.1.code.toNat ∨ (y.1 = x.1 ∧ y.2.2.1.toNat < x.2.2.1.toNat) then some y else some x
  | some x, none => some x
  | none, y => y
/-- EXTRA of BAR_INDEX for a copy that credits, if it names no object (R224, R236). -/
def State.copyBar (s : State) (w : Wg) (c : Copy) : Option W64 :=
  if !c.credit then none
  else if w.desc.barriers ≤ c.f 48 6 then some (BitVec.ofNat 64 (c.f 48 6))
  else if c.f 59 1 = 1 ∧ (s.memberOf w (c.f 54 5)).isNone then some (BitVec.ofNat 64 (c.f 48 6 + 256 * c.f 54 5))
  else none

/-- Number under which a follow-on's token is pending, from its copy's. -/
def foOwner (n : Nat) : Nat := n + 2 ^ 48
/-- What becomes of the follow-on of a copy at issue (R228, R248). -/
inductive FoRes where
  /-- Captured; none if no lane takes part in it. -/
  | ok (f : Option FollowOn)
  | res (r : Res)
  deriving DecidableEq, Repr
/-- The word at an offset of a plane, or how its fetch ends: a fault to be served, the host's answer, or a cause of
the offset (R67, R172, R175). -/
def Ctx.fetchWord (c : Ctx) (s : State) (plane o : Nat) : Except Res W64 :=
  let va := c.w.codeVa plane o
  let wait (s : State) : Res := .wait (s.setGroup c.k { c.g with wait := .fetch })
  match s.codeWord c.w plane o with
  | .error (.page cause) => .error (wait (s.logFault ⟨c.w.pasid, va, 3, cause, .group c.core c.slot⟩))
  | .error .ats => .error (wait (s.askAts c.w.pasid 3 va (.group c.core c.slot)))
  | .error (.dead cause x) => .error (.trap cause c.g.exec va (BitVec.ofNat 64 (3 + 256 * x)))
  | .ok x => .ok x
/-- Capture the follow-on of a copy in its plane. -/
def Ctx.followOn (c : Ctx) (s : State) (i : Instr) : FoRes :=
  let o := c.g.ofs.toNat + 1
  let bad : FoRes := .res (.cause .illMod c.lanes 0 (wordBits i))
  if c.w.desc.len ≤ o then bad else
  match c.fetchWord s c.plane o with
  | .error r => .res r
  | .ok x =>
    match decodeWord x none with
    | .error cause =>
      if (x.extractLsb' 52 12).toNat ∈ [0x300, 0x301, 0x302, 0x307] then .res (.cause cause c.lanes 0 x) else bad
    | .ok f =>
      let isFo := match f with
        | .bld _ | .mma _ | .mmap _ | .mmt _ => true
        | _ => false
      if !isFo then bad
      else match encodingCause f c.w with
        | some cause => .res (.cause cause c.lanes 0 (wordBits f))
        | none =>
          if (wordSpans f).any c.g.isPending then .res .hold
          else match f.guard? with
            | some g => .ok (if c.part g = 0 then none else some ⟨f, matrixVals c.regs f, matrixToken f⟩)
            | none => .ok none

/-- Copies in flight in a core (R229). -/
def State.copiesIn (s : State) (core : Nat) : Nat :=
  (s.copies.filter fun x => (match x.2.kind with
    | .fence _ => false
    | _ => true) && x.2.core == core).length
/-- Put a command in its queue, its token pending on it. -/
def State.launchCopy (s : State) (k : Nat) (c : Copy) : State :=
  { s with copies := s.copies.set s.nextId { c with owner := s.nextId }, nextId := s.nextId + 1,
           groups := s.groups.modify k fun g => g.setPending [⟨.s, c.token, 1⟩] s.nextId }
/-- Whether a role's entries of a stream are unmatched. -/
def State.streamBusy (s : State) (wg stream : Nat) : Bool :=
  match s.pairOf wg with
  | some (_, p, lead) => (p.role lead).entries.any fun e => e.stream == stream
  | none => false
/-- Issue a copy or a collective (R223–R230). -/
def Ctx.copy (c : Ctx) (s : State) (i : Instr) (w : RRR) (kind : CopyKind) : Res :=
  let part := c.part w.g
  if part = 0 then .next s
  else if s.memBlocked c.g.wg c.g.gi || decide (48 ≤ s.copiesIn c.core) then .hold
  else
    let fo : FoRes := if w.m.getLsbD 3 then c.followOn s i else .ok none
    match fo with
    | .res r => r
    | .ok follow =>
      let isColl := match kind with
        | .coll => true
        | _ => false
      let queue := if isColl then 5 else w.m.toNat % 4
      let two := match kind with
        | .cpyg | .cpys | .cpyt => true
        | _ => false
      let cp : Copy :=
        { wg := c.g.wg, gi := c.g.gi, queue, kind, mods := w.m, dst := c.regs.uni w.a.num, src := c.regs.uni w.b.num,
          desc := c.regs.uni w.c.num, desc2 := if two then c.regs.uni (w.c.num + 1) else 0, token := w.d.num, ofs := c.g.ofs,
          plane := c.plane, exec := c.g.exec, pmask := c.g.pmask, follow, owner := 0, mirror := none, core := c.core, phase := .queued, waiting := false }
      let rs := s.copyRanges c.w cp
      match s.copyCause c.w part rs with
      | some (cause, lanes, addr, extra) => .cause cause lanes addr extra
      | none =>
        match s.copyBar c.w cp with
        | some x => .cause .barIndex part 0 x
        | none =>
          let stream := if isColl then 37 else 33 + queue
          let loc := s.copyLocal c.w cp
          if s.overlaps c.g.wg c.g.gi (rangeEls rs) then .hold
          else if s.entryOverlaps c.g.wg c.g.gi (rangeEls (rs.filter fun x => !x.2.2)) then .hold
          else if loc && s.streamBusy c.g.wg stream then .hold
          else
            let pend : List RegSpan := match follow with
              | some ⟨_, _, some t⟩ => [⟨.s, t, 1⟩]
              | _ => []
            let mark (g : Group) : Group :=
              let g := if w.m.getLsbD 3 then { g with capturedNext := g.capturedNext ||| (1#8 <<< c.plane) } else g
              g.setPending pend (foOwner s.nextId)
            let s := s.updGroup c.k mark
            let content := (([cp.desc] ++ (if two then [cp.desc2] else []) ++ [cp.dst, cp.src]).map fun x => leBytes 8 x.toNat).flatten
            let els := match kind with
              | .cpys => [(0, cp.dst, cp.f 0 24 * 2 ^ 32)]
              | _ => rangeEls (rs.filter fun x => x.2.2)
            c.send s loc stream (if isColl then 5 else 4) 0 (BitVec.allOnes 32) content els [⟨.s, cp.token, 1⟩]
              (fun s => (s.journalEls c.g.wg c.w (s.copyDests c.w cp)).launchCopy c.k cp) (fun s => s.launchCopy c.k cp)
              (fun owner => .copy { cp with owner })
/-- CPY (R225). -/
def execCpy (w : RRR) (s : State) : Host.Outcome State Fault Refusal := issue (.cpy w) s fun s c => c.copy s (.cpy w) w .cpy
/-- CPYG (R225). -/
def execCpyg (w : RRR) (s : State) : Host.Outcome State Fault Refusal := issue (.cpyg w) s fun s c => c.copy s (.cpyg w) w .cpyg
/-- CPYS (R225). -/
def execCpys (w : RRR) (s : State) : Host.Outcome State Fault Refusal := issue (.cpys w) s fun s c => c.copy s (.cpys w) w .cpys
/-- CPYT (R225). -/
def execCpyt (w : RRR) (s : State) : Host.Outcome State Fault Refusal := issue (.cpyt w) s fun s c => c.copy s (.cpyt w) w .cpyt
/-- COLL (R233). -/
def execColl (w : RRR) (s : State) : Host.Outcome State Fault Refusal := issue (.coll w) s fun s c => c.copy s (.coll w) w .coll

/-- Whether a command of the copy queues acts in a workgroup: its own, or mirrored into it (R336). -/
def Copy.inWg (c : Copy) (wg : Nat) : Bool := c.wg == wg || (match c.mirror with
  | some (u, _, _) => u == wg
  | none => false)
/-- The commands a QFENCE joins (R232); a join itself is none. -/
def State.joinsOf (s : State) (wg : Nat) (w : Wg) (mask : Nat) : List Nat :=
  ((s.copies.filter fun x => x.2.inWg wg && (match x.2.kind with
    | .fence _ => false
    | _ => true) && mask.testBit x.2.queue).map (·.1)) ++
  (if mask.testBit 4 then (w.mqueue.filter fun m => match m.word with
    | .qfence _ => false
    | _ => true).map (·.id) else [])
/-- QFENCE (R232): a redundant group's waits until its earlier engine commands have been matched. -/
def execQfence (w : RRR) (s : State) : Host.Outcome State Fault Refusal :=
  issue (.qfence w) s fun s c =>
    let mask := w.m.toNat / 8
    if c.part w.g = 0 ∨ mask = 0 then .next s
    else if s.copyEntries c.g.wg then .hold
    else
      let joins := s.joinsOf c.g.wg c.w mask
      let q := w.m.toNat % 8
      if q = 4 then
        if 16 ≤ c.w.mqueue.length then .hold else
        let m : MCmd :=
          { id := s.nextId, gi := c.g.gi, word := .qfence w, vals := [], block := [], token := none, owner := s.nextId, ofs := c.g.ofs,
            plane := c.plane, exec := c.g.exec, pmask := c.g.pmask, joins, running := false, waiting := false, left := 0, sent := 0, dead := none }
        .next { s with nextId := s.nextId + 1, wgs := s.wgs.set c.g.wg { c.w with mqueue := c.w.mqueue ++ [m] } }
      else
        let f : Copy :=
          { wg := c.g.wg, gi := c.g.gi, queue := q, kind := .fence joins, mods := w.m, dst := 0, src := 0, desc := 0, desc2 := 0,
            token := 0, ofs := c.g.ofs, plane := c.plane, exec := c.g.exec, pmask := c.g.pmask, follow := none, owner := s.nextId, mirror := none, core := c.core,
            phase := .queued, waiting := false }
        .next { s with copies := s.copies.set s.nextId f, nextId := s.nextId + 1 }

/-! ### Starting (R231, R232) -/

/-- Pitch of a command's workgroup. -/
def State.copyPitch (s : State) (c : Copy) : Nat := ((s.wgs.get? c.wg).map (·.pitch)).getD 0
/-- Whether two commands stand in one queue (R231). -/
def State.sameQueue (s : State) (a b : Copy) : Bool :=
  if a.queue = 5 ∨ b.queue = 5 then a.queue == b.queue && s.copyPitch a == s.copyPitch b
  else a.queue == b.queue && (a.inWg b.wg || b.inWg a.wg)
/-- Local ranks of a communicator, ascending (R420). -/
def Comm.locals (x : Comm) : List Nat := (List.range x.ranks.length).filter fun r => match x.ranks[r]? with
  | some (peer, _) => !peer
  | none => false
/-- The commands ahead of one in its queue, oldest first. -/
def State.ahead (s : State) (id : Nat) (c : Copy) : List Copy :=
  ((s.copies.filter fun x => decide (x.1 < id) && s.sameQueue x.2 c).map (·.2))
/-- Whether a command may start: it is at the front, or stands behind COLLs that are other ranks of its own
collective, whose ranks start together (R231, R233). -/
def State.mayStart (s : State) (id : Nat) (c : Copy) (w : Wg) : Bool :=
  let xs := s.ahead id c
  match c.kind with
  | .coll =>
    let l := match s.commOf w c with
      | some x => x.locals.length
      | none => 1
    decide (xs.length < max 1 l) && xs.all fun x => (match x.kind with
      | .coll => x.f 36 12 == c.f 36 12
      | _ => false) && !s.copyBad w x
  | _ => xs.isEmpty
/-- Whether a pitch holds the current entry of the base die's engine schedule, 125 µs of 8 ms (R78). -/
def State.holdsEntry (s : State) (pitch : Nat) : Bool :=
  ((s.pitches.get? pitch).map fun p => p.engSlots.getLsbD (s.time / 125000 % 64)).getD false
/-- The commands that wait for an engine, by number and pitch: their queues are at them (R78, R231). -/
def State.engWaiting (s : State) : List (Nat × Nat) :=
  s.copies.filterMap fun (id, c) =>
    match s.wgs.get? c.wg, c.kind with
    | _, .fence _ => none
    | some w, _ => if c.phase = .queued ∧ s.mayStart id c w then some (id, w.pitch) else none
    | none, _ => none
/-- Whether the engines serve a waiting command now: the holders of the entry first, commands of several pitches in age order
(R78). -/
def State.engServes (s : State) (id pitch : Nat) : Bool :=
  let held := s.engWaiting.filter fun x => s.holdsEntry x.2
  let pool := if held = [] then s.engWaiting else held
  (held = [] || s.holdsEntry pitch)
    && ((held != [] && held.all fun x => x.2 == pitch) || pool.all fun x => decide (id ≤ x.1))
/-- COPY_START (R78, R231): the front of a queue starts; a QFENCE whose commands have completed leaves. -/
def execCopyStart (id : Nat) (s : State) : Host.Outcome State Fault Refusal :=
  match s.copies.get? id with
  | none => .fault .notEnabled
  | some c =>
    match s.wgs.get? c.wg with
    | none => .fault .notEnabled
    | some w =>
      if c.phase ≠ .queued ∨ !s.mayStart id c w then .fault .notEnabled
      else match c.kind with
        | .fence joins =>
          if joins.any (s.unfinished w) then .fault .notEnabled else .next { s with copies := s.copies.del id }
        | _ => if s.engServes id w.pitch then .next { s with copies := s.copies.set id { c with phase := .running } } else .fault .notEnabled

/-! ### Moving bytes (R225, R230, R404, R445) -/

/-- The value a byte of an overlapping copy takes: its source as it stood, or as the copy wrote it (R225). -/
def chaseByte (s : State) (core : Nat) (srcs dsts : List Place) : Nat → Nat → Byte
  | 0, k => s.readPlace core 2 (srcs.getD k (.scr 0 0 0))
  | fuel + 1, k =>
    let p := srcs.getD k (.scr 0 0 0)
    match if Config.freeBool s.stepNo k then none else dsts.findIdx? fun q => q.num == p.num with
    | some j => chaseByte s core srcs dsts fuel j
    | none => s.readPlace core 2 p
/-- The bytes a copy moves. -/
def State.copyVals (s : State) (core : Nat) (srcs dsts : List Place) : List Byte :=
  let nums := dsts.map Place.num
  if srcs.any fun p => nums.contains p.num then (List.range srcs.length).map fun k => chaseByte s core srcs dsts srcs.length k
  else srcs.map fun p => s.readPlace core 2 p
/-- Land bytes at places: the lines leave the core's L1, whole sectors lose their poison, sectors that take a poisoned
byte gain it (R404, R445). -/
def State.land (s : State) (core : Nat) (ws : List (Place × Byte × Bool)) (twice : Bool) : State :=
  let s := (s.engLand core (ws.map fun w => (w.1, w.2.1)) twice).clearPoison (ws.map fun w => w.1.num)
  ws.foldl (fun s w => if w.2.2 then s.addPoison (w.1.num / 64) else s) s
/-- Count each poisoned sector read (R445). -/
def State.countReads (s : State) (ps : List Place) : State :=
  if s.poison = [] then s else
  (dedup (ps.filterMap fun p => match p with
    | .mem k _ a => some (k, a / 64)
    | _ => none)).foldl (fun s x => s.countUe x.1 (x.2 * 64)) s
/-- Move bytes from addresses to addresses whose places are known, in every role (R336). An audit replay writes its
scratchpad only (R452). -/
def State.moveBytes (s : State) (c : Copy) (w : Wg) (moves : List (W64 × Place × W64 × Place)) : State :=
  let srcs := moves.map (·.2.1)
  let bad (p : Place) : Bool := s.poisoned p.num
  let vals := s.copyVals w.core srcs (moves.map (·.2.2.2))
  let ws : List (W64 × Place × Byte × Bool) := (moves.zip vals).map fun (m, b) => (m.2.2.1, m.2.2.2, b, bad m.2.1)
  let first := (moves.find? fun m => bad m.2.1).map (·.1)
  let twice := match c.kind with
    | .cpys | .cpyt => true
    | _ => false
  let ws := if w.role = 3 then ws.filter fun x => isLocal x.1 else ws
  let s := s.land w.core (ws.map fun x => (x.2.1, x.2.2.1, x.2.2.2)) twice
  let s := (s.countReads srcs).consume c.wg c.gi c.owner first
  match c.mirror with
  | none => s
  | some (u, n, _) =>
    match s.wgs.get? u with
    | none => s
    | some w' =>
      let ws' := ws.filterMap fun x => if isLocal x.1 then
          match s.localByte w' x.1 with
          | .ok p => some (p, x.2.2.1, x.2.2.2)
          | .error _ => none
        else none
      (s.land w'.core ws' twice).consume u c.gi n first

/-! ### Completion (R226–R228) -/

/-- Credit a role's object: the state, and whether the credit was too large (R227, R235). -/
def State.creditRole (s : State) (c : Copy) (wg : Nat) (bytes : Nat) : State × Bool :=
  match s.wgs.get? wg with
  | none => (s, false)
  | some w =>
    let u := if c.f 59 1 = 1 then (s.memberOf w (c.f 54 5)).getD wg else wg
    match s.wgs.get? u with
    | none => (s, false)
    | some x =>
      if x.phase = .recorded then (s, false)
      else match s.barEvent x (c.f 48 6) 0 bytes with
        | .ok s done => (if done then s.wakeWaiters u (c.f 48 6) else s, false)
        | _ => (s, true)
/-- The cores whose objects a copy credits, in every role, for the lines it invalidates there (R404). -/
def State.creditCores (s : State) (c : Copy) (w : Wg) : List Nat :=
  let one (x : Wg) : Option Nat :=
    if c.f 59 1 = 1 then ((s.memberOf x (c.f 54 5)).bind fun u => s.wgs.get? u).map (·.core) else some x.core
  let roles := w :: (c.mirror.bind fun m => s.wgs.get? m.1).toList
  if c.credit then roles.filterMap one else []
/-- FOLLOW_ON_ENQUEUE (R228, R242, R248): a captured command enters its workgroup's matrix queue, or is dropped. -/
def State.enqueueFollow (s : State) (c : Copy) (wg owner : Nat) (f : FollowOn) (ok : Bool) : State :=
  match s.wgs.get? wg with
  | none => s
  | some w =>
    let drop : State :=
      let s := { s with wgs := s.wgs.modify wg fun w => { w with foDrop := true } }
      match f.token with
      | some t => s.writeDests wg c.gi c.ofs (foOwner owner) [(.s, t, 0, 0)]
      | none => s
    if !ok then drop else
    match s.mmtBlock w f.word f.vals with
    | .error _ => drop
    | .ok block =>
      match s.matrixCheck wg w f.word f.vals block with
      | some _ => drop
      | none =>
        let m : MCmd :=
          { id := s.nextId, gi := c.gi, word := f.word, vals := f.vals, block, token := f.token, owner := foOwner owner, ofs := c.ofs + 1,
            plane := c.plane, exec := c.exec, pmask := c.pmask, joins := [], running := false, waiting := false, left := 0, sent := 0, dead := none }
        let s := { s with nextId := s.nextId + 1, wgs := s.wgs.modify wg fun w => { w with mqueue := w.mqueue ++ [m] } }
        match (s.core w.core).owner with
        | none =>
          if w.phase = .saved then { s with wgs := s.wgs.modify wg fun w => { w with claim := some (w.claim.getD s.stepNo) } }
          else s.claimEngine wg { w with mqueue := w.mqueue ++ [m] }
        | some u =>
          if u = wg ∨ w.claim.isSome then s
          else { s with wgs := s.wgs.modify wg fun w => { w with claim := some s.stepNo } }
/-- Write a copy's token for one role and deal with its follow-on and a credit that was too large (R226–R228). -/
def State.copyRole (s : State) (c : Copy) (wg owner : Nat) (follow : Option FollowOn) (token : W64) (ovf : Bool) : State :=
  let s := s.writeDests wg c.gi c.ofs owner [(.s, c.token, 0, token)]
  let s := match s.wgs.get? wg with
    | some w => if w.phase = .saved then s else s.wake w.core wakeToken
    | none => s
  let s := match follow with
    | some f => s.enqueueFollow c wg owner f ((token.extractLsb' 40 8) == 0)
    | none => s
  if ovf then s.defer (deferred wg c.gi c.ofs c.plane c.exec c.exec c.pmask 0x62 0 0) else s
/-- COPY_COMPLETE's end (R226, R227): the credit, then the token, in every role. -/
def State.copyEnd (s : State) (id : Nat) (c : Copy) (w : Wg) (bytes : Nat) (cause inner : BitVec 8) : State :=
  let n := s.copyBytes w c
  let s := { s with copies := s.copies.del id }
  let one (s : State) (wg : Nat) : State × Bool := if c.credit then s.creditRole c wg n else (s, false)
  let (s, o1) := one s c.wg
  let (s, o2) := match c.mirror with
    | some (u, _, _) => one s u
    | none => (s, false)
  let cause' : BitVec 8 := if cause = 0 ∧ (o1 || o2) then 0x62 else cause
  let token := BitVec.ofNat 64 (bytes % 2 ^ 40 + cause'.toNat * 2 ^ 40 + inner.toNat * 2 ^ 48)
  let s := s.copyRole c c.wg c.owner c.follow token o1
  match c.mirror with
  | some (u, owner, follow) => s.copyRole c u owner follow token o2
  | none => s

/-- How an attempt to move a copy's bytes ends. -/
inductive CopyStop where
  | page (va : W64) (kind : Nat) (f : TransFail)
  /-- An indexed row meets a line of the issuing group's operand log. -/
  | log
  /-- Stopped for good: the inner cause (R227). -/
  | dead (inner : BitVec 8)
  deriving DecidableEq, Repr
/-- Sort a translation failure. -/
def copyFail (kind : Nat) (va : W64) : TransFail → CopyStop
  | .dead c _ => .dead c
  | f => .page va kind f
/-- Bytes of a range. -/
def vaRange (a : W64) (n : Nat) : List W64 := (List.range n).map fun k => a + BitVec.ofNat 64 k
/-- Bytes of a copy in order: source and destination addresses. -/
def rowBytes (rows : List (W64 × W64 × Nat)) : List (W64 × W64) :=
  (rows.map fun (a, b, n) => (vaRange a n).zip (vaRange b n)).flatten
/-- The row indices of a CPYG or CPYS (R224). -/
def State.copyIdx (s : State) (w : Wg) (c : Copy) : Except CopyStop (List Nat) :=
  match c.kind with
  | .cpyg | .cpys =>
    match s.engPlaces w 0 (vaRange c.desc2 (4 * c.f 24 24)) with
    | .error (va, e) => .error (copyFail 0 va e)
    | .ok ps => .ok ((List.range (c.f 24 24)).map fun i => leNat (((ps.drop (4 * i)).take 4).map fun p => s.readPlace w.core 2 p))
  | _ => .ok []
/-- The check of the indexed rows (R225, R230): limits, then the group's operand log, and its earlier accesses in flight to a
source row. -/
def State.copyRowStop (s : State) (w : Wg) (c : Copy) (rows : List (W64 × W64 × Nat)) : Option CopyStop :=
  let side : List (W64 × Nat) := match c.kind with
    | .cpyg => rows.map fun r => (r.1, r.2.2)
    | .cpys => rows.map fun r => (r.2.1, r.2.2)
    | _ => []
  match side.findSome? fun (a, n) => s.addrCheck w a n with
  | some cause => some (.dead cause.code)
  | none =>
    let early (x : Nat × Access) (a b : W64) (n m : Nat) : Bool := c.kind == .cpyg && decide (x.1 < c.owner) && meets a n b m
    if (s.accsOf c.wg c.gi).any fun x => x.2.els.any fun (_, b, m) => side.any fun (a, n) =>
        decide (0 < n) && ((x.2.inLog && sameLine a n b m) || early x a b n m) then
      some .log
    else none
/-- The rows and places of a copy, or what stops it. -/
def State.copyMoves (s : State) (w : Wg) (c : Copy) : Except CopyStop (List (W64 × Place × W64 × Place)) :=
  match s.copyIdx w c with
  | .error e => .error e
  | .ok idx =>
    let rows := c.rows idx
    match s.copyRowStop w c rows with
    | some e => .error e
    | none =>
      let bs := rowBytes rows
      match s.engPlaces w 0 (bs.map (·.1)) with
      | .error (va, e) => .error (copyFail 0 va e)
      | .ok srcs =>
        match s.engPlaces w 1 (bs.map (·.2)) with
        | .error (va, e) => .error (copyFail 1 va e)
        | .ok dsts => .ok ((bs.zip (srcs.zip dsts)).map fun (b, p) => (b.1, p.1, b.2, p.2))
/-- The bytes a stopped copy has written: a subset of those that translate (R227). -/
def State.copySubset (s : State) (w : Wg) (c : Copy) : List (W64 × Place × W64 × Place) :=
  match s.copyIdx w c with
  | .error _ => []
  | .ok idx =>
    ((rowBytes (c.rows idx)).zipIdx).filterMap fun (b, k) =>
      match s.engPlace w 0 b.1, s.engPlace w 1 b.2 with
      | .ok p, .ok q => if Config.freeBool s.stepNo k then some (b.1, p, b.2, q) else none
      | _, _ => none
/-- Lines of the destination leave the L1s of the cores that are credited (R404). -/
def State.flushCredit (s : State) (c : Copy) (w : Wg) (ps : List Place) : State :=
  (s.creditCores c w).foldl (fun s core => ps.foldl (fun s p => match p with
    | .mem _ _ a => s.flushLine core a
    | _ => s) s) s
/-- A copy stops for good (R227). -/
def State.copyDead (s : State) (id : Nat) (c : Copy) (w : Wg) (inner : BitVec 8) : State :=
  let moves := s.copySubset w c
  ((s.flushCredit c w (moves.map (·.2.2.2))).moveBytes c w moves).copyEnd id c w moves.length 0x64 inner
/-- A copy that waits for a page or an answer of the host asks for it (R227). -/
def State.copyWait (s : State) (id : Nat) (w : Wg) (va : W64) (kind : Nat) (f : TransFail) : State :=
  let s := match f with
    | .page cause => s.logFault ⟨w.pasid, va, kind, cause, .copy id⟩
    | _ => s.askAts w.pasid kind va (.copy id)
  { s with copies := s.copies.modify id fun c => { c with waiting := true } }

/-! ### Collectives (R233, R420) -/

/-- FP32 sums in a free order (R108): two elements at free positions are added until one is left. -/
def freeSum (seed : Nat) : Nat → List Nat → Nat
  | 0, xs => xs.headD 0
  | fuel + 1, xs =>
    match xs with
    | [] => 0
    | [x] => x
    | _ =>
      let i := Config.arbiter seed (2 * fuel) % xs.length
      let a := xs.getD i 0
      let ys := xs.eraseIdx i
      let j := Config.arbiter seed (2 * fuel + 1) % ys.length
      freeSum seed fuel (fAdd a (ys.getD j 0) :: ys.eraseIdx j)
/-- Reduce the elements of one position over the ranks. -/
def collReduce (op seed : Nat) (xs : List Nat) : Nat :=
  let i (x : Nat) : Int := (BitVec.ofNat 32 x).toInt
  match op with
  | 0 => xs.foldl (· + ·) 0 % 2 ^ 32
  | 1 => freeSum seed xs.length xs
  | 2 => xs.foldl (fun m x => if i m < i x then x else m) (xs.headD 0)
  | _ => xs.foldl (fun m x => if i x < i m then x else m) (xs.headD 0)
/-- The two-phase reduction of blocks of 8 (R109, R110). -/
def collFx (blocks : List (List Nat)) : List Nat :=
  let e := blocks.foldl (fun (m : Int) b => max m (f32BlockExp (b.map fNum))) (-128)
  (List.range 8).map fun k =>
    let q := blocks.foldl (fun (t : Int) b => t + cvtfx (fNum (b.getD k 0)) e) 0
    cvtxf (BitVec.ofInt 32 q).toInt e
/-- The result of a collective from each rank's source bytes (R233). -/
def collResult (op count seed : Nat) (ranks : List (List Byte)) : List Byte :=
  let el (b : List Byte) (k : Nat) : Nat := leNat ((b.drop (4 * k)).take 4)
  if op = 5 then ranks.flatten
  else if op = 4 then
    ((List.range (count / 8)).map fun j =>
      (collFx (ranks.map fun b => (List.range 8).map fun k => el b (8 * j + k))).flatMap (leBytes 4)).flatten
  else ((List.range count).map fun k => leBytes 4 (collReduce op (seed + k) (ranks.map fun b => el b k))).flatten
/-- The running COLLs that form the next collective of a command's communicator, by rank, if all have started. -/
def State.collBatch (s : State) (w : Wg) (c : Copy) : Option (List (Nat × Copy × Wg)) :=
  match s.commOf w c with
  | none => none
  | some x =>
    let mine := s.copies.filterMap fun (k, y) => match y.kind, s.wgs.get? y.wg with
      | .coll, some v => if v.pitch = w.pitch ∧ y.f 36 12 = c.f 36 12 ∧ y.phase ≠ .queued ∧ !s.copyBad v y then some (k, y, v) else none
      | _, _ => none
    let n := max 1 x.locals.length
    if n ≤ mine.length then some (mine.take n) else none
/-- Bytes of a peer rank, from its staging buffer (R420). -/
def State.peerBytes (s : State) (addr n : Nat) : List Byte := (List.range n).map fun k => s.pastL1 0 0 3 (0x400000000000 + addr + k)
/-- Each rank's source bytes, ascending; a local rank that cannot be read says why. -/
def State.collSources (s : State) (x : Comm) (batch : List (Nat × Copy × Wg)) (n : Nat) :
    Except (Nat × Wg × CopyStop) (List (List Byte × List Place)) :=
  (List.range x.ranks.length).foldl (fun (r : Except (Nat × Wg × CopyStop) (List (List Byte × List Place))) k =>
    match r with
    | .error e => .error e
    | .ok bs =>
      match x.ranks[k]? with
      | some (true, addr) => .ok (bs ++ [(s.peerBytes addr n, [])])
      | _ =>
        match batch[(x.locals.findIdx? (· == k)).getD 0]? with
        | none => .ok (bs ++ [([], [])])
        | some (id, c, w) =>
          match s.engPlaces w 0 (vaRange c.src n) with
          | .error (va, e) => .error (id, w, copyFail 0 va e)
          | .ok ps => .ok (bs ++ [(ps.map fun p => s.readPlace w.core 2 p, ps)])) (.ok [])
/-- Every rank's destination places. -/
def State.collDests (s : State) (batch : List (Nat × Copy × Wg)) (n : Nat) : Except (Nat × Wg × CopyStop) (List (List Place)) :=
  batch.foldl (fun (r : Except (Nat × Wg × CopyStop) (List (List Place))) (id, c, w) =>
    match r with
    | .error e => .error e
    | .ok ds => match s.engPlaces w 1 (vaRange c.dst n) with
      | .error (va, e) => .error (id, w, copyFail 1 va e)
      | .ok ps => .ok (ds ++ [ps])) (.ok [])
/-- Land a result in a rank's destination, in every role (R336); an audit replay writes its scratchpad only. -/
def State.collLand (s : State) (c : Copy) (w : Wg) (ps : List Place) (bs : List Byte) (poison : Bool) (first : Option W64) : State :=
  let ws : List (W64 × Place × Byte) := (vaRange c.dst bs.length).zip (ps.zip bs)
  let ws := if w.role = 3 then ws.filter fun x => isLocal x.1 else ws
  let s := ((s.flushCredit c w ps).land w.core (ws.map fun x => (x.2.1, x.2.2, poison)) false).consume c.wg c.gi c.owner first
  match c.mirror with
  | none => s
  | some (u, n, _) =>
    match s.wgs.get? u with
    | none => s
    | some w' =>
      let ws' := ws.filterMap fun x => if isLocal x.1 then
          match s.localByte w' x.1 with
          | .ok p => some (p, x.2.2, poison)
          | .error _ => none
        else none
      (s.land w'.core ws' false).consume u c.gi n first
/-- End every command of a collective alike. -/
def State.collAll (s : State) (batch : List (Nat × Copy × Wg)) (bytes : Copy → Wg → Nat) (cause inner : BitVec 8) : State :=
  batch.foldl (fun s (id, c, w) => s.copyEnd id c w (bytes c w) cause inner) s
/-- Complete a collective (R233). -/
def State.collRun (s : State) (x : Comm) (batch : List (Nat × Copy × Wg)) : Option State :=
  match batch with
  | [] => none
  | (_, c0, w0) :: _ =>
    let same := batch.all fun (_, c, _) => c.op == c0.op && c.f 0 32 == c0.f 0 32
    let (src, dst) := s.collBytes w0 c0
    if !same then some (s.collAll batch (fun _ _ => 0) 0x64 0x02)
    else
      let dead := batch.findSome? fun (_, c, _) => match c.phase with
        | .faulted inner => some inner
        | _ => none
      let peerDown := x.ranks.any fun r => r.1 && (s.linkAbort 0 (0x400000000000 + r.2)).isSome
      let stop (e : Nat × Wg × CopyStop) : Option State :=
        match e with
        | (id, w, .page va kind f) => some (s.copyWait id w va kind f)
        | (_, _, .log) => none
        | (_, _, .dead inner) => some (s.collAll batch (fun _ _ => 0) 0x64 inner)
      match dead with
      | some inner => some (s.collAll batch (fun _ _ => 0) 0x64 inner)
      | none =>
        if dst = 0 then some (s.collAll batch (fun _ _ => 0) 0 0)
        else if peerDown then some (s.collAll batch (fun _ _ => 0) 0x64 0x2C)
        else match s.collSources x batch src with
          | .error e => stop e
          | .ok srcs =>
            match s.collDests batch dst with
            | .error e => stop e
            | .ok dsts =>
              let bs := collResult c0.op (c0.f 0 32) s.stepNo (srcs.map (·.1))
              let poison := srcs.any fun y => s.anyPoison y.2
              let s1 := s.countReads ((srcs.map (·.2)).flatten)
              let s1 := (batch.zip dsts).foldl (fun s1 ((_, c, w), ps) =>
                s1.collLand c w ps bs poison (if poison then some c.src else none)) s1
              some (s1.collAll batch (fun _ _ => dst) 0 0)

/-- COPY_COMPLETE (R225–R228, R404). -/
def execCopyComplete (id : Nat) (s : State) : Host.Outcome State Fault Refusal :=
  match s.copies.get? id with
  | none => .fault .notEnabled
  | some c =>
    match s.wgs.get? c.wg with
    | none => .fault .notEnabled
    | some w =>
      if c.phase = .queued ∨ c.waiting then .fault .notEnabled
      else match c.kind with
        | .fence _ => .fault .notEnabled
        | .coll =>
          if s.copyBad w c then .next (s.copyEnd id c w 0 0x64 0x02)
          else match s.commOf w c, s.collBatch w c with
            | some x, some batch => (match if batch.any (fun y => y.2.1.waiting) then none else s.collRun x batch with
              | some s' => .next s'
              | none => .fault .notEnabled)
            | _, _ => .fault .notEnabled
        | _ =>
          if s.copyBad w c then .next (s.copyEnd id c w 0 0x64 0x02)
          else match c.phase with
            | .faulted inner => .next (s.copyDead id c w inner)
            | _ =>
              if s.copyBytes w c = 0 then .next (s.copyEnd id c w 0 0 0)
              else match s.copyMoves w c with
                | .ok moves =>
                  let s := s.touchPages w 0 (moves.map (·.1))
                  let s := s.touchPages w 1 (moves.map (·.2.2.1))
                  let s := s.flushCredit c w (moves.map (·.2.2.2))
                  .next ((s.moveBytes c w moves).copyEnd id c w moves.length 0 0)
                | .error (.page va kind f) => .next (s.copyWait id w va kind f)
                | .error .log => .fault .notEnabled
                | .error (.dead inner) => .next (s.copyDead id c w inner)

end Sys2Proof.Machine
end

