-- ==== Sys2Proof/Machine/QueueCode.lean ====
section
/-! DEFINITION. Queue programs: the hardware queue scheduler, windows, packets, the bytecode's words and the firmware
services (12, 17 R352–R355, 27 R471–R473). -/

namespace Sys2Proof.Machine
open Sys2Proof

/-! ### Records and the scheduler (R352–R355) -/

/-- The words of a queue record (R352). -/
def QRec.toWords (r : QRec) : List W64 :=
  [BitVec.ofNat 64 (r.ring.toNat + r.log2n * 2 ^ 48),
   BitVec.ofNat 64 (r.pasid + r.key * 2 ^ 20 + r.pitch * 2 ^ 26 + r.prog * 2 ^ 30 + r.prio * 2 ^ 36 + r.pin.toNat * 2 ^ 43
     + r.pinSlot * 2 ^ 44 + r.slice * 2 ^ 50 + r.active.toNat * 2 ^ 58),
   r.tail ++ r.head,
   BitVec.ofNat 64 (r.outcome + r.cause.toNat * 2 ^ 8 + r.lastWord * 2 ^ 16 + r.fcode.toNat * 2 ^ 28),
   BitVec.ofNat 64 r.failCnt, r.winTab.zeroExtend 64, 0, 0] ++ (List.range 8).map fun i => r.user.getD i 0
/-- Virtual address of a slot of a queue's ring: RING is the low 48 bits of a canonical address (log entry 98). -/
def QRec.slotVa (r : QRec) (n : Nat) : W64 := r.ring.signExtend 64 + BitVec.ofNat 64 (64 * (n % 2 ^ r.log2n))
/-- Virtual address of the base of a window, 2 to 15. -/
def QRec.baseVa (r : QRec) (w : Nat) : W64 := r.winTab.signExtend 64 + BitVec.ofNat 64 (8 * w)
/-- A queue's record. -/
def State.qrec (s : State) (q : Nat) : QRec := s.queues.getD q .reset
/-- Change a queue's record. -/
def State.setQrec (s : State) (q : Nat) (r : QRec) : State := { s with queues := s.queues.set q r }
/-- Whether a queue is ready: ACTIVE, with packets (R355), its PASID open (R417) and its pitch running work. HEAD may stand one past
a TAIL that was lowered while the packet at HEAD ran: no packet is left then (R353). -/
def State.queueReady (s : State) (q : Nat) : Bool :=
  let r := s.qrec q
  r.active && r.head != r.tail && r.head != r.tail + 1 && !s.isClosing r.pasid && (match s.pitches.get? r.pitch with
    | some p => (p.tdi == .opened || p.tdi == .run) && !p.removing
    | none => false) && s.power == .run && s.port.wait != .standby
/-- A queue's priority, clamped (R80). -/
def State.queuePrio (s : State) (q : Nat) : Nat :=
  let r := s.qrec q
  match s.pitches.get? r.pitch with
  | some p => max p.prioLo (min p.prioHi r.prio)
  | none => r.prio
/-- Nanoseconds a mapped queue has held its slot in the current window. -/
def State.heldFor (s : State) (q : QSlot) : Nat := s.time - max q.mappedAt s.windowAt
/-- A pitch's served time (R355). -/
def State.servedOf (s : State) (pitch : Nat) : Nat :=
  s.served.getD pitch 0 + ((s.slots.filter fun x => decide (x.2.queue / 1024 = pitch)).map fun x => s.heldFor x.2).foldl (· + ·) 0
/-- Whether a queue is mapped. -/
def State.isMapped (s : State) (q : Nat) : Bool := s.slots.any fun x => x.2.queue == q
/-- Whether a slot could take a queue (R355). -/
def QRec.fitsSlot (r : QRec) (k : Nat) : Bool := if r.pin then r.pinSlot == k else k != 63
/-- Unmapped ready queues that a slot could take. -/
def State.qCandidates (s : State) (k : Nat) : List Nat :=
  (s.queues.filter fun x => s.queueReady x.1 && !s.isMapped x.1 && x.2.fitsSlot k).map (·.1)
/-- Whether queue `a` is mapped before queue `b` (R355). -/
def State.qBefore (s : State) (a b : Nat) : Bool :=
  let (pa, pb) := (s.queuePrio a, s.queuePrio b)
  let (sa, sb) := (s.servedOf (a / 1024), s.servedOf (b / 1024))
  let (ta, tb) := ((s.qrec a).stamp, (s.qrec b).stamp)
  decide (pb < pa) || (pa == pb && (decide (sa < sb) || (sa == sb && (decide (ta < tb) || (ta == tb && decide (a < b))))))
/-- The first of some queues to be mapped. -/
def State.qFirst (s : State) (qs : List Nat) : Option Nat :=
  qs.foldl (fun (m : Option Nat) q => match m with
    | none => some q
    | some b => if s.qBefore q b then some q else some b) none
/-- A slot with a queue just mapped to it. -/
def QSlot.fresh (q time : Nat) : QSlot :=
  { queue := q, mappedAt := time, marked := false, running := false, prog := ⟨[], []⟩, pc := 0, last := 0, regs := [],
    loops := [], count := 0, emits := 0, waiting := false, dead := none, asked := false, verdict := none, sent := false }
/-- Unmap a slot's queue; its ready stamp is now (R355). -/
def State.unmapSlot (s : State) (k : Nat) : State :=
  match s.slots.get? k with
  | none => s
  | some q =>
    let p := q.queue / 1024
    { s with slots := s.slots.del k, served := s.served.set p (s.served.getD p 0 + s.heldFor q),
             queues := s.queues.modify q.queue fun r => { r with stamp := s.time } }
/-- Fill a free slot. -/
def State.fillSlot (s : State) (k : Nat) : State :=
  if (s.slots.get? k).isSome then s else
  match s.qFirst (s.qCandidates k) with
  | some q => { s with slots := s.slots.set k (.fresh q s.time) }
  | none => s
/-- Whether a slot is to give way at a packet boundary (R355). -/
def State.givesWay (s : State) (k : Nat) (q : QSlot) : Bool :=
  let r := s.qrec q.queue
  let slice := (if r.slice = 0 then 2 else r.slice) * 50000
  !s.queueReady q.queue || (!r.pin && (q.marked || (s.qCandidates k).any fun c =>
    decide (s.queuePrio q.queue < s.queuePrio c)
      || (s.queuePrio c == s.queuePrio q.queue && decide (slice ≤ s.time - q.mappedAt))))
/-- Mark a mapped queue for a ready one that no slot takes (R355). -/
def State.markFor (s : State) (q : Nat) : State :=
  let r := s.qrec q
  let could := s.slots.filter fun x => r.fitsSlot x.1
  if s.isMapped q ∨ could.any (fun x => s.givesWay x.1 x.2) then s
  else
    let low := could.filter fun x => !(s.qrec x.2.queue).pin && decide (s.queuePrio x.2.queue < s.queuePrio q)
    let best := low.foldl (fun (m : Option (Nat × QSlot)) x => match m with
      | none => some x
      | some y =>
        let (px, py) := (s.queuePrio x.2.queue, s.queuePrio y.2.queue)
        if px < py ∨ (px = py ∧ x.2.mappedAt < y.2.mappedAt) then some x else some y) none
    match best with
    | some (k, x) => { s with slots := s.slots.set k { x with marked := true } }
    | none => s
/-- Whether a mapped slot that runs no packet holds a queue that is not ready any more: it stands at a packet boundary (R355). -/
def State.qStale (s : State) (q : QSlot) : Bool := !q.running && !s.queueReady q.queue
/-- The scheduler away from the end of a packet: stale slots are unmapped, free slots filled, and a queue that found none marks
one. -/
def State.qSchedule (s : State) : State :=
  let s := ((s.slots.filter fun x => s.qStale x.2).map (·.1)).foldl (fun s k => s.unmapSlot k) s
  let s := (List.range 64).foldl (fun s k => s.fillSlot k) s
  ((s.queues.filter fun x => s.queueReady x.1 && !s.isMapped x.1).map (·.1)).foldl (fun s q => s.markFor q) s
/-- The scheduler at a slot's packet boundary (R355). -/
def State.qBoundary (s : State) (k : Nat) : State :=
  match s.slots.get? k with
  | some q => (if s.givesWay k q then s.unmapSlot k else s).qSchedule
  | none => s.qSchedule

/-- Take a doorbell write (R353). -/
def State.doorbell (s : State) (q : Nat) (value : W64) : State :=
  let r := s.qrec q
  let v : W32 := value.truncate 32
  if (s.pitches.get? (q / 1024)).isNone then s else
  let s := s.leaveIdle
  let wasReady := s.queueReady q
  let r' := if (v - r.head).toNat ≤ 2 ^ r.log2n then { r with tail := v } else { r with outcome := 3, active := false }
  let s' := s.setQrec q r'
  let s' := if !wasReady && s'.queueReady q then s'.setQrec q { r' with stamp := s.time } else s'
  s'.qSchedule
/-- DOORBELL_WRITE (R353): an aligned 8-byte write in the doorbell region. -/
def execDoorbellWrite (addr : BitVec 48) (value : W64) (s : State) : Host.Outcome State Fault Refusal :=
  if targetOf addr.toNat = .doorbell ∧ addr.toNat % 8 = 0 then
    .next (s.doorbell ((addr.toNat - 0x2000000000) / 8) value)
  else .fault .notEnabled
/-- SERVED_TIME_WINDOW (R355): every pitch's served time is reset. -/
def execServedTimeWindow (s : State) : Host.Outcome State Fault Refusal :=
  .next { s with served := [], windowAt := s.time }

/-! ### Packets (R301, R302, R354) -/

/-- PACKET_START (R302): a mapped slot starts the packet at HEAD, which it acquires at sys scope, under the program its record
names now (R311). -/
def execPacketStart (hw : Nat) (s : State) : Host.Outcome State Fault Refusal :=
  match s.slots.get? hw with
  | some q =>
    match s.qprogs.get? (s.qrec q.queue).prog with
    | some p =>
      if q.running ∨ !s.queueReady q.queue then .fault .notEnabled
      else
        let x : QSlot := { QSlot.fresh q.queue q.mappedAt with marked := q.marked, running := true, prog := p }
        .next { s.mscForget with slots := s.slots.set hw x }
    | none => .fault .notEnabled
  | none => .fault .notEnabled
/-- A packet ends (R302, R312, R354): the record is written, HEAD advances, the slot meets its boundary. -/
def State.endPacket (s : State) (hw : Nat) (q : QSlot) (outcome : Nat) (cause : BitVec 8) (fcode : BitVec 18) : State :=
  let r := s.qrec q.queue
  let r' := { r with outcome, cause, fcode, lastWord := q.last, head := r.head + 1,
                     failCnt := if outcome = 2 then min 0xFFFFFFFF (r.failCnt + 1) else r.failCnt }
  let s := s.setQrec q.queue r'
  let s := if hw = 63 then
      { s with doe := { s.doe with busy := false, drop := false, error := s.doe.error || !q.sent } }
    else s
  let s := { s.mscClean with slots := s.slots.set hw { QSlot.fresh q.queue q.mappedAt with marked := q.marked } }
  s.qBoundary hw

/-! ### Windows (R300, R305) -/

/-- What a queue word knows: its slot, its queue's record and key, its PASID. -/
structure QCtx where
  hw : Nat
  q : QSlot
  qr : QRec
  deriving DecidableEq, Repr

/-- A window: base, length, whether it may be written, and whether it is the record itself. -/
structure QWin where
  base : W64
  len : Nat
  wr : Bool
  isRec : Bool
  deriving DecidableEq, Repr

/-- Why a queue access does not complete: it waits, or the packet fails. -/
inductive QStop where
  | wait (s : State)
  | fail (cause : BitVec 8)
  deriving DecidableEq, Repr

/-- Translate one byte's page of a queue's access at the base die. No page is mapped at an address that is not canonical, or in
the local aperture (R175, R375, log entry 98). -/
def State.qPage (s : State) (c : QCtx) (kind : Nat) (va : W64) : Except QStop (State × Nat × Nat × Nat) :=
  if !canonical va then .error (.fail Cause.addrCanon.code)
  else if isLocal va then .error (.fail Cause.scratchRange.code)
  else match s.translate 96 c.qr.pasid c.qr.pitch kind va with
  | .ok t => .ok (s.touchTlb 96 c.qr.pasid va t, Pte.key t.leaf, Pte.cache t.leaf, t.phys va)
  | .error (.page cause) =>
    let s := s.logFault ⟨c.qr.pasid, va, kind, cause, .queue c.hw⟩
    .error (.wait { s with slots := s.slots.set c.hw { c.q with waiting := true } })
  | .error .ats =>
    let s := s.askAts c.qr.pasid kind va (.queue c.hw)
    .error (.wait { s with slots := s.slots.set c.hw { c.q with waiting := true } })
  | .error (.dead cause _) => .error (.fail cause)
/-- Translate a range at the base die: the places of its bytes. -/
def State.qPlaces (s : State) (c : QCtx) (kind : Nat) (va : W64) (n : Nat) : Except QStop (State × List Place) :=
  let pages := dedup ((List.range n).map fun k => (va + BitVec.ofNat 64 k).toNat / 4096)
  pages.foldl (fun (r : Except QStop (State × List Place)) p =>
    match r with
    | .error e => .error e
    | .ok (s, ps) =>
      let first := max (p * 4096) va.toNat
      match s.qPage c kind (BitVec.ofNat 64 first) with
      | .error e => .error e
      | .ok (s, key, cache, pa) =>
        let m := min (p * 4096 + 4096) (va.toNat + n) - first
        .ok (s, ps ++ (List.range m).map fun k => .mem key cache (pa + k))) (.ok (s, []))
/-- Read a range of virtual memory: bytes, or how it stops; poison fails the packet (R305). -/
def State.qReadVa (s : State) (c : QCtx) (va : W64) (n : Nat) : Except QStop (State × List Byte) :=
  match s.qPlaces c 0 va n with
  | .error e => .error e
  | .ok (s, ps) =>
    if s.anyPoison ps then .error (.fail 0x40)
    else .ok (s, ps.map fun p => s.readPlace 96 2 p)
/-- Write a range of virtual memory at a scope: .dev, but for SIGNAL's word (R302, R308). -/
def State.qWriteVa (s : State) (c : QCtx) (va : W64) (bs : List Byte) (scope : Nat := 2) : Except QStop State :=
  match s.qPlaces c 1 va bs.length with
  | .error e => .error e
  | .ok (s, ps) =>
    .ok ((s.storeEl 96 scope ps (leNat bs)).clearPoison (s.memAddrs 96 scope ps))
/-- A window of the packet's program (R300). -/
def State.qWin (s : State) (c : QCtx) (w : Nat) : Except QStop (State × QWin) :=
  if w = 0 then .ok (s, ⟨c.qr.slotVa c.qr.head.toNat, 64, false, false⟩)
  else if w = 1 then .ok (s, ⟨0, 128, false, true⟩)
  else
    let d := c.q.prog.wins.getD (w - 2) (3, false)
    match s.qReadVa c (c.qr.baseVa w) 8 with
    | .error e => .error e
    | .ok (s, bs) => .ok (s, ⟨BitVec.ofNat 64 (leNat bs), 2 ^ d.1, d.2, false⟩)
/-- Read bytes of a window. -/
def State.qRead (s : State) (c : QCtx) (x : QWin) (e n : Nat) : Except QStop (State × List Byte) :=
  if x.isRec then
    .ok (s, (((c.qr.toWords.map fun w => leBytes 8 w.toNat).flatten.drop e).take n))
  else s.qReadVa c (x.base + BitVec.ofNat 64 e) n
/-- Write bytes of a window. -/
def State.qWrite (s : State) (c : QCtx) (x : QWin) (e : Nat) (bs : List Byte) (scope : Nat := 2) : Except QStop State :=
  s.qWriteVa c (x.base + BitVec.ofNat 64 e) bs scope

/-! ### The course of a word (R301, R306, R312) -/

/-- How a queue word ends. -/
inductive QRes where
  /-- Done; the word finishes, and loops that end on it advance. -/
  | next (s : State)
  /-- A transfer to a word. -/
  | jump (s : State) (pc : Nat)
  /-- LOOP: enter a body, or finish its last word. -/
  | enter (s : State) (l : QLoop)
  | skip (s : State) (last : Nat)
  | stop (s : QStop)
  /-- The packet ends: outcome, cause, code. -/
  | done (s : State) (outcome : Nat) (cause : BitVec 8) (fcode : BitVec 18)
  deriving DecidableEq, Repr

/-- finish(w): the next word, innermost loops first (R306). -/
def finishWord (w : Nat) : List QLoop → Nat × List QLoop
  | [] => (w + 1, [])
  | l :: ls =>
    if l.last = w then
      if l.idx + 1 < l.count then (l.start, { l with idx := l.idx + 1 } :: ls) else finishWord w ls
    else (w + 1, l :: ls)
/-- Loops that stay active at a transfer's target (R306). -/
def keepLoops (target : Nat) (ls : List QLoop) : List QLoop :=
  ls.filter fun l => decide (l.start ≤ target) && decide (target ≤ l.last)
/-- A register of a packet; b0 reads zero (R299). -/
def QSlot.reg (q : QSlot) (r : BitVec 4) : W64 := q.regs.getD r.toNat 0
/-- Write a register; b0 discards (R299). -/
def QSlot.setReg (q : QSlot) (r : BitVec 4) (v : W64) : QSlot :=
  if r = 0 then q else { q with regs := Tab.put 0 q.regs r.toNat v }
/-- Write a register of the packet in a slot. -/
def State.qSet (s : State) (c : QCtx) (r : BitVec 4) (v : W64) : State :=
  { s with slots := s.slots.modify c.hw fun q => q.setReg r v }
/-- Count an executed word and move the packet on. -/
def State.qMove (s : State) (c : QCtx) (pc : Nat) (loops : List QLoop) : State :=
  { s with slots := s.slots.modify c.hw fun q => { q with pc, loops, last := c.q.pc, count := q.count + 1 } }
/-- End the packet at its word. -/
def State.qEnd (s : State) (c : QCtx) (outcome : Nat) (cause : BitVec 8) (fcode : BitVec 18) : State :=
  match s.slots.get? c.hw with
  | some q => s.endPacket c.hw { q with last := c.q.pc } outcome cause fcode
  | none => s
/-- Finish a word. -/
def QCtx.finish (c : QCtx) (s0 : State) : QRes → State
  | .next s =>
    let (pc, ls) := finishWord c.q.pc c.q.loops
    s.qMove c pc ls
  | .jump s pc => s.qMove c pc (keepLoops pc c.q.loops)
  | .enter s l => s.qMove c (c.q.pc + 1) (l :: c.q.loops)
  | .skip s last =>
    let (pc, ls) := finishWord last c.q.loops
    s.qMove c pc ls
  | .stop (.wait s) => s
  | .stop (.fail cause) => s0.qEnd c 2 cause 0
  | .done s outcome cause fcode => s.qEnd c outcome cause fcode
/-- Issue a word of the focused queue slot: the budget of 512 words first (R312), then a page that could not be
resolved (R305), then its effect. -/
def qIssue (s : State) (body : State → QCtx → QRes) : Host.Outcome State Fault Refusal :=
  match s.focus with
  | .queue hw =>
    match s.slots.get? hw with
    | some q =>
      if !q.running then .fault .noIssuer
      else
        let c : QCtx := ⟨hw, q, s.qrec q.queue⟩
        if 512 ≤ q.count then .next (s.endPacket hw q 2 0x69 0)
        else match q.dead with
          | some cause => .next (s.qEnd c 2 cause 0)
          | none => if q.waiting then .next s else .next (c.finish s (body s c))
    | none => .fault .noIssuer
  | _ => .fault .noIssuer
/-- Continue with what an access gives. -/
def QRes.bind {α : Type} (x : Except QStop α) (f : α → QRes) : QRes :=
  match x with
  | .ok a => f a
  | .error e => .stop e

/-! ### The words (R304–R306) -/

/-- The byte of a window that a word addresses (R305). -/
def qByte (c : QCtx) (x : QWin) (a : BitVec 4) (o : BitVec 14) (n : Nat) : Nat :=
  ((c.q.reg a + o.zeroExtend 64).toNat % x.len) / n * n
/-- A load of `n` bytes. -/
def qLoad (s : State) (n : Nat) (d a w : BitVec 4) (o : BitVec 14) : Host.Outcome State Fault Refusal :=
  qIssue s fun s c =>
    .bind (s.qWin c w.toNat) fun (s, x) =>
      .bind (s.qRead c x (qByte c x a o n) n) fun (s, bs) => .next (s.qSet c d (BitVec.ofNat 64 (leNat bs)))
/-- A store of the low `n` bytes. -/
def qStore (s : State) (n : Nat) (d a w : BitVec 4) (o : BitVec 14) : Host.Outcome State Fault Refusal :=
  qIssue s fun s c =>
    .bind (s.qWin c w.toNat) fun (s, x) =>
      .bind (s.qWrite c x (qByte c x a o n) (leBytes n (c.q.reg d).toNat)) fun s => .next s
/-- A word with a result in `d` from the packet's registers. -/
def qAlu (s : State) (d : BitVec 4) (f : QSlot → W64) : Host.Outcome State Fault Refusal :=
  qIssue s fun s c => .next (s.qSet c d (f c.q))
/-- Truth as a value. -/
def qBool (b : Bool) : W64 := if b then 1 else 0
/-- An immediate, sign- or zero-extended. -/
def qSx (i : BitVec 18) : W64 := i.signExtend 64
@[inherit_doc qSx] def qZx (i : BitVec 18) : W64 := i.zeroExtend 64

/-- QB_LDB (R305). -/
def execQbLdb (d a w : BitVec 4) (o : BitVec 14) (s : State) : Host.Outcome State Fault Refusal := qLoad s 1 d a w o
/-- QB_LDH (R305). -/
def execQbLdh (d a w : BitVec 4) (o : BitVec 14) (s : State) : Host.Outcome State Fault Refusal := qLoad s 2 d a w o
/-- QB_LDW (R305). -/
def execQbLdw (d a w : BitVec 4) (o : BitVec 14) (s : State) : Host.Outcome State Fault Refusal := qLoad s 4 d a w o
/-- QB_LDD (R305). -/
def execQbLdd (d a w : BitVec 4) (o : BitVec 14) (s : State) : Host.Outcome State Fault Refusal := qLoad s 8 d a w o
/-- QB_STB (R305). -/
def execQbStb (d a w : BitVec 4) (o : BitVec 14) (s : State) : Host.Outcome State Fault Refusal := qStore s 1 d a w o
/-- QB_STH (R305). -/
def execQbSth (d a w : BitVec 4) (o : BitVec 14) (s : State) : Host.Outcome State Fault Refusal := qStore s 2 d a w o
/-- QB_STW (R305). -/
def execQbStw (d a w : BitVec 4) (o : BitVec 14) (s : State) : Host.Outcome State Fault Refusal := qStore s 4 d a w o
/-- QB_STD (R305). -/
def execQbStd (d a w : BitVec 4) (o : BitVec 14) (s : State) : Host.Outcome State Fault Refusal := qStore s 8 d a w o
/-- QB_ADD (R304). -/
def execQbAdd (d a b : BitVec 4) (s : State) : Host.Outcome State Fault Refusal := qAlu s d fun q => q.reg a + q.reg b
/-- QB_SUB (R304). -/
def execQbSub (d a b : BitVec 4) (s : State) : Host.Outcome State Fault Refusal := qAlu s d fun q => q.reg a - q.reg b
/-- QB_AND (R304). -/
def execQbAnd (d a b : BitVec 4) (s : State) : Host.Outcome State Fault Refusal := qAlu s d fun q => q.reg a &&& q.reg b
/-- QB_OR (R304). -/
def execQbOr (d a b : BitVec 4) (s : State) : Host.Outcome State Fault Refusal := qAlu s d fun q => q.reg a ||| q.reg b
/-- QB_XOR (R304). -/
def execQbXor (d a b : BitVec 4) (s : State) : Host.Outcome State Fault Refusal := qAlu s d fun q => q.reg a ^^^ q.reg b
/-- QB_SHL (R304). -/
def execQbShl (d a b : BitVec 4) (s : State) : Host.Outcome State Fault Refusal :=
  qAlu s d fun q => q.reg a <<< ((q.reg b).toNat % 64)
/-- QB_SHR (R304). -/
def execQbShr (d a b : BitVec 4) (s : State) : Host.Outcome State Fault Refusal :=
  qAlu s d fun q => q.reg a >>> ((q.reg b).toNat % 64)
/-- QB_MUL (R304). -/
def execQbMul (d a b : BitVec 4) (s : State) : Host.Outcome State Fault Refusal := qAlu s d fun q => q.reg a * q.reg b
/-- QB_ADDI (R304). -/
def execQbAddi (d a : BitVec 4) (i : BitVec 18) (s : State) : Host.Outcome State Fault Refusal := qAlu s d fun q => q.reg a + qSx i
/-- QB_ANDI (R304). -/
def execQbAndi (d a : BitVec 4) (i : BitVec 18) (s : State) : Host.Outcome State Fault Refusal := qAlu s d fun q => q.reg a &&& qZx i
/-- QB_ORI (R304). -/
def execQbOri (d a : BitVec 4) (i : BitVec 18) (s : State) : Host.Outcome State Fault Refusal := qAlu s d fun q => q.reg a ||| qZx i
/-- QB_XORI (R304). -/
def execQbXori (d a : BitVec 4) (i : BitVec 18) (s : State) : Host.Outcome State Fault Refusal := qAlu s d fun q => q.reg a ^^^ qZx i
/-- QB_SHLI (R304). -/
def execQbShli (d a : BitVec 4) (n : BitVec 6) (s : State) : Host.Outcome State Fault Refusal := qAlu s d fun q => q.reg a <<< n.toNat
/-- QB_SHRI (R304). -/
def execQbShri (d a : BitVec 4) (n : BitVec 6) (s : State) : Host.Outcome State Fault Refusal := qAlu s d fun q => q.reg a >>> n.toNat
/-- QB_MOVI (R304). -/
def execQbMovi (d : BitVec 4) (i : BitVec 18) (s : State) : Host.Outcome State Fault Refusal := qAlu s d fun _ => qSx i
/-- QB_SHLOR (R304). -/
def execQbShlor (d : BitVec 4) (i : BitVec 18) (s : State) : Host.Outcome State Fault Refusal :=
  qAlu s d fun q => (q.reg d <<< 18) ||| qZx i
/-- QB_CEQ (R304). -/
def execQbCeq (d a b : BitVec 4) (s : State) : Host.Outcome State Fault Refusal := qAlu s d fun q => qBool (q.reg a == q.reg b)
/-- QB_CNE (R304). -/
def execQbCne (d a b : BitVec 4) (s : State) : Host.Outcome State Fault Refusal := qAlu s d fun q => qBool (q.reg a != q.reg b)
/-- QB_CLTU (R304). -/
def execQbCltu (d a b : BitVec 4) (s : State) : Host.Outcome State Fault Refusal := qAlu s d fun q => qBool ((q.reg a).ult (q.reg b))
/-- QB_CLTS (R304). -/
def execQbClts (d a b : BitVec 4) (s : State) : Host.Outcome State Fault Refusal := qAlu s d fun q => qBool ((q.reg a).slt (q.reg b))
/-- A branch taken if a register's value meets a test (R304). -/
def qBranch (s : State) (i : BitVec 18) (p : QSlot → Bool) : Host.Outcome State Fault Refusal :=
  qIssue s fun s c => if p c.q then .jump s (c.q.pc + i.toNat) else .next s
/-- QB_BZ (R304). -/
def execQbBz (a : BitVec 4) (i : BitVec 18) (s : State) : Host.Outcome State Fault Refusal := qBranch s i fun q => q.reg a == 0
/-- QB_BNZ (R304). -/
def execQbBnz (a : BitVec 4) (i : BitVec 18) (s : State) : Host.Outcome State Fault Refusal := qBranch s i fun q => q.reg a != 0
/-- QB_JMP (R304). -/
def execQbJmp (i : BitVec 18) (s : State) : Host.Outcome State Fault Refusal := qBranch s i fun _ => true
/-- QB_LOOP (R306): BOUND is the field plus 1. -/
def execQbLoop (a : BitVec 4) (n : BitVec 6) (l : BitVec 12) (s : State) : Host.Outcome State Fault Refusal :=
  qIssue s fun s c =>
    let k := min (c.q.reg a).toNat (n.toNat + 1)
    if k = 0 then .skip s (c.q.pc + l.toNat) else .enter s ⟨c.q.pc + 1, c.q.pc + l.toNat, k, 0⟩
/-- QB_LIDX (R304). -/
def execQbLidx (d : BitVec 4) (s : State) : Host.Outcome State Fault Refusal :=
  qAlu s d fun q => BitVec.ofNat 64 ((q.loops.head?.map (·.idx)).getD 0)
/-- HALT (R302, R304). -/
def execHalt (s : State) : Host.Outcome State Fault Refusal := qIssue s fun s _ => .done s 1 0 0
/-- FAULT (R302, R304). -/
def execFault (i : BitVec 18) (s : State) : Host.Outcome State Fault Refusal := qIssue s fun s _ => .done s 2 0 i
/-- EMIT (R307): a ninth ends the packet with QB_BUDGET. -/
def execEmit (a w : BitVec 4) (o : BitVec 14) (s : State) : Host.Outcome State Fault Refusal :=
  qIssue s fun s c =>
    if 8 ≤ c.q.emits then .stop (.fail 0x69) else
    .bind (s.qWin c w.toNat) fun (s, x) =>
      .bind (s.qRead c x (qByte c x a o 64) 64) fun (s, bs) =>
        let ws : List W64 := (List.range 8).map fun i => BitVec.ofNat 64 (leNat ((bs.drop (8 * i)).take 8))
        let r : LaunchReq := ⟨none, c.qr.pitch, c.qr.pasid, ws, none⟩
        .next { s with requests := s.requests ++ [r],
                       slots := s.slots.modify c.hw fun q => { q with emits := q.emits + 1 } }

/-! ### Services (R308) -/

/-- Status 2, BADARG. -/
def qBad (s : State) (c : QCtx) (d : BitVec 4) : QRes := .next (s.qSet c d 2)
/-- A window named by a register, if it is declared and holds a range of `n` bytes at an offset (R308). -/
def State.qRange (s : State) (c : QCtx) (w ofs : W64) (n : Nat) (wr : Bool) : Except QStop (State × Option QWin) :=
  if 2 + c.q.prog.wins.length ≤ w.toNat then .ok (s, none)
  else match s.qWin c w.toNat with
    | .error e => .error e
    | .ok (s, x) => .ok (s, if ofs.toNat + n ≤ x.len ∧ (!wr ∨ x.wr) then some x else none)
/-- LAUNCH (R308): the packet waits for the firmware's verdict. -/
def execLaunch (d : BitVec 4) (s : State) : Host.Outcome State Fault Refusal :=
  qIssue s fun s c =>
    let done (s : State) : State :=
      { s with slots := s.slots.modify c.hw fun q => { q with asked := false, verdict := none } }
    match c.q.verdict with
    | some v => .next (done (s.qSet c d v))
    | none =>
      .bind (s.qRange c (c.q.reg 1) (c.q.reg 2) 64 false) fun (s, x) =>
        match x with
        | none => qBad s c d
        | some x => .bind (s.qRead c x (c.q.reg 2).toNat 64) fun (s, bs) =>
          let ws : List W64 := (List.range 8).map fun i => BitVec.ofNat 64 (leNat ((bs.drop (8 * i)).take 8))
          let r : LaunchReq := ⟨some c.hw, c.qr.pitch, c.qr.pasid, ws, none⟩
          .stop (.wait { s with requests := s.requests ++ [r],
                                slots := s.slots.modify c.hw fun q => { q with asked := true, waiting := true } })
/-- The function of a PASID. -/
def State.funcOf (s : State) (pasid : Nat) : Nat := ((s.pasids.get? pasid).map (·.func)).getD 0
/-- SIGNAL (R308). -/
def execSignal (d : BitVec 4) (s : State) : Host.Outcome State Fault Refusal :=
  qIssue s fun s c =>
    if (c.q.reg 2).toNat % 8 ≠ 0 then qBad s c d else
    .bind (s.qRange c (c.q.reg 1) (c.q.reg 2) 8 true) fun (s, x) =>
      match x with
      | none => qBad s c d
      | some x => .bind (s.mscClean.qWrite c x (c.q.reg 2).toNat (leBytes 8 (c.q.reg 3).toNat) 3) fun s =>
        let s := if (c.q.reg 4).getLsbD 63 then
            { s with msix := s.msix ++ [(s.funcOf c.qr.pasid, (c.q.reg 4).toNat % 2 ^ 11)] }
          else s
        .next (s.qSet c d 0)
/-- The tag of a hash context (R308). -/
def hashTag : Nat := 0x000000014853544B
/-- A computation as 248 bytes: hash state, count, the bytes of the unfinished block, zeros. -/
def hashBytes (x : ShaState) : List Byte :=
  (x.h.map fun w => leBytes 8 w.toNat).flatten ++ leBytes 8 x.n ++ x.buf ++ List.replicate (176 - x.buf.length) 0
/-- The computation that 248 bytes hold. -/
def hashState (bs : List Byte) : ShaState :=
  let n := leNat ((bs.drop 64).take 8)
  ⟨(List.range 8).map fun i => BitVec.ofNat 64 (leNat ((bs.drop (8 * i)).take 8)), n, (bs.drop 72).take (n % 128)⟩
/-- Bytes under the service's mask, or from under it. -/
def hashMask (bs : List Byte) : List Byte := (bs.zipIdx).map fun (b, i) => b ^^^ Config.hashByte i
/-- A context's bytes for a computation: the tag and the service's own 248 bytes, which hold its whole state (R308, R473, log
entry 12). -/
def hashContext (x : ShaState) : List Byte := leBytes 8 hashTag ++ hashMask (hashBytes x)
/-- The computation of a context that the service has produced; none of one whose bytes a program has altered (R308). -/
def State.hashOf (s : State) (ctx : List Byte) : Option ShaState :=
  if s.hashCtxs.contains ctx then some (hashState (hashMask (ctx.drop 8))) else none
/-- Note a context that the service produces. -/
def State.keepHash (s : State) (ctx : List Byte) : State :=
  if s.hashCtxs.contains ctx then s else { s with hashCtxs := ctx :: s.hashCtxs }
/-- HASH (R308, R473). -/
def execHash (d : BitVec 4) (s : State) : Host.Outcome State Fault Refusal :=
  qIssue s fun s c =>
    let mode := (c.q.reg 6).toNat
    let n := (c.q.reg 3).toNat
    let data := (c.q.reg 2).toNat
    let at_ := (c.q.reg 5).toNat
    if 3 ≤ mode ∨ at_ % 8 ≠ 0 ∨ (mode = 1 ∧ 4096 < n) then qBad s c d else
    .bind (s.qRange c (c.q.reg 4) (c.q.reg 5) 256 true) fun (s, x) =>
      match x with
      | none => qBad s c d
      | some x =>
        if mode = 0 then .bind (s.qWrite c x at_ (hashContext .init)) fun s => .next ((s.keepHash (hashContext .init)).qSet c d 0)
        else .bind (s.qRange c (c.q.reg 1) (c.q.reg 2) (if mode = 1 then n else 48) (mode == 2)) fun (s, y) =>
          match y with
          | none => qBad s c d
          | some y => .bind (s.qRead c x at_ 256) fun (s, ctx) =>
            if leNat (ctx.take 8) ≠ hashTag then qBad s c d
            else if mode = 1 then
              .bind (s.qRead c y data n) fun (s, bs) =>
                match s.hashOf ctx with
                | some y =>
                  let ctx := hashContext (y.absorb bs)
                  .bind (s.qWrite c x at_ ctx) fun s => .next ((s.keepHash ctx).qSet c d 0)
                | none => .bind (s.qWrite c x at_ (leBytes 8 hashTag ++ (List.range 248).map fun i => Config.freeByte s.stepNo i)) fun s =>
                  .next (s.qSet c d 0)
            else
              let digest : List Byte := match s.hashOf ctx with
                | some y => y.final
                | none => (List.range 48).map fun i => (Config.alteredHash ctx).getD i 0
              .bind (s.qWrite c y data digest) fun s =>
                .bind (s.qWrite c x at_ (List.replicate 256 0)) fun s => .next (s.qSet c d 0)
/-- SIGN (R308): any key but 0 gives BADARG. -/
def execSign (d : BitVec 4) (s : State) : Host.Outcome State Fault Refusal :=
  qIssue s fun s c =>
    if c.q.reg 5 ≠ 0 then qBad s c d else
    .bind (s.qRange c (c.q.reg 1) (c.q.reg 2) 48 false) fun (s, x) =>
      .bind (s.qRange c (c.q.reg 3) (c.q.reg 4) 96 true) fun (s, y) =>
        match x, y with
        | some x, some y => .bind (s.qRead c x (c.q.reg 2).toNat 48) fun (s, dig) =>
          let sig := Config.ecdsaSign s.drbgNo dig
          .bind (s.qWrite c y (c.q.reg 4).toNat ((List.range 96).map fun i => sig.getD i 0)) fun s =>
            .next (({ s with drbgNo := s.drbgNo + 1 } : State).qSet c d 0)
        | _, _ => qBad s c d
/-- RANDOM (R308). -/
def execRandom (d : BitVec 4) (s : State) : Host.Outcome State Fault Refusal :=
  qIssue s fun s c =>
    let n := (c.q.reg 3).toNat
    if n = 0 ∨ 256 < n then qBad s c d else
    .bind (s.qRange c (c.q.reg 1) (c.q.reg 2) n true) fun (s, x) =>
      match x with
      | none => qBad s c d
      | some x => .bind (s.qWrite c x (c.q.reg 2).toNat ((List.range n).map fun i => Config.drbg (s.drbgNo + i))) fun s =>
        .next (({ s with drbgNo := s.drbgNo + n } : State).qSet c d 0)
/-- DOESEND (R308, R471, R472): an object of a packet that an Abort overtook is discarded. -/
def execDoesend (d : BitVec 4) (s : State) : Host.Outcome State Fault Refusal :=
  qIssue s fun s c =>
    let n := (c.q.reg 3).toNat
    if c.hw ≠ 63 ∨ n % 4 ≠ 0 ∨ n < 8 ∨ 4096 < n then qBad s c d else
    .bind (s.qRange c (c.q.reg 1) (c.q.reg 2) n false) fun (s, x) =>
      match x with
      | none => qBad s c d
      | some x =>
        if s.doe.resp.isSome then .next (s.qSet c d 4)
        else .bind (s.qRead c x (c.q.reg 2).toNat n) fun (s, bs) =>
          let ws : List W32 := (List.range (n / 4)).map fun i => BitVec.ofNat 32 (leNat ((bs.drop (4 * i)).take 4))
          let doe := if s.doe.drop then s.doe else { s.doe with resp := some ws }
          let mark (q : QSlot) : QSlot := { q with sent := true }
          .next (({ s with doe, slots := s.slots.modify c.hw mark } : State).qSet c d 0)
/-- A measurement slot (R32). -/
def State.measSlot (s : State) (n : Nat) : List Byte := s.meas.getD n (List.replicate 48 0)
/-- MEASREAD (R308). -/
def execMeasread (d : BitVec 4) (s : State) : Host.Outcome State Fault Refusal :=
  qIssue s fun s c =>
    if 24 ≤ (c.q.reg 3).toNat then qBad s c d else
    .bind (s.qRange c (c.q.reg 1) (c.q.reg 2) 48 true) fun (s, x) =>
      match x with
      | none => qBad s c d
      | some x => .bind (s.qWrite c x (c.q.reg 2).toNat (s.measSlot (c.q.reg 3).toNat)) fun s => .next (s.qSet c d 0)

/-! ### The checker (R309, R310) -/

/-- The header and windows of an image (R309): the program, or none where rule 1 fails. -/
def qHeader (img : List Byte) : Option QProg :=
  let f (o n : Nat) : Nat := leNat ((img.drop o).take n)
  let wc := f 6 2
  let nw := f 8 4
  let win (i : Nat) : Nat := f (16 + 8 * i) 8
  let winOk (i : Nat) : Bool := decide (3 ≤ win i % 32) && decide (win i % 32 ≤ 20) && decide (win i < 64)
  if f 0 4 = 0x4251544B ∧ f 4 2 = 1 ∧ wc ≤ 14 ∧ 1 ≤ nw ∧ nw ≤ 4096 ∧ f 12 4 = 0 ∧ img.length = 16 + 8 * wc + 4 * nw
      ∧ (List.range wc).all winOk then
    some ⟨(List.range wc).map fun i => (win i % 32, win i / 32 % 2 == 1),
      (List.range nw).map fun i => BitVec.ofNat 32 (f (16 + 8 * wc + 4 * i) 4)⟩
  else none
/-- The window, base register, offset, size and whether it is written, of a word that names a window; EMIT wants a
writable window too (rule 3). -/
def qAccessOf : Instr → Option (Nat × Nat × Nat × Nat × Bool)
  | .qbLdb _ a w o => some (w.toNat, a.toNat, o.toNat, 1, false)
  | .qbLdh _ a w o => some (w.toNat, a.toNat, o.toNat, 2, false)
  | .qbLdw _ a w o => some (w.toNat, a.toNat, o.toNat, 4, false)
  | .qbLdd _ a w o => some (w.toNat, a.toNat, o.toNat, 8, false)
  | .qbStb _ a w o => some (w.toNat, a.toNat, o.toNat, 1, true)
  | .qbSth _ a w o => some (w.toNat, a.toNat, o.toNat, 2, true)
  | .qbStw _ a w o => some (w.toNat, a.toNat, o.toNat, 4, true)
  | .qbStd _ a w o => some (w.toNat, a.toNat, o.toNat, 8, true)
  | .emit a w o => some (w.toNat, a.toNat, o.toNat, 64, true)
  | _ => none
/-- The branch distance of a word. -/
def qBranchOf : Instr → Option Nat
  | .qbBz _ i | .qbBnz _ i => some i.toNat
  | .qbJmp i => some i.toNat
  | _ => none
/-- The body length of a LOOP. -/
def qLoopOf : Instr → Option Nat
  | .qbLoop _ _ l => some l.toNat
  | _ => none
/-- Length of a window of a program, and whether it may be written. -/
def QProg.win? (p : QProg) (w : Nat) : Option (Nat × Bool) :=
  if w = 0 then some (64, false)
  else if w = 1 then some (128, false)
  else (p.wins[w - 2]?).map fun x => (2 ^ x.1, x.2)
/-- Whether a word of a program breaks a rule of R310 (rules 2 to 9; a CALL's service is rule 9). -/
def QProg.breaks (p : QProg) (rule k : Nat) : Bool :=
  let n := p.words.length
  let w := p.words.getD k 0
  let isCall := (w.extractLsb' 26 6).toNat == 0x30
  let callOk := (w.extractLsb' 18 4) == 0
  let d := decodeQueue w
  let at_ (j : Nat) : Option Instr := decodeQueue (p.words.getD j 0)
  let bodies : List (Nat × Nat) := (List.range n).filterMap fun j => ((at_ j).bind qLoopOf).map fun l => (j + 1, j + l)
  match rule with
  | 2 => if isCall then !callOk else match d with
    | some i => !i.queueOk
    | none => true
  | 3 => match d.bind qAccessOf with
    | some (x, _, _, _, wr) => (match p.win? x with
      | some (_, can) => wr && !can
      | none => true)
    | none => false
  | 4 => match d.bind qAccessOf with
    | some (x, a, o, m, _) => (match p.win? x with
      | some (len, _) => if a = 0 then decide (len < o + m) || decide (o % m ≠ 0) else decide (len ≤ o)
      | none => false)
    | none => false
  | 5 => match d.bind qBranchOf with
    | some i => decide (i = 0) || decide (n - 1 < k + i)
    | none => false
  | 6 => match d.bind qBranchOf with
    | some i => bodies.any fun (a, b) => decide (a ≤ k + i) && decide (k + i ≤ b) && !(decide (a ≤ k) && decide (k ≤ b))
    | none => false
  | 7 => match d.bind qLoopOf with
    | some l =>
      let outer := bodies.filter fun (a, b) => decide (a ≤ k) && decide (k ≤ b)
      decide (n - 1 ≤ k + l) || outer.any (fun (_, b) => decide (b < k + l)) || decide (4 ≤ outer.length)
    | none => false
  | 8 => k == n - 1 && (match d with
    | some .halt | some (.fault _) => false
    | _ => true)
  | 9 => isCall && decide (6 < (w.extractLsb' 0 18).toNat)
  | _ => false
/-- The lowest broken rule with the lowest word at which it fails; none for a program the checker accepts. -/
def QProg.check (p : QProg) : Option (Nat × Nat) :=
  [2, 3, 4, 5, 6, 7, 8, 9].findSome? fun r =>
    ((List.range p.words.length).find? fun k => p.breaks r k).map fun k => (r, k)

end Sys2Proof.Machine
end

