-- ==== Sys2Proof/Machine/Firmware.lean ====
section
/-! DEFINITION. The policy firmware's service of page faults, the lazy loading of image pages, and its own reads and
writes of virtual memory (02 R41–R46, 07 R172, 19 R384). -/

namespace Sys2Proof.Machine
open Sys2Proof

/-! ### Page tables as the firmware writes them (R382) -/

/-- Bytes of the flash window (R12). -/
def State.flashBytes (s : State) (a n : Nat) : List Byte := s.bytes (polKey a) n
/-- Whether a frame of DRAM in service is free to take: no byte in it is written, no pitch saves into it, and no present
entry of a page table names it (R42, R453). -/
def State.frameFree (s : State) (f : Nat) : Bool :=
  decide (f * 4096 + 4096 ≤ s.dramSize) && s.mem.all (fun c => c.1 / 4096 != f)
    && s.pitches.all (fun x => decide (f * 4096 + 4096 ≤ x.2.saveBase) || decide (x.2.saveBase + x.2.saveLen ≤ f * 4096))
    && s.mem.all fun c => !(c.1 % 8 == 0 && c.2.getLsbD 0 && (
      let e : Pte := BitVec.ofNat 64 (s.rawRead c.1 8)
      e.base == f * 4096))
/-- A frame the firmware takes: free, where one is near the free choice (log entry 9); frames on a failing channel are
withheld (R455). -/
def State.takeFrame (s : State) : Nat × State :=
  let n := max 1 (s.dramSize / 4096)
  let f := Config.freeFrame s.nextId % n
  let ok (k : Nat) : Bool := !s.failCh.getLsbD (s.channelOf ((f + k) % n * 4096)) && s.frameFree ((f + k) % n)
  ((f + ((List.range 1024).find? ok).getD 0) % n * 4096, { s with nextId := s.nextId + 1 })
/-- The address of the entry at which a leaf for an address belongs: the level-1 entry, with tables made on the way
where none stand, or a leaf of a larger page that maps it now. -/
def State.entryAt (va : Nat) : Nat → Nat → State → Nat × State
  | 0, table, s => (table, s)
  | level + 1, table, s =>
    let a := table + 8 * (va / 2 ^ levelSize (level + 1) % 512)
    let e : Pte := BitVec.ofNat 64 (s.rawRead a 8)
    if level = 0 ∨ (e.present ∧ (e.leaf ∨ e.bad (level + 1) s.dramSize)) then (a, s)
    else if e.present then State.entryAt va level e.base s
    else
      let (f, s) := s.takeFrame
      State.entryAt va level f ((s.clearRange f 4096).rawWrite a 8 (f + 1))
/-- Write a leaf for an address in a PASID's table; what a cached translation held of its page goes first (R386). -/
def State.putLeaf (s : State) (pasid : Nat) (va leaf : W64) : State :=
  match s.pasids.get? pasid with
  | none => s
  | some ctx =>
    let v := va.toNat % 2 ^ 48
    let (a, s) := State.entryAt v 4 ctx.root s
    let old : Pte := BitVec.ofNat 64 (s.rawRead a 8)
    let s := if old.present then s.tlbInval pasid (some (v / 4096, 1)) else s
    s.rawWrite a 8 leaf.toNat

/-! ### Lazy loading (R42, R43) -/

/-- A byte of a relocated word, given as it stood (R39). -/
def Patch.byte (p : Patch) (j : Nat) (b : Byte) : Byte :=
  let mask : Byte := BitVec.ofNat 8 ((2 ^ p.n - 1) * 2 ^ p.lo / 2 ^ (8 * j))
  (b &&& ~~~mask) ||| BitVec.ofNat 8 (p.val % 2 ^ p.n * 2 ^ p.lo / 2 ^ (8 * j))
/-- Apply a relocation to the bytes of the page at an offset, as far as it lies there (R39, R42). -/
def Patch.apply (page : Nat) (bs : List Byte) (p : Patch) : List Byte :=
  if p.loc + p.size ≤ page ∨ page + 4096 ≤ p.loc then bs else
  (bs.zipIdx).map fun (b, i) => if p.loc ≤ page + i ∧ page + i < p.loc + p.size then p.byte (page + i - p.loc) b else b
/-- The row of a page: the same page of every plane of the kernel whose code it is, or the page alone (R42). -/
def Image.row (im : Image) (ofs : Nat) : List Nat :=
  match im.kernels.find? fun (c, l, p) => decide (c ≤ ofs) && decide (ofs < c + 8 * l * p) with
  | some (c, l, p) => (List.range p).map fun j => c + 8 * l * j + (ofs - c) % (8 * l)
  | none => [ofs]
/-- The bytes of a page as it stands in flash, a partial one padded with zeros (R36). -/
def State.pageBytes (s : State) (p : ImgPage) : List Byte := s.flashBytes p.flash p.len ++ List.replicate (4096 - p.len) 0
/-- The word at an index of a page's bytes. -/
def pageWord (bs : List Byte) (i : Nat) : Nat := leNat ((bs.drop (8 * i)).take 8)
/-- Whether some offset of a row's pages holds a congruent word that differs between planes (R42, R61). -/
def rowSplit (pages : List (List Byte)) : Bool :=
  (List.range 512).any fun i =>
    let ws := pages.map fun b => pageWord b i
    ws.any (fun w => w != ws.headD 0) && ws.any fun w => congruentBits (BitVec.ofNat 64 w)
/-- The mapped image that holds a page of a PASID, its key among `images`, and the page's offset. -/
def State.imageAt (s : State) (pasid : Nat) (va : W64) : Option (Nat × Image × Nat) :=
  let page := va.toNat % 2 ^ 48 / 4096 * 4096
  s.images.findSome? fun (k, im) =>
    if im.pasid = pasid ∧ im.base ≤ page ∧ im.pages.any (fun p => p.ofs == page - im.base) then some (k, im, page - im.base)
    else none
/-- The entry of an address at which its walk ends with nothing mapped, if it does. -/
def State.absentEntry (s : State) (pasid : Nat) (va : W64) : Option Pte :=
  match s.pasids.get? pasid with
  | some ctx => (match s.walk ctx.root va with
    | .absent e => some e
    | _ => none)
  | none => none
/-- Address of a load offset of an image. -/
def Image.va (im : Image) (ofs : Nat) : W64 := BitVec.ofNat 64 (im.base + ofs)
/-- Load the row of a page (R42, R43): what became of each page. A page that fails its hash stays not present, alone; a
congruent word that differs between the planes left fails them all (log entry 19). -/
def State.loadRow (s : State) (k : Nat) (im : Image) (ofs : Nat) : State × List (W64 × Option (BitVec 8)) :=
  let pend (e : Pte) : Bool := e.flashPend
  let row := (im.row ofs).filterMap fun o => im.pages.find? fun p =>
    p.ofs == o && ((s.absentEntry im.pasid (im.va o)).map pend).getD false
  let hashed := row.partition fun p => sha384 (s.pageBytes p) == p.hash
  let data := hashed.1.map fun p => (p, im.patches.foldl (fun b (x : Patch) => x.apply p.ofs b) (s.pageBytes p))
  let split := rowSplit (data.map (·.2))
  let failed : List (Nat × BitVec 8) := hashed.2.map (fun p => (p.ofs, 0xA6)) ++ if split then data.map fun x => (x.1.ofs, 0x05) else []
  let good := if split then [] else data
  let s := if failed = [] then s else { s with images := s.images.set k { im with failed := failed ++ im.failed } }
  let s := good.foldl (fun s (p, bs) =>
    let (f, s) := s.takeFrame
    let s := (bs.zipIdx).foldl (fun (s : State) (b, j) => s.setMemByte im.key (f + j) b) s
    let s := s.clearPoison ((List.range 4096).map (f + ·))
    let e := (s.absentEntry im.pasid (im.va p.ofs)).getD 0
    s.putLeaf im.pasid (im.va p.ofs) ((e &&& 0xFFFF000000000F7F) ||| BitVec.ofNat 64 (f + 9))) s
  (s, good.map (fun x => (im.va x.1.ofs, none)) ++ failed.map fun x => (im.va x.1, some x.2))
/-- The word of an image at an address, as a row loads it (R42). -/
def State.rowWord (s : State) (pasid : Nat) (va : W64) : Option Nat :=
  match s.imageAt pasid va with
  | some (_, im, ofs) => (im.pages.find? fun p => p.ofs == ofs).map fun p =>
      pageWord (im.patches.foldl (fun b (x : Patch) => x.apply p.ofs b) (s.pageBytes p)) (va.toNat % 4096 / 8)
  | none => none
/-- EXTRA of a waiter that a split row fails (R174): for a code fetch, the occupied planes whose word at the offset differs
from the lowest occupied plane's. -/
def State.splitExtra (s : State) (x : Waiter) : W64 :=
  match x with
  | .group core slot =>
    (match s.groups.get? (gid core slot) with
    | some g => (match s.wgs.get? g.wg with
      | some w =>
        let word (p : Nat) : Option Nat := s.rowWord w.pasid (w.codeVa p g.ofs.toNat)
        let m : BitVec 8 := (List.range 8).foldl (fun m p =>
          if g.pmask.getLsbD p && word p != word (lowPlane g.pmask) then m ||| (1#8 <<< p) else m) 0
        m.zeroExtend 64
      | none => 0)
    | none => 0)
  | _ => 0

/-! ### Serving a fault (R172, R384) -/

/-- How the firmware serves a page for an access kind: the pages it came to, with the cause of each that stays without a
usable mapping. `leaf` is the mapping it supplies for a page that no image holds. -/
def State.service (s : State) (pasid : Nat) (va : W64) (kind : Nat) (cause : BitVec 8) (leaf : Option W64) :
    State × List (W64 × Option (BitVec 8)) :=
  let page := va &&& ~~~0xFFF#64
  match s.pasids.get? pasid with
  | none => (s, [(page, some cause)])
  | some ctx =>
    match s.translate 96 pasid ctx.pitch kind va with
    | .error (.page _) =>
      let pend := match s.absentEntry pasid va with
        | some e => e.flashPend
        | none => false
      (match if pend then s.imageAt pasid va else none with
      | some (k, im, ofs) =>
        (match im.failed.find? fun x => x.1 == ofs with
        | some (_, c) => (s, [(page, some c)])
        | none => s.loadRow k im ofs)
      | none =>
        (match leaf with
        | some e => (s.putLeaf pasid va e, [(page, none)])
        | none => (s, [(page, some cause)])))
    | _ => (s, [(page, none)])
/-- PAGE_FAULT_SERVICE (R42–R45, R172): the oldest fault is served; everything that waits on the pages settled replays,
or fails for good; PAGE_HASH reports the page (R179). -/
def execPageFaultService (leaf : Option W64) (s : State) : Host.Outcome State Fault Refusal :=
  match s.faults with
  | [] => .fault .notEnabled
  | f :: _ =>
    let (s1, pages) := s.service f.pasid f.va f.kind f.cause leaf
    -- how the page of a fault came out; a cause of translation settles the access kind that met it alone
    let out (x : PageFault) : Option (Option (BitVec 8)) :=
      match pages.find? fun p => x.pasid == f.pasid && p.1.toNat % 2 ^ 48 / 4096 == x.va.toNat % 2 ^ 48 / 4096 with
      | some (_, none) => some none
      | some (_, some c) => if x.kind == f.kind || c == 0xA6 || c == 0x05 then some (some c) else none
      | none => none
    let s2 := { s1 with faults := s1.faults.filter fun x => x != f && (out x).isNone }
    .next (s1.faults.foldl (fun s x => match out x with
      | some none => s.release1 x.waiter
      | some (some c) => s.fail1 x.waiter x.kind (if c = 0xA6 then x.va &&& ~~~0xFFF#64 else x.va) c
          (if c = 0x05 then s.splitExtra x.waiter else 0)
      | none => s) s2)

/-! ### The firmware's own accesses -/

/-- A byte's page as the firmware reaches it: where it is, or that it waits for the host, or that there is none. -/
inductive FwPage where
  | ok (s : State) (key cache pa : Nat)
  | wait (s : State)
  | fail (s : State)
  deriving DecidableEq, Repr
/-- Reach an address of a PASID at the base die; a page that is not mapped is served behind the faults that wait (R45). -/
def State.fwPage (s : State) (pasid kind : Nat) (va : W64) : FwPage :=
  match s.pasids.get? pasid with
  | none => .fail s
  | some ctx =>
    let go (s : State) : Except TransFail TlbEntry := s.translate 96 pasid ctx.pitch kind va
    let put (s : State) (t : TlbEntry) : FwPage := .ok (s.touchTlb 96 pasid va t) (Pte.key t.leaf) (Pte.cache t.leaf) (t.phys va)
    match go s with
    | .ok t => put s t
    | .error .ats => .wait (s.askAts pasid kind va .none)
    | .error (.dead ..) => .fail s
    | .error (.page c) =>
      if s.faults ≠ [] then .wait s else
      let (s, _) := s.service pasid va kind c (Config.firmwareLeaf pasid (va.truncate 48))
      match go s with
      | .ok t => put s t
      | .error .ats => .wait (s.askAts pasid kind va .none)
      | .error _ => .fail s
/-- How a firmware access of a range ends. -/
inductive FwRes (α : Type) where
  | ok (s : State) (x : α)
  | wait (s : State)
  | fail (s : State)
/-- The places of a range, its pages reached one after the other. -/
def State.fwPlaces (s : State) (pasid kind : Nat) (va : W64) (n : Nat) : FwRes (List Place) :=
  let pages := dedup ((List.range n).map fun k => (va + BitVec.ofNat 64 k).toNat / 4096)
  pages.foldl (fun (r : FwRes (List Place)) p =>
    match r with
    | .ok s ps =>
      let first := max (p * 4096) va.toNat
      (match s.fwPage pasid kind (BitVec.ofNat 64 first) with
      | .ok s key cache pa =>
        let m := min (p * 4096 + 4096) (va.toNat + n) - first
        .ok s (ps ++ (List.range m).map fun k => .mem key cache (pa + k))
      | .wait s => .wait s
      | .fail s => .fail s)
    | r => r) (.ok s [])
/-- Read a range at sys scope. -/
def State.fwRead (s : State) (pasid : Nat) (va : W64) (n : Nat) : FwRes (List Byte) :=
  match s.fwPlaces pasid 0 va n with
  | .ok s ps => .ok s (ps.map fun p => s.readPlace 96 3 p)
  | .wait s => .wait s
  | .fail s => .fail s
/-- Write a range at sys scope; a range that no mapping reaches takes nothing. `none` when the host's answer is
outstanding. -/
def State.fwWrite (s : State) (pasid : Nat) (va : W64) (bs : List Byte) : State × Bool :=
  match s.fwPlaces pasid 1 va bs.length with
  | .ok s ps => ((s.storeEl 96 3 ps (leNat bs)).clearPoison (s.memAddrs 96 3 ps), true)
  | .wait s => (s, false)
  | .fail s => (s, true)
/-- The words of a byte list. -/
def wordsOf (bs : List Byte) : List W64 := (List.range (bs.length / 8)).map fun i => BitVec.ofNat 64 (leNat ((bs.drop (8 * i)).take 8))
/-- The bytes of words. -/
def bytesOf (ws : List W64) : List Byte := (ws.map fun w => leBytes 8 w.toNat).flatten

end Sys2Proof.Machine
end

