-- ==== Sys2Proof/Machine/Placement.lean ====
section
/-! DEFINITION. Bind records, the launches they belong to, saving and restoring a workgroup, and the placement search
(01 R20, R21, 02 R37, 03 R50, R68–R75, 16 R333, 17 R356–R369). -/

namespace Sys2Proof.Machine
open Sys2Proof

/-! ### Cores and bind records -/

/-- Number of the core at a column and row of a die (R6). -/
def coreAt (d c w : Nat) : Nat := 48 * d + 6 * (2 * (c / 2) + w / 3) + 3 * (c % 2) + w % 3
/-- Whether the boot program has handed over to the firmware's service loop (R25): the action number of the loop. -/
def serviceLoop : Nat := 100
/-- Address of a word of a slot-table entry (R12). -/
def slotAt (core entry word : Nat) : Nat := polKey (0x03000000 + core * 0x800 + 32 * entry + 8 * word)
/-- A word of a slot-table entry. -/
def State.slotWord (s : State) (core entry word : Nat) : W64 := BitVec.ofNat 64 (s.rawRead (slotAt core entry word) 8)
/-- VALID of an entry (R20). -/
def State.slotValid (s : State) (core entry : Nat) : Bool := (s.slotWord core entry 0).getLsbD 55
/-- Clear VALID of an entry. -/
def State.clearValid (s : State) (core entry : Nat) : State :=
  s.rawWrite (slotAt core entry 0) 8 (s.slotWord core entry 0 &&& ~~~(1#64 <<< 55)).toNat
/-- A write of any value to a core's slot-table status clears COUNT (R360). -/
def State.clearRefusals (s : State) (core : Nat) : State :=
  s.setCore core { s.core core with slotStatus := (s.core core).slotStatus &&& 0xFF }
/-- A write of a word of a slot-table entry: words 1 to 3 of a valid entry ignore it, and a rise of VALID hands the
entry to dispatch (R20, R21). -/
def State.slotWrite (s : State) (core entry word : Nat) (v : W64) : State :=
  if word ≠ 0 then (if s.slotValid core entry then s else s.rawWrite (slotAt core entry word) 8 v.toNat)
  else
    let rises := !s.slotValid core entry && v.getLsbD 55
    let s := s.rawWrite (slotAt core entry 0) 8 v.toNat
    if !rises then s else
    -- the write wakes a core that holds resident groups (R326)
    let s := if s.groups.any fun x => x.1 / 64 == core then s.wake core wakeBind else s
    { s with binds := s.binds ++ [(core, entry)] }
/-- The fields of a bind record (R20). -/
structure BindRec where
  wgid : Nat
  slot : Nat
  ngroups : Nat
  pitch : Nat
  prio : Nat
  scrBase : Nat
  scrSize : Nat
  vregs : Nat
  sregs : Nat
  preds : Nat
  nbhid : Nat
  partner : Nat
  pslot : Nat
  role : Nat
  launch : Nat
  /-- No reserved bit is set. -/
  clean : Bool
  deriving DecidableEq, Repr
/-- A field of a word. -/
def field (w : W64) (lo n : Nat) : Nat := w.toNat / 2 ^ lo % 2 ^ n
/-- The record in a slot-table entry. -/
def State.bindRec (s : State) (core entry : Nat) : BindRec :=
  let a := s.slotWord core entry 0
  let b := s.slotWord core entry 1
  let c := s.slotWord core entry 2
  let d := s.slotWord core entry 3
  { wgid := field a 0 32, slot := field a 32 6, ngroups := field a 38 6, pitch := field a 44 4, prio := field a 48 7,
    scrBase := field b 0 12, scrSize := field b 12 12, vregs := field b 24 9, sregs := field b 33 7, preds := field b 40 6,
    nbhid := field c 0 16, partner := field c 16 7, pslot := field c 24 6, role := field c 30 2, launch := field d 0 48,
    clean := field a 56 8 == 0 && field b 46 18 == 0 && field c 23 1 == 0 && field c 32 32 == 0 && field d 48 16 == 0 }
/-- A bind record as words. -/
def BindRec.words (r : BindRec) : List W64 :=
  [BitVec.ofNat 64 (r.wgid + r.slot * 2 ^ 32 + r.ngroups * 2 ^ 38 + r.pitch * 2 ^ 44 + r.prio * 2 ^ 48 + 2 ^ 55),
   BitVec.ofNat 64 (r.scrBase + r.scrSize * 2 ^ 12 + r.vregs * 2 ^ 24 + r.sregs * 2 ^ 33 + r.preds * 2 ^ 40),
   BitVec.ofNat 64 (r.nbhid + r.partner * 2 ^ 16 + r.pslot * 2 ^ 24 + r.role * 2 ^ 30), BitVec.ofNat 64 r.launch]
/-- Write a record, word 0 with VALID last (R359). -/
def State.writeBind (s : State) (core : Nat) (r : BindRec) : State :=
  let w := r.words
  let s := [1, 2, 3].foldl (fun s k => s.slotWrite core r.slot k (w.getD k 0)) s
  s.slotWrite core r.slot 0 (w.getD 0 0)

/-! ### What a core has free (R52, R68, R69) -/

/-- The records that await dispatch on a core. -/
def State.waitingOn (s : State) (core : Nat) : List BindRec :=
  (s.binds.filter fun x => x.1 == core).map fun x => s.bindRec x.1 x.2
/-- Vector registers a group takes (R52). -/
def regsTaken (vregs : Nat) : Nat := (vregs + 7) / 8 * 8
/-- The groups in a core's slots. -/
def State.groupsOn (s : State) (core : Nat) : List (Nat × Group) := s.groups.filter fun x => x.1 / 64 == core
/-- Whether a group stands in a slot of a core. -/
def State.slotHeld (s : State) (core k : Nat) : Bool := (s.groups.get? (gid core k)).isSome
/-- Vector registers that the groups on a core hold. -/
def State.regsHeld (s : State) (core : Nat) : Nat :=
  ((s.groupsOn core).map fun x => match s.wgs.get? x.2.wg with
    | some w => regsTaken w.vregs
    | none => 0).foldl (· + ·) 0
/-- Scratchpad ranges held on a core, in 256-byte units. -/
def State.scrHeld (s : State) (core : Nat) : List (Nat × Nat) :=
  (s.wgsOn core).filterMap fun u => (s.wgs.get? u).map fun w => (w.scrBase, w.scrSize)
/-- Whether a slot of a core is held, or promised to a record that awaits dispatch (R359). -/
def State.slotTaken (s : State) (core k : Nat) : Bool :=
  s.slotHeld core k || (s.waitingOn core).any fun r => decide (r.slot ≤ k) && decide (k < r.slot + r.ngroups)
@[inherit_doc State.slotTaken] def State.regsUsed (s : State) (core : Nat) : Nat :=
  s.regsHeld core + ((s.waitingOn core).map fun r => r.ngroups * regsTaken r.vregs).foldl (· + ·) 0
@[inherit_doc State.slotTaken] def State.scrUsed (s : State) (core : Nat) : List (Nat × Nat) :=
  s.scrHeld core ++ (s.waitingOn core).map fun r => (r.scrBase, r.scrSize)
/-- Whether a range meets none of some ranges. -/
def clearOf (rs : List (Nat × Nat)) (base n : Nat) : Bool :=
  rs.all fun (b, m) => decide (base + n ≤ b) || decide (b + m ≤ base) || n == 0 || m == 0
/-- The lowest base at which a range fits below a limit. -/
def lowestFit (rs : List (Nat × Nat)) (from_ limit n : Nat) : Option Nat :=
  let ok := (from_ :: rs.map fun (b, m) => b + m).filter fun c => decide (from_ ≤ c) && decide (c + n ≤ limit) && clearOf rs c n
  ok.foldl (fun (m : Option Nat) c => match m with
    | none => some c
    | some b => some (min b c)) none
/-- What a member of a neighbourhood needs (R359). -/
structure Need where
  pitch : Nat
  w : Nat
  h : Nat
  ngroups : Nat
  vregs : Nat
  scr : Nat
  /-- Bytes reserved in the save area for each role's workgroup. -/
  save : Nat
  fuse : Bool
  redundant : Bool
  deriving DecidableEq, Repr
/-- Whether a core is in a pitch and in service. -/
def State.coreServes (s : State) (pitch core : Nat) : Bool :=
  (match s.pitches.get? pitch with
  | some p => p.cores.getLsbD core && !p.removing
  | none => false) && !(s.core core).outOfService && !(s.core core).dead
/-- The lowest slots and scratchpad range a core has for a member. -/
def State.coreFit (s : State) (n : Need) (core : Nat) : Option (Nat × Nat) :=
  if !s.coreServes n.pitch core ∨ 4096 < s.regsUsed core + n.ngroups * regsTaken n.vregs then none else
  match (List.range (49 - n.ngroups)).find? fun k => (List.range n.ngroups).all fun j => !s.slotTaken core (k + j) with
  | none => none
  | some slot => (lowestFit (s.scrUsed core) 0 3072 n.scr).map fun b => (slot, b)
/-- The cores of a rectangle in member order (R70). -/
def rectCores (d c0 w0 w h : Nat) : List Nat := (List.range (w * h)).map fun m => coreAt d (c0 + m % w) (w0 + m / w)
/-- Whether the clusters a rectangle touches are wholly in a pitch and idle (R75, R359). -/
def State.clustersIdle (s : State) (pitch : Nat) (cores : List Nat) : Bool :=
  cores.all fun c => (List.range 6).all fun j =>
    s.coreServes pitch (c / 6 * 6 + j) && (s.groupsOn (c / 6 * 6 + j)).isEmpty && (s.waitingOn (c / 6 * 6 + j)).isEmpty
/-- Whether a rectangle lies in a die's grid and every core of it has room. -/
def State.rectFit (s : State) (n : Need) (d c0 w0 : Nat) : Option (List (Nat × Nat × Nat)) :=
  if 8 < c0 + n.w ∨ 6 < w0 + n.h then none else
  let cores := rectCores d c0 w0 n.w n.h
  let fits := cores.map fun c => (c, s.coreFit n c)
  if fits.any (fun x => x.2.isNone) ∨ (n.fuse ∧ !s.clustersIdle n.pitch cores) then none
  else some (fits.map fun x => (x.1, x.2.getD (0, 0)))
/-- Free slots of a die's cores in a pitch. -/
def State.freeSlots (s : State) (pitch d : Nat) : Nat :=
  ((List.range 48).map fun j => if s.coreServes pitch (48 * d + j) then
    ((List.range 48).filter fun k => !s.slotTaken (48 * d + j) k).length else 0).foldl (· + ·) 0
/-- Whether the save area of a pitch has room for some reservations (R368). -/
def Pitch.fitsAll (p : Pitch) : List Nat → List (Nat × Nat) → Bool
  | [], _ => true
  | n :: ns, rs => match lowestFit rs p.saveBase (p.saveBase + p.saveLen) n with
    | some b => Pitch.fitsAll p ns ((b, n) :: rs)
    | none => false
/-- Bytes a pending record will reserve. -/
def State.saveNeed (s : State) (pitch : Nat) : List Nat :=
  (s.binds.map fun x => s.bindRec x.1 x.2).filterMap fun r =>
    if r.pitch ≠ pitch then none else
    let block := r.ngroups * ((0x140 + 8 * r.sregs + 4 * r.preds + 127) / 128 * 128 + 128 * r.vregs + 6400) + r.scrSize * 256 + 2 ^ 20
    some (if r.role = 1 ∨ r.role = 2 then 2 * block + 2 ^ 16 + 2 ^ 22 else block)
/-- The rectangle that placement chooses (R359): per member its core, slot and scratchpad base, and the sweep's. -/
def State.search (s : State) (n : Need) (saved : Bool) : Option (List (Nat × Nat × Nat) × List (Nat × Nat × Nat)) :=
  let room := saved || (match s.pitches.get? n.pitch with
    | some p => p.fitsAll (s.saveNeed n.pitch ++ List.replicate (n.w * n.h * (if n.redundant then 2 else 1)) n.save) p.reserved
    | none => false)
  if !room then none else
  let anchors : List (Nat × Nat × Nat) :=
    ([0, 1].map fun d => ((List.range 8).map fun c => (List.range 6).map fun w => (d, c, w)).flatten).flatten
  let all := anchors.filterMap fun (d, c, w) =>
    match s.rectFit n d c w with
    | none => none
    | some xs =>
      let rank := (xs.map fun x => (s.groupsOn x.1).length + ((s.waitingOn x.1).map (·.ngroups)).foldl (· + ·) 0).foldl (· + ·) 0
      let key := (rank, 48 * 48 - s.freeSlots n.pitch d, d, coreAt d c w)
      if n.redundant then (s.rectFit n (1 - d) c w).map fun ys => (key, xs, ys) else some (key, xs, [])
  let less (a b : Nat × Nat × Nat × Nat) : Bool :=
    decide (a.1 < b.1) || (a.1 == b.1 && (decide (a.2.1 < b.2.1) || (a.2.1 == b.2.1 &&
      (decide (a.2.2.1 < b.2.2.1) || (a.2.2.1 == b.2.2.1 && decide (a.2.2.2 < b.2.2.2))))))
  match all with
  | [] => none
  | x :: xs => some ((xs.foldl (fun m y => if less y.1 m.1 then y else m) x).2)

/-! ### Descriptors and launches (R37, R38, R356–R358) -/

/-- A kernel descriptor from its words; none where it breaks R37, R234, R335 or R357. -/
def kdescOf (ws : List W64) : Option KDesc :=
  let w (k : Nat) : W64 := ws.getD k 0
  let f (k lo n : Nat) : Nat := field (w k) lo n
  let len := 512 * f 1 40 15
  let d : KDesc :=
    { entry := BitVec.ofNat 24 (f 0 0 24), trapEnt := BitVec.ofNat 24 (f 0 24 24), planes := 2 ^ f 0 48 2, codeOfs := f 1 0 40,
      len, vregs := f 2 0 9, sregs := f 2 9 7, preds := f 2 16 6, barriers := f 2 22 7, scratch := f 2 32 12, stack := f 2 44 12,
      groups := f 3 0 5 + 1, w := f 3 5 3 + 1, h := f 3 8 3 + 1, nsched := f 3 11 3, redundant := f 3 14 1 == 1,
      auditable := f 3 15 1 == 1, auditk := f 3 16 4,
      scheds := (List.range (f 3 11 3)).map fun i => (f 4 (16 * i) 8, f 4 (16 * i + 8) 8), maxVtx := f 5 0 9, maxPrim := f 5 9 10 }
  let reserved := f 0 50 14 == 0 && f 1 55 9 == 0 && f 2 29 3 == 0 && f 2 56 8 == 0 && f 3 20 44 == 0 && f 5 19 45 == 0
    && w 6 == 0 && w 7 == 0
  let scheds := decide (d.nsched ≤ 4) && (List.range 4).all fun i =>
    if i < d.nsched then f 4 (16 * i) 8 != 0 && f 4 (16 * i + 8) 8 != 0 else f 4 (16 * i) 16 == 0
  let ok := reserved && scheds && decide (d.entry.toNat < len) && (decide (d.trapEnt.toNat < len) || d.trapEnt == 0xFFFFFF)
    && d.codeOfs % 4096 == 0 && decide (1 ≤ d.vregs) && decide (d.vregs ≤ 256) && decide (1 ≤ d.sregs)
    && decide (d.sregs ≤ 64) && decide (d.preds ≤ 48) && decide (d.barriers ≤ 64) && decide (d.scratch ≤ 3072)
    && decide (d.w * d.h ≤ 24) && decide (d.h ≤ 6) && decide (d.maxVtx ≤ 256) && decide (d.maxPrim ≤ 512)
    && decide (32 * d.barriers ≤ 256 * d.scratch) && !(d.redundant && (d.maxVtx != 0 || d.maxPrim != 0))
    && !(d.nsched != 0 && d.w * d.h == 1)
  if ok then some d else none
/-- SCRSIZE of a workgroup (R69). -/
def KDesc.scrUnits (d : KDesc) : Nat := d.scratch + (d.groups * d.stack * 64 + 255) / 256
/-- Bytes of the save block of a kernel's workgroup, and of what a redundant one reserves for each role (R368). -/
def KDesc.saveNeed (d : KDesc) : Nat :=
  let block := d.groups * ((0x140 + 8 * d.sregs + 4 * d.preds + 127) / 128 * 128 + 128 * d.vregs + 6400) + d.scrUnits * 256 + 2 ^ 20
  if d.redundant then 2 * block + 2 ^ 16 + 2 ^ 22 else block
/-- What a neighbourhood of a kernel needs in a pitch. -/
def KDesc.need (d : KDesc) (pitch : Nat) (fuse : Bool) : Need :=
  { pitch, w := d.w, h := d.h, ngroups := d.groups, vregs := d.vregs, scr := d.scrUnits, save := d.saveNeed, fuse,
    redundant := d.redundant }
/-- A word of a launch's request. -/
def Launch.word (l : Launch) (k : Nat) : W64 := l.req.getD k 0
/-- PRIO of a launch, as its record holds it (R358). -/
def Launch.prio (l : Launch) : Nat := field (l.word 4) 0 7
/-- FUSE of a launch. -/
def Launch.fuse (l : Launch) : Bool := (l.word 4).getLsbD 7
/-- TRAPPOL of a launch. -/
def Launch.trapPol (l : Launch) : Nat := field (l.word 4) 15 2
/-- WGSLICE of a launch in nanoseconds (R365). -/
def Launch.slice (l : Launch) : Nat := field (l.word 4) 17 8 * 50000
/-- Workgroup id of a member of a neighbourhood (R356); a record launch runs record r as workgroup r (R463). -/
def Launch.wgidOf (l : Launch) (nb m : Nat) : Nat :=
  match l.node with
  | some (_, _, r, _) => (r + nb) % 2 ^ 32
  | none => nb * l.desc.w * l.desc.h + m
/-- Address of a record's slot in a record buffer whose base, LOG2N and RSZ stand as in R460 (R461). -/
def recSlot (buf : W64) (r : Nat) : Nat := field buf 0 48 + 0x100 + 64 * (field buf 52 4 + 1) * (r % 2 ^ field buf 48 4)
/-- s0 of a workgroup of a launch (R50, R463). -/
def Launch.argsOf (l : Launch) (nb : Nat) : W64 :=
  match l.node with
  | some (_, _, r, _) => BitVec.ofNat 64 (recSlot (l.word 2) (r + nb) + 8)
  | none => BitVec.ofNat 64 (field (l.word 2) 0 48)
/-- Address of a workgroup's completion record (R362, R463). -/
def Launch.complOf (l : Launch) (nb wgid : Nat) : W64 :=
  match l.node with
  | some (_, _, r, _) => BitVec.ofNat 64 (field (l.word 5) 0 48 + 128 * ((r + nb) % 2 ^ field (l.word 2) 48 4))
  | none => BitVec.ofNat 64 (field (l.word 5) 0 48 + 128 * wgid)
/-- Neighbourhoods of a request (R356). -/
def gridSize (req : List W64) : Nat :=
  let w := req.getD 3 0
  field w 0 16 * field w 16 16 * field w 32 16
/-- A launch as it begins. -/
def Launch.make (req : List W64) (pitch pasid : Nat) (desc : KDesc) (record : Nat) (node : Option (Nat × Nat × Nat × Nat)) : Launch :=
  { req, pitch, pasid, desc, record, slack := (if field (req.getD 4 0) 8 7 = 0 then 16 else field (req.getD 4 0) 8 7), pending := List.range (gridSize req), ended := 0,
    total := gridSize req * desc.w * desc.h, recorded := 0, stopped := false, audits := 0, node, done := false, frame := none, never := 0 }
/-- Write bytes at a physical address under a key, below the L1. -/
def State.putKey (s : State) (key a n v : Nat) : State :=
  ((leBytes n v).zipIdx).foldl (fun s (b, k) => s.setMemByte key (a + k) b) s
/-- Read bytes at a physical address under a key. -/
def State.getKey (s : State) (key a n : Nat) : Nat := leNat ((List.range n).map fun k => s.memByte key (a + k))
/-- Word 8 of a launch record that the firmware made: neighbourhoods bound and ended (R358). -/
def State.syncRecord (s : State) (id : Nat) : State :=
  match s.launches.get? id with
  | some l =>
    (match l.frame with
    | some f => s.putKey (s.pitchKey l.pitch) (f + 64) 8 (gridSize l.req - l.pending.length - l.never + l.ended * 2 ^ 32)
    | none => s)
  | none => s
/-- The PASID in which a pitch maps an address: the first whose walk ends in a leaf or in a page to be loaded from flash. -/
def State.mapperOf (s : State) (pitch va : Nat) : Option Nat :=
  (s.pasids.find? fun (x : Nat × PasidCtx) => x.2.pitch == pitch && !x.2.closing && (match s.walk x.2.root (BitVec.ofNat 64 va) with
    | .leaf .. => true
    | .absent e => e.flashPend
    | .bad _ => false)).map (·.1)
/-- What reading a launch record comes to. -/
inductive LaunchFound where
  | some (id : Nat)
  | none
  /-- Its descriptor breaks R37: the PASID it was read in, and the request (R38). -/
  | bad (pasid : Nat) (req : List W64)
  | waits
  deriving DecidableEq, Repr
/-- The launch a bind record names: one the firmware accepted, or one whose record is read where the pitch maps it (log
entry 20). -/
def State.launchAt (s : State) (va pitch : Nat) : State × LaunchFound :=
  match s.launches.findBy fun _ l => l.record == va && l.pitch == pitch && !l.done with
  | some (id, _) => (s, .some id)
  | none =>
    match s.mapperOf pitch va with
    | none => (s, .none)
    | some pasid =>
      match s.fwRead pasid (BitVec.ofNat 64 va) 128 with
      | .ok s bs =>
        let req := (wordsOf bs).take 8
        (match s.fwRead pasid (BitVec.ofNat 64 (field (req.getD 0 0) 0 48)) 64 with
        | .ok s ds => (match kdescOf (wordsOf ds) with
          | some d =>
            let (id, s) := s.fresh
            ({ s with launches := s.launches.set id (Launch.make req pitch pasid d va none) }, .some id)
          | none => (s, .bad pasid req))
        | .wait s => (s, .waits)
        | .fail s => (s, .none))
      | .wait s => (s, .waits)
      | .fail s => (s, .none)

/-! ### Starting a group (R50, R234) -/

/-- The vector, uniform and predicate registers a group starts with (R50). -/
def Wg.startRegs (w : Wg) (gi : Nat) : Regs :=
  let area := windowBase + BitVec.ofNat 64 (w.member * w.desc.scratch * 256)
  let spill : W64 := if w.desc.stack = 0 then 0 else spillBase + BitVec.ofNat 64 (gi * w.desc.stack * 64)
  let s : Tab W64 := [w.args, area, windowBase, spill].zipIdx.foldl (fun t (v, n) =>
    if n < w.sregs then Tab.put 0 t n v else t) []
  ⟨[], s, []⟩
/-- A group at its start (R50). -/
def Group.start (u : Nat) (w : Wg) (gi stamp : Nat) : Group :=
  { wg := u, gi, ofs := w.desc.entry, planes := [], exec := 0xFFFFFFFF, live := 0xFFFFFFFF, cj := 0xFFFFFF, depth := 0, hw := [],
    callDepth := 0, frameBytes := 0, regs := w.startRegs gi, chk := .clear, schedIndex := 0, phaseNo := 0, todo := none,
    resumePlanes := 0xFF, execNext := 0xFFFFFFFF, planesNext := [], captured := 0, capturedNext := 0, capturedAt := none, pend := [], stamp,
    wait := .none, halted := false, stepReq := false, stop := false, ended := false, heldTrap := false, ckptPtr := 0,
    phaseTime := 0 }
/-- A core's clock runs at once for groups just placed on it, if it held none (R325); what groups it held, its bind record has
woken it for (R326). -/
def State.arrive (s : State) (core : Nat) : State :=
  if (s.groupsOn core).isEmpty then s.leaveIdle.setCore core { s.core core with gated := false, waking := false, idle := 0 }
  else s.setCore core { s.core core with woken := true }
/-- Remove a group from its slot, VALID of its record with it if it is the first (R20); a core left empty gates
(R325). -/
def State.dropGroup (s : State) (k : Nat) : State :=
  let core := k / 64
  let first := match s.groups.get? k with
    | some g => (match s.wgs.get? g.wg with
      | some w => w.slot == k % 64
      | none => false)
    | none => false
  let s := if first && s.slotValid core (k % 64) then s.clearValid core (k % 64) else s
  let s := { s with groups := s.groups.del k, lastPage := s.lastPage.filter fun x => decide (x.1 / 32 ≠ k) }
  let x := s.core core
  if (s.groupsOn core).isEmpty ∧ !x.gated then
    s.setCore core { x with gated := true, waking := false, idle := 0, ready := 0, woken := false, wakeReason := x.wakeReason + (1#64 <<< 32) }
  else s

/-! ### The context of a saved workgroup (R366, R367) -/

/-- CHKINT from its word. -/
def chkOfWord (v : W64) : ChkInt := ⟨v.getLsbD 0, v.getLsbD 1, v.extractLsb' 16 48, 0⟩
/-- The fields of a group's context block: offset, bytes, value (R367). -/
def State.blockFields (s : State) (w : Wg) (g : Group) : List (Nat × Nat × Nat) :=
  let nlog := s.groupLog g.wg g.gi
  let tok := g.pend.foldl (fun m (f, n, o) => if f == .s && (s.accs.get? o).isNone then m ||| (1#64 <<< n) else m) (0 : W64)
  let planes := (List.range 32).foldl (fun t l => t + g.planeOf l * 2 ^ (3 * l)) 0
  let vbase := (0x140 + 8 * w.sregs + 4 * w.preds + 127) / 128 * 128
  let ents := g.hw.reverse
  [(0, 8, g.ofs.toNat + g.cj.toNat * 2 ^ 24 + g.depth % 2 ^ 16 * 2 ^ 48), (8, 8, g.exec.toNat + g.live.toNat * 2 ^ 32),
   (0x10, 8, g.callDepth % 2 ^ 16 + nlog * 2 ^ 16 + w.role * 2 ^ 22), (0x18, 8, g.chk.read.toNat), (0x20, 8, g.ckptPtr.toNat),
   (0x28, 8, tok.toNat), (0x30, 16, planes)]
  ++ (List.range 16).map (fun i => (0x40 + 16 * i, 16, ((ents[i]?).map DivEntry.bits).getD 0))
  ++ (List.range w.sregs).map (fun n => (0x140 + 8 * n, 8, (g.regs.uni n).toNat))
  ++ (List.range w.preds).map (fun n => (0x140 + 8 * w.sregs + 4 * n, 4, (g.regs.pred n).toNat))
  ++ ((List.range w.vregs).map fun n => (List.range 32).map fun l => (vbase + 128 * n + 4 * l, 4, (g.regs.vec n l).toNat)).flatten
/-- Write a group's context block. -/
def State.writeBlock (s : State) (w : Wg) (g : Group) : State :=
  (s.blockFields w g).foldl (fun s (o, n, v) => s.putKey (s.pitchKey w.pitch) (w.ctxAt g.gi + o) n v) s
/-- A group as its context block gives it back; `g` holds what the block leaves to the device (R367). -/
def State.readBlock (s : State) (w : Wg) (g : Group) (stamp : Nat) : Group :=
  let at_ (o n : Nat) : Nat := s.getKey (s.pitchKey w.pitch) (w.ctxAt g.gi + o) n
  let w0 := at_ 0 8
  let w1 := at_ 8 8
  let depth := w0 / 2 ^ 48
  let tok : W64 := BitVec.ofNat 64 (at_ 0x28 8)
  let planeBits := at_ 0x30 16
  let planes : Tab (BitVec 3) := (List.range 32).foldl (fun t l => Tab.put 0 t l (BitVec.ofNat 3 (planeBits / 2 ^ (3 * l)))) []
  let vbase := (0x140 + 8 * w.sregs + 4 * w.preds + 127) / 128 * 128
  let v : Tab W32 := ((List.range w.vregs).map fun n => (List.range 32).map fun l => (n, l)).flatten.foldl (fun t (n, l) =>
    Tab.put 0 t (32 * n + l) (BitVec.ofNat 32 (at_ (vbase + 128 * n + 4 * l) 4))) []
  let u : Tab W64 := (List.range w.sregs).foldl (fun t n => Tab.put 0 t n (BitVec.ofNat 64 (at_ (0x140 + 8 * n) 8))) []
  let p : Tab Mask := (List.range w.preds).foldl (fun t n => Tab.put 0 t n (BitVec.ofNat 32 (at_ (0x140 + 8 * w.sregs + 4 * n) 4))) []
  let exec : Mask := BitVec.ofNat 32 w1
  let hw := ((List.range (min depth 16)).map fun i => DivEntry.ofBits (at_ (0x40 + 16 * i) 16)).reverse
  { g with ofs := BitVec.ofNat 24 w0, cj := BitVec.ofNat 24 (w0 / 2 ^ 24), depth, exec, live := BitVec.ofNat 32 (w1 / 2 ^ 32),
           callDepth := at_ 0x10 2, chk := chkOfWord (BitVec.ofNat 64 (at_ 0x18 8)), ckptPtr := BitVec.ofNat 64 (at_ 0x20 8),
           planes, hw, regs := ⟨v, u, p⟩, execNext := exec, planesNext := planes, todo := none, resumePlanes := 0xFF,
           captured := 0, capturedNext := 0, wait := .none, stamp,
           pend := g.pend.filter fun (f, n, o) => f != .s || (s.accs.get? o).isSome || tok.getLsbD n }
/-- Whether nothing holds up the save of a workgroup whose pre-emption has been asked for (R350, R366). -/
def State.canSave (s : State) (u : Nat) (w : Wg) : Bool :=
  w.preempt && w.phase == .resident && (s.groupsOf u).any (fun x => !x.2.ended) && (s.groupsOf u).all (fun x => x.2.atBoundary)
    && s.accs.all (fun x => x.2.wg != u || x.2.inLog) && !(w.mqueue.any fun m => m.running)
    && (match s.pairOf u with
      | some (_, p, _) => !p.ckpt && p.lead.entries.isEmpty && p.sweep.entries.isEmpty
      | none => true)
/-- Words of `n` bytes at a key that are watched move to another key with what they hold (R241, R367). -/
def State.moveWatch (s : State) (src n dst : Nat) : State :=
  { s with monitors := s.monitors.mapV fun m => match m.pa with
      | some a => if src ≤ a ∧ a < src + n then { m with pa := some (dst + (a - src)) } else m
      | none => m }
/-- The entries of a group's operand log, oldest first. -/
def State.logOf (s : State) (u gi : Nat) : List (Nat × Access) := s.accs.filter fun x => x.2.wg == u && x.2.gi == gi && x.2.inLog
/-- Write a group's operand log into its context block (R366, R367). -/
def State.saveLog (s : State) (u : Nat) (w : Wg) (gi : Nat) : State :=
  s.putOwn (s.pitchKey w.pitch) (w.logAt gi) (400 * (s.logOf u gi).length) s.stepNo
/-- A logged access as it comes back from save-area bytes that have been altered: what it captured is free (log entry 101). -/
def Access.altered (a : Access) (w : Wg) (n : Nat) : Access :=
  let v := (List.range (32 * w.vregs)).foldl (fun t k => Tab.put 0 t k (Config.freeWord n k)) ([] : Tab W32)
  let u := (List.range w.sregs).foldl (fun t k => Tab.put 0 t k (Config.freeWord n (2 ^ 20 + 2 * k) ++ Config.freeWord n (2 ^ 20 + 2 * k + 1))) ([] : Tab W64)
  let p := (List.range w.preds).foldl (fun t k => Tab.put 0 t k (Config.freeWord n (2 ^ 21 + k))) ([] : Tab Mask)
  { a with regs := ⟨v, u, p⟩ }
/-- Read a group's operand log back from its context block (R367). -/
def State.restoreLog (s : State) (u : Nat) (w : Wg) (gi : Nat) : State :=
  let bad := (s.logOf u gi).zipIdx.filter fun (_, j) => !s.ownStands (s.pitchKey w.pitch) (w.logAt gi + 400 * j) 400 w.logNo
  { s with accs := bad.foldl (fun t (x, _) => t.set x.1 (x.2.altered w (s.stepNo + x.1))) s.accs }
/-- Save a workgroup and free its slots (R366). -/
def State.saveWg (s : State) (u : Nat) (w : Wg) : State :=
  let s := s.release w.core 2
  let gs := s.groupsOf u
  let s := gs.foldl (fun (s : State) (x : Nat × Group) => if x.2.stop && !x.2.ended then s.endGroup x.1 else s) s
  let gs := (s.groupsOf u).map fun x => (x.1, x.2.parked)
  let key := s.pitchKey w.pitch
  let s := gs.foldl (fun (s : State) (x : Nat × Group) => (s.writeBlock w x.2).saveLog u w x.2.gi) s
  let s := (List.range (w.scrSize * 256)).foldl (fun s o => s.setMemByte key (w.scrSaveAt + o) (s.scrByte w.core key (w.scrBase * 256 + o))) s
  let s := s.copyPoison (scrKey w.core (w.scrBase * 256)) w.scrSaveAt (w.scrSize * 256)
  let s := s.moveWatch (scrKey w.core (w.scrBase * 256)) (w.scrSize * 256) w.scrSaveAt
  let own := (s.core w.core).owner = some u
  let (s, kept) : State × Option SavedCtx :=
    if own then
      let (s, y) := s.saveCtx w (s.core w.core).ctx
      (s, some y)
    else (s, w.savedCtx)
  -- a claim that a follow-on in the queue made stands (R369)
  let s := { s with wgs := s.wgs.modify u fun w =>
    { w with phase := .saved, preempt := false, savedGroups := gs.map (·.2), savedCtx := kept, logNo := s.stepNo,
             claim := if own ∨ w.mqueue = [] then none else w.claim } }
  let s := gs.foldl (fun (s : State) (x : Nat × Group) => s.dropGroup x.1) s
  if own then s.handOver w.core else s
/-- Restore a workgroup on a core (R83, R369): what memory holds is what comes back. A redundant one takes the core and slot
of its partner with it (R333, R350). The restore acquires at .dev (R398, R408). -/
def State.restoreWg (s : State) (u core slot scr partner pslot : Nat) : State :=
  match s.wgs.get? u with
  | none => s
  | some w0 =>
    let key := s.pitchKey w0.pitch
    let s := ((if (s.groupsOn core).isEmpty then s else s.wake core wakeBind).arrive core).acquire core 2
    let w := { w0 with phase := .resident, core, slot, scrBase := scr, partner, pslot, since := s.time, savedGroups := [], preempt := false }
    let s := (List.range (w.scrSize * 256)).foldl (fun s o => s.setScrByte core key (scr * 256 + o) (s.memByte key (w.scrSaveAt + o))) s
    let s := s.copyPoison w.scrSaveAt (scrKey core (scr * 256)) (w.scrSize * 256)
    let s := s.moveWatch w.scrSaveAt (w.scrSize * 256) (scrKey core (scr * 256))
    let s := w0.savedGroups.foldl (fun s g => (s.restoreLog u w0 g.gi).setGroup (gid core (slot + g.gi)) (s.readBlock w0 g s.stepNo)) s
    let r : BindRec :=
      { wgid := w.wgid, slot, ngroups := w.ngroups, pitch := w.pitch, prio := w.prio, scrBase := scr, scrSize := w.scrSize,
        vregs := w.vregs, sregs := w.sregs, preds := w.preds, nbhid := w.nbhid, partner, pslot,
        role := w.role, launch := ((s.launches.get? w.launch).map (·.record)).getD 0, clean := true }
    let s := (r.words.zipIdx).foldl (fun s (v, k) => s.rawWrite (slotAt core slot k) 8 v.toNat) s
    let s := s.setWg u w
    let clearJ (x : RedRole) : RedRole := if x.wg = u then { x with journal := [] } else x
    let s := { s with pairs := s.pairs.mapV fun p => { p with lead := clearJ p.lead, sweep := clearJ p.sweep } }
    if w.savedCtx.isSome ∨ w.mqueue ≠ [] then
      (match (s.core core).owner with
      | none => s.claimEngine u w
      | some _ => s.setWg u { w with claim := some (w.claim.getD s.stepNo) })
    else s
/-- Fuse the clusters that cores cover, if every core of each is in the pitch and holds nothing but the workgroups named (R75,
R378). -/
def State.fuseOver (s : State) (pitch : Nat) (cores us : List Nat) : State :=
  let own (c : Nat) : Bool := (List.range 6).all fun j => s.coreServes pitch (c / 6 * 6 + j)
    && (s.groupsOn (c / 6 * 6 + j)).all fun x => us.contains x.2.wg
  if cores.all own then cores.foldl (fun (s : State) c => s.setFused (c / 6) true) s else s

/-! ### The placement pass (R361) -/

/-- What a placement attempt walks: a pre-empted neighbourhood with its mirror, a neighbourhood not yet bound, an
audit replay. -/
inductive PlaceItem where
  | restore (lead sweep : List Nat)
  | bind (launch nb : Nat)
  | audit (id orig : Nat)
  deriving DecidableEq, Repr
/-- Members of a workgroup's neighbourhood. -/
def State.nbhOf (s : State) (u : Nat) : List Nat :=
  match s.wgs.get? u with
  | some w => match s.nbhs.get? w.nbh with
    | some n => n.members
    | none => [u]
  | none => []
/-- The mirror of a neighbourhood. -/
def State.mirrorOf (s : State) (us : List Nat) : List Nat :=
  us.filterMap fun u => match s.pairOf u with
    | some (_, p, lead) => some (p.role (!lead)).wg
    | none => none
/-- Neighbourhoods of a pitch that wait to be restored: every member that has not ended is saved, and none is held
back (R369, R438). -/
def State.savedItems (s : State) (pitch : Nat) : List (Nat × PlaceItem) :=
  (s.wgs.filterMap fun (u, w) =>
    let ns := s.nbhOf u
    let ms := s.mirrorOf ns
    let idle (v : Nat) : Bool := match s.wgs.get? v with
      | some x => x.phase != .resident && !x.heldBack
      | none => true
    if w.pitch = pitch ∧ w.phase = .saved ∧ w.role ≠ 2 ∧ (ns.find? fun v => match s.wgs.get? v with
        | some x => x.phase == .saved
        | none => false) = some u ∧ (ns ++ ms).all idle then
      some (w.prio, .restore ns ms)
    else none)
/-- Pending neighbourhoods of a pitch, and pending audit replays (R361, R452). -/
def State.pendingItems (s : State) (pitch : Nat) : List (Nat × PlaceItem) :=
  let waits (l : Launch) (nb : Nat) : Bool := s.binds.any fun x =>
    let r := s.bindRec x.1 x.2
    r.launch == l.record && r.pitch == l.pitch && r.nbhid == nb && r.role != 3
  let bs := (s.launches.map fun (id, l) =>
    if l.pitch = pitch ∧ !l.stopped ∧ !l.done then
      (l.pending.filter fun nb => !waits l nb).map fun nb => (l.prio, PlaceItem.bind id nb)
    else []).flatten
  let lo := ((s.pitches.get? pitch).map (·.prioLo)).getD 0
  bs ++ s.replays.filterMap fun (id, o, r) => match s.wgs.get? o with
    | some w => if w.pitch = pitch ∧ r = 0 then some (lo, .audit id o) else none
    | none => none
/-- Order by falling priority, keeping the order of equals. -/
def byPrio (xs : List (Nat × PlaceItem)) : List (Nat × PlaceItem) :=
  xs.foldl (fun l x => l.takeWhile (fun y => decide (x.1 ≤ y.1)) ++ [x] ++ l.dropWhile fun y => decide (x.1 ≤ y.1)) []
/-- The bind record of a member. -/
def Launch.bindRec (l : Launch) (nb m slot scr partner pslot role : Nat) : BindRec :=
  { wgid := l.wgidOf nb m, slot, ngroups := l.desc.groups, pitch := l.pitch, prio := l.prio, scrBase := scr,
    scrSize := l.desc.scrUnits, vregs := l.desc.vregs, sregs := l.desc.sregs, preds := l.desc.preds, nbhid := nb, partner, pslot,
    role, launch := l.record, clean := true }
/-- Place one item if it fits (R359, R361, R452). -/
def State.placeItem (s : State) (pitch : Nat) (it : PlaceItem) : State :=
  match it with
  | .restore ns ms =>
    (match s.wgs.get? (ns.headD 0) with
    | none => s
    | some w =>
      let fuse := ((s.launches.get? w.launch).map (·.fuse)).getD false && w.role != 3
      let n : Need := { w.desc.need pitch fuse with w := if w.role = 3 then 1 else w.desc.w, h := if w.role = 3 then 1 else w.desc.h,
                                                     redundant := w.role = 1, vregs := w.vregs, scr := w.scrSize, ngroups := w.ngroups }
      match s.search n true with
      | none => s
      | some (xs, ys) =>
        let s := if fuse then s else (xs ++ ys).foldl (fun (s : State) x => s.setFused (x.1 / 6) false) s
        let go (s : State) (us : List Nat) (zs mates : List (Nat × Nat × Nat)) : State :=
          (us.zip zs).zipIdx.foldl (fun s ((u, c, k, b), m) => match s.wgs.get? u with
            | some x =>
              let (pc, pk) := match mates[m]? with
                | some (c2, k2, _) => (c2, k2)
                | none => (0x7F, 0)
              if x.phase = .saved then s.restoreWg u c k b pc pk else s
            | none => s) s
        let s := go (go s ns xs ys) ms ys xs
        if fuse then (s.fuseOver pitch (xs.map (·.1)) ns).fuseOver pitch (ys.map (·.1)) ms else s)
  | .bind id nb =>
    (match s.launches.get? id with
    | none => s
    | some l =>
      match s.search (l.desc.need pitch l.fuse) false with
      | none => s
      | some (xs, ys) =>
        let s := { s with launches := s.launches.set id { l with pending := l.pending.filter (· ≠ nb) } }
        let s := (xs.zipIdx).foldl (fun s ((c, k, b), m) =>
          match ys[m]? with
          | some (c2, k2, _) => s.writeBind c (l.bindRec nb m k b c2 k2 1)
          | none => s.writeBind c (l.bindRec nb m k b 0x7F 0 0)) s
        let s := (ys.zipIdx).foldl (fun s ((c, k, b), m) =>
          match xs[m]? with
          | some (c1, k1, _) => s.writeBind c (l.bindRec nb m k b c1 k1 2)
          | none => s) s
        s.syncRecord id)
  | .audit id o =>
    match s.wgs.get? o with
    | none => s
    | some w =>
      match s.launches.get? w.launch with
      | none => s
      | some l =>
        let n : Need := { l.desc.need pitch false with w := 1, h := 1, redundant := false }
        let other := 1 - w.core / 48
        let cores := (List.range 48).map (other * 48 + ·) ++ (List.range 48).map ((1 - other) * 48 + ·)
        match cores.findSome? fun c => if c = w.core then none else (s.coreFit n c).map fun f => (c, f) with
        | none => s
        | some (c, k, b) =>
          let prio := ((s.pitches.get? pitch).map (·.prioLo)).getD 0
          { s.writeBind c { l.bindRec w.nbhid w.member k b 0x7F 0 3 with prio, wgid := w.wgid } with
            replays := s.replays.set id (o, 2 ^ 64) }
/-- A placement attempt in a pitch (R361): what has just been pre-empted for another is left out of it, and so is all that may
not be bound before it, which `first` tells by priority (log entry 21). -/
def State.placeSome (s : State) (pitch : Nat) (skip : List Nat) (first : Nat → Bool) : State :=
  let runs := s.boot.pc == serviceLoop && (s.power == .run || s.power == .idle) && s.port.wait != .standby && (match s.pitches.get? pitch with
    | some p => (p.tdi == .opened || p.tdi == .run) && !p.removing
    | none => false)
  if !runs then s else
  let saved := (s.savedItems pitch).filter fun x => match x.2 with
    | .restore ns _ => !ns.any skip.contains
    | _ => true
  let items := byPrio ((saved ++ s.pendingItems pitch).filter fun x => first x.1)
  items.foldl (fun s x => s.placeItem pitch x.2) s
/-- A placement attempt in a pitch (R361). -/
def State.place (s : State) (pitch : Nat) : State := s.placeSome pitch [] fun _ => true

end Sys2Proof.Machine
end

