-- ==== Sys2Proof/Machine/Launching.lean ====
section
/-! DEFINITION. Launch requests, bind records, pre-emption, the release of slots, completion records and audits
(01 R20, R21, 06 R153, 16 R333, R343, R350, 17 R356–R369, 24 R451, R452). -/

namespace Sys2Proof.Machine
open Sys2Proof

/-! ### The recorded state of a role (R343) -/

/-- Record the matrix context that a workgroup has in its save block (R343). -/
def State.recordCtx (s : State) (u : Nat) (w : Wg) : State × Option SavedCtx :=
  if (s.core w.core).owner = some u ∧ w.phase = .resident then
    let (s, y) := s.saveCtx w (s.core w.core).ctx
    (s, some y)
  else match w.savedCtx with
    | some y =>
      let (s, y) := s.saveCtx w (s.openCtx w y)
      (s.setWg u { w with savedCtx := some y }, some y)
    | none => (s, none)
/-- The reservation of a workgroup in its pitch's save area. -/
def State.reservation (s : State) (w : Wg) : Option (Nat × Nat) :=
  (s.pitches.get? w.pitch).bind fun (p : Pitch) => p.reserved.find? fun (b, n) => decide (b ≤ w.saveAt) && decide (w.saveAt < b + n)
/-- Record a role's state: context blocks in the other of its two save blocks, checkpoint pointers, cleared journal
(R343, R368). -/
def State.recordRole (s : State) (u : Nat) (r : RedRole) : State × RedRole :=
  match s.wgs.get? u with
  | none => (s, r)
  | some w =>
    let base := ((s.reservation w).map (·.1)).getD w.saveAt
    let w := { w with saveAt := if w.saveAt = base then base + w.saveSize else base }
    let s := s.setWg u w
    let point (g : Group) : Group := { g with ckptPtr := BitVec.ofNat 64 (w.ctxAt g.gi) }
    let s := (s.groupsOf u).foldl (fun (s : State) (x : Nat × Group) => s.setGroup x.1 (point x.2)) s
    let gs := (s.groupsOf u).map fun (x : Nat × Group) => x.2.parked
    let s := gs.foldl (fun (s : State) (g : Group) => s.writeBlock w g) s
    let (s, ctx) := s.recordCtx u w
    (s, { r with saved := gs.filter fun g => !g.ended, savedCtx := ctx, savedCount := r.count, savedMade := r.made, journal := [], taken := [] })
/-- A role at the start of its workgroup. -/
def RedRole.start (u : Nat) : RedRole :=
  { wg := u, entries := [], made := [], count := [], taken := [], saved := [], savedCtx := none, savedCount := [], savedMade := [],
    journal := [] }
/-- Make a pair of two workgroups just bound; its start is its first checkpoint (R342). -/
def State.makePair (s : State) (lead sweep slack : Nat) : State :=
  let (s, a) := s.recordRole lead (.start lead)
  let (s, b) := s.recordRole sweep (.start sweep)
  let (k, s) := s.fresh
  s.setPair k { lead := a, sweep := b, slack, places := [], ckpt := false, mustRoll := none, rolled := false, committed := false,
                mismatch := 0, timeout := 0, rollbacks := 0, lastCause := 0, lastOfs := 0, lastPlane := 0, failed := false, dbg := [], due := [] }

/-! ### BIND_RECORD (R20, R21, R70, R333, R359, R360) -/

/-- Report a refusal in a core's slot-table status (R360). -/
def State.reportRefusal (s : State) (core slot reason : Nat) : State :=
  let x := s.core core
  let n := min 255 (field x.slotStatus 8 8 + 1)
  s.setCore core { x with slotStatus := BitVec.ofNat 64 (slot % 64 + reason * 2 ^ 6 + n * 2 ^ 8) }
/-- SLOT_STATUS_WRITE (R360): a write of any value clears COUNT. -/
def execSlotStatusWrite (core : Nat) (s : State) : Host.Outcome State Fault Refusal :=
  if 96 ≤ core then .fault .notEnabled
  else .next (s.clearRefusals core)
/-- Insert a neighbourhood among the pending ones, rising. -/
def insertNat (n : Nat) (l : List Nat) : List Nat :=
  if l.contains n then l else l.takeWhile (fun y => decide (y < n)) ++ [n] ++ l.dropWhile fun y => decide (y < n)
/-- Give back a workgroup that was accepted and has not started: slots, reservation, record (R21, R70). -/
def State.unbind (s : State) (u : Nat) : State :=
  match s.wgs.get? u with
  | none => s
  | some w =>
    let s := (s.reportRefusal w.core w.slot 3)
    let s := (s.groupsOf u).foldl (fun (s : State) (x : Nat × Group) => s.dropGroup x.1) s
    let free (p : Pitch) : Pitch := { p with reserved := p.reserved.filter fun (b, n) => !(decide (b ≤ w.saveAt) && decide (w.saveAt < b + n)) }
    { s with wgs := s.wgs.del u, pitches := s.pitches.modify w.pitch free, audits := s.audits.del u }
/-- Refuse a record with all that was to start with it (R70, R333, R359): VALID is cleared on every record of the
neighbourhood, and of its mirror. -/
def State.refuse (s : State) (core entry : Nat) (r : BindRec) (reason : Nat) : State :=
  let s := (s.clearValid core entry).reportRefusal core r.slot reason
  if r.role = 3 then
    { s with replays := s.replays.mapV fun x => match s.wgs.get? x.1 with
        | some w => if x.2 = 2 ^ 64 ∧ w.wgid = r.wgid ∧ w.pitch = r.pitch then (x.1, 0) else x
        | none => x }
  else
    let same (x : BindRec) : Bool := x.launch == r.launch && x.pitch == r.pitch && x.nbhid == r.nbhid && x.role != 3
    let others := s.binds.filter fun x => same (s.bindRec x.1 x.2)
    let s := others.foldl (fun (s : State) (x : Nat × Nat) => (s.clearValid x.1 x.2).reportRefusal x.1 (s.bindRec x.1 x.2).slot 3) s
    let s := { s with binds := s.binds.filter fun x => !others.contains x }
    match s.launches.findBy fun _ l => l.record == r.launch && l.pitch == r.pitch && !l.done with
    | none => s
    | some (id, l) =>
      let ns := s.nbhs.filter fun (x : Nat × Nbh) => x.2.launch == id && x.2.nbhid == r.nbhid && !x.2.started
      let s := ns.foldl (fun (s : State) (x : Nat × Nbh) => x.2.members.foldl (fun s u => s.unbind u) s) s
      let s := { s with nbhs := s.nbhs.filter fun (x : Nat × Nbh) => !ns.any fun y => y.1 == x.1,
                        launches := s.launches.set id { l with pending := insertNat r.nbhid l.pending } }
      -- the firmware searches again (R359)
      (s.syncRecord id).place l.pitch
/-- The reason to refuse a record, if any (R20, R21, R333, R453). Where several cases of R21 hold, the reason reported is that
of the first in this order: the core, the slots, the role, the budgets (log entry 103). -/
def State.bindReason (s : State) (core : Nat) (r : BindRec) : Option Nat :=
  if !s.coreServes r.pitch core then some 0
  else if (List.range r.ngroups).any fun j => s.slotHeld core (r.slot + j) then some 1
  else
    let roleOk := r.clean && (if r.role = 1 ∨ r.role = 2 then
        decide (r.partner < 96) && r.partner / 48 != core / 48 && (match s.pitches.get? r.pitch with
          | some p => p.cores.getLsbD r.partner
          | none => false)
      else r.partner == 0x7F && r.pslot == 0)
    let fits := decide (1 ≤ r.ngroups) && decide (r.ngroups ≤ 32) && decide (r.slot + r.ngroups ≤ 48)
      && decide (s.regsHeld core + r.ngroups * regsTaken r.vregs ≤ 4096) && decide (r.scrBase + r.scrSize ≤ 3072)
      && clearOf (s.scrHeld core) r.scrBase r.scrSize
    if !roleOk then some 3 else if !fits then some 2 else none
/-- A member's workgroup as its record describes it. -/
def Wg.make (l : Launch) (id nbh core m saveAt time : Nat) (r : BindRec) : Wg :=
  { launch := id, nbh, phase := .resident, core, slot := r.slot, ngroups := r.ngroups, scrBase := r.scrBase, scrSize := r.scrSize,
    vregs := r.vregs, sregs := r.sregs, preds := r.preds, pitch := r.pitch, pasid := l.pasid, prio := r.prio, wgid := r.wgid,
    nbhid := r.nbhid, member := m, role := r.role, partner := r.partner, pslot := r.pslot, desc := l.desc,
    codeBase := BitVec.ofNat 64 (field (l.word 1) 0 48 + l.desc.codeOfs), args := l.argsOf r.nbhid, trapPol := l.trapPol,
    since := time, saveAt, savedGroups := [], savedCtx := none, logNo := 0, claim := none, mqueue := [], foDrop := false, mesh := [],
    committed := none, meshOvf := false, selfcheck := false, failed := l.stopped, cause := 0, poisoned := false, trap := none,
    endTime := 0, preempt := false, heldBack := false, rastered := false }
/-- Start a neighbourhood whose members have all been accepted; a FUSE launch fuses the clusters it holds alone
(R70, R75, R378). -/
def State.startNbh (s : State) (k : Nat) (fuse : Bool) : State :=
  match s.nbhs.get? k with
  | none => s
  | some n =>
    let s := { s with nbhs := s.nbhs.set k { n with started := true, released := s.time },
                      groups := s.groups.map fun (x : Nat × Group) =>
                        if n.members.contains x.2.wg then (x.1, { x.2 with stamp := s.stepNo }) else x }
    if !fuse then s else
    let at_ := n.members.filterMap fun u => (s.wgs.get? u).map fun w => (w.core, w.pitch)
    s.fuseOver ((at_.head?.map (·.2)).getD 16) (at_.map (·.1)) n.members
/-- Whether the two records of a member agree (R333). -/
def pairAgrees (a b : Wg) : Bool :=
  a.partner == b.core && b.partner == a.core && a.pslot == b.slot && b.pslot == a.slot && a.wgid == b.wgid
    && a.ngroups == b.ngroups && a.prio == b.prio && a.vregs == b.vregs && a.sregs == b.sregs && a.preds == b.preds
    && a.scrSize == b.scrSize
/-- Start what a just accepted member completes: its neighbourhood, or both of a redundant pair (R70, R333). -/
def State.startIfWhole (s : State) (k core entry : Nat) (r : BindRec) : State :=
  match s.nbhs.get? k with
  | none => s
  | some n =>
    let fuse := ((s.launches.get? n.launch).map (·.fuse)).getD false
    if r.role = 3 then s.startNbh k false
    else if n.members.contains 0 then s
    else if r.role = 0 then s.startNbh k fuse
    else
      let other := s.nbhs.findBy fun j x => j != k && x.launch == n.launch && x.nbhid == n.nbhid && !x.started
      match other with
      | none => s
      | some (j, x) =>
        if x.members.contains 0 then s else
        let ok := (n.members.zip x.members).all fun (a, b) => match s.wgs.get? a, s.wgs.get? b with
          | some a, some b => pairAgrees a b
          | _, _ => false
        if !ok then s.refuse core entry r 3
        else
          let slack := ((s.launches.get? n.launch).map (·.slack)).getD 16
          let (leads, sweeps) := if r.role = 1 then (n.members, x.members) else (x.members, n.members)
          let s := (leads.zip sweeps).foldl (fun s (a, b) => s.makePair a b slack) s
          (s.startNbh k fuse).startNbh j fuse
/-- Accept a record: its groups take their slots and wait for their neighbourhood, and the bind acquires at .dev (R50, R70, R234, R368,
R398, R408). -/
def State.acceptBind (s : State) (core entry id : Nat) (l : Launch) (m : Nat) (r : BindRec) : State :=
  let nb := s.nbhs.findBy fun _ n => n.launch == id && n.nbhid == r.nbhid && !n.started && r.role != 3
    && n.members.all (fun u => match s.wgs.get? u with
      | some w => w.role == r.role
      | none => true)
  let count := l.desc.w * l.desc.h
  let (k, s) : Nat × State := match nb with
    | some (k, _) => (k, s)
    | none => let (k, s) := s.fresh
      (k, { s with nbhs := s.nbhs.set k ⟨id, r.nbhid, List.replicate count 0, false, 0, 0, 0⟩ })
  let (u, s) := s.fresh
  let w0 := Wg.make l id k core m 0 s.time r
  let need := if r.role = 1 ∨ r.role = 2 then 2 * w0.saveSize + 2 ^ 16 + 2 ^ 22 else w0.saveSize
  let at_ := (s.pitches.get? r.pitch).bind fun (p : Pitch) => lowestFit p.reserved p.saveBase (p.saveBase + p.saveLen) need
  match at_ with
  | none => s.refuse core entry r 2
  | some b =>
    let w := { w0 with saveAt := b }
    let s := if l.fuse then s else s.setFused (core / 6) false
    let s := s.arrive core
    let key := s.pitchKey r.pitch
    let s := { s with
      pitches := s.pitches.modify r.pitch fun p => { p with reserved := (b, need) :: p.reserved },
      wgs := s.wgs.set u w,
      nbhs := s.nbhs.modify k fun n => { n with members := n.members.set m u },
      launches := s.launches.modify id fun l => { l with pending := if r.role = 3 then l.pending else l.pending.filter (· ≠ r.nbhid) },
      audits := if l.desc.auditable ∧ r.role ≠ 2 then s.audits.set u ⟨0, []⟩ else s.audits,
      replays := if r.role = 3 then s.replays.mapV (fun x => match s.wgs.get? x.1 with
          | some o => if x.2 = 2 ^ 64 ∧ o.wgid = r.wgid ∧ o.launch = id then (x.1, u) else x
          | none => x) else s.replays }
    let s := (List.range (32 * l.desc.barriers)).foldl (fun s o => s.setScrByte core key (r.scrBase * 256 + o) 0) s
    let s := (List.range r.ngroups).foldl (fun s gi =>
      let g := { Group.start u w gi s.stepNo with stop := l.stopped }
      { s with groups := s.groups.set (gid core (r.slot + gi)) g,
               lastPage := s.lastPage.filter fun x => decide (x.1 / 32 ≠ gid core (r.slot + gi)) }) s
    ((s.acquire core 2).startIfWhole k core entry r).syncRecord id
/-- Store a launch's signal (R364); false while the host's answer is awaited. -/
def State.signalLaunch (s : State) (pasid : Nat) (ws : List W64) : State × Bool :=
  let a := field (ws.getD 6 0) 0 48
  if a = 0 then (s, true) else s.fwWrite pasid (BitVec.ofNat 64 a) (leBytes 8 (ws.getD 7 0).toNat)
/-- The record of a workgroup that never ran: DONE, FAILED, a cause, no core (R357, R363). -/
def neverBound (wgid : Nat) (cause : BitVec 8) (time : Nat) : List W64 :=
  [BitVec.ofNat 64 (3 + cause.toNat * 2 ^ 8), 0, BitVec.ofNat 64 (wgid + 0x7F * 2 ^ 32), BitVec.ofNat 64 time] ++ List.replicate 12 0
/-- Write a completion record, words 1 to 15 first and word 0 last (R362). -/
def State.writeRecord (s : State) (pasid : Nat) (va : W64) (ws : List W64) : State × Bool :=
  match s.fwWrite pasid (va + 8) (bytesOf (ws.drop 1)) with
  | (s, true) => s.fwWrite pasid va (leBytes 8 (ws.getD 0 0).toNat)
  | r => r
/-- The records and the signal of a refused launch (R357): completion record 0 alone, or those of a node's records; false while
the host's answer is awaited. -/
def State.refuseRecords (s : State) (l : Launch) (cause : BitVec 8) : State × Bool :=
  let nbs := if l.node.isSome then List.range (gridSize l.req) else [0]
  let (s, ok) := nbs.foldl (fun (x : State × Bool) nb =>
    if !x.2 then x else
    let wgid := match l.node with
      | some (_, _, f, _) => (f + nb) % 2 ^ 32
      | none => 0
    x.1.writeRecord l.pasid (l.complOf nb wgid) (neverBound wgid cause s.time)) (s, true)
  if !ok then (s, false) else s.signalLaunch l.pasid l.req
/-- Refuse a launch that a bind record names (R38, R357). -/
def State.refuseLaunch (s : State) (req : List W64) (pitch pasid : Nat) (cause : BitVec 8) : State × Bool :=
  s.refuseRecords (Launch.make req pitch pasid default 0 none) cause

/-- BIND_RECORD (R21, R70, R333, R359): dispatch checks a record whose VALID has been written. A launch whose descriptor breaks
R37 is refused with its completion record and its signal (R38, R357). -/
def execBindRecord (core entry : Nat) (s : State) : Host.Outcome State Fault Refusal :=
  if !s.binds.contains (core, entry) then .fault .notEnabled else
  let s0 := s
  let s := { s with binds := s.binds.filter (· ≠ (core, entry)) }
  let r := s.bindRec core entry
  match s.bindReason core r with
  | some reason => .next (s.refuse core entry r reason)
  | none =>
    match s.launchAt r.launch r.pitch with
    | (s, .none) => .next (s.refuse core entry r 2)
    | (s, .waits) => .next { s with binds := s0.binds }
    | (s, .bad pasid req) =>
      (match s.refuseLaunch req r.pitch pasid 0xA7 with
      | (s, true) => .next (s.refuse core entry r 2)
      | (s, false) => .next { s with binds := s0.binds })
    | (s, .some id) =>
      match s.launches.get? id with
      | none => .next (s.refuse core entry r 2)
      | some l =>
        let m := match l.node with
          | some _ => 0
          | none => r.wgid - r.nbhid * l.desc.w * l.desc.h
        if l.wgidOf r.nbhid m ≠ r.wgid ∨ l.desc.w * l.desc.h ≤ m ∨ gridSize l.req ≤ r.nbhid then .next (s.refuse core entry r 2)
        else .next (s.acceptBind core entry id l m r)

/-! ### LAUNCH_REQUEST (R357, R358, R361, R451) -/

/-- Whether some rectangle of an idle pitch could hold a neighbourhood (R357). -/
def State.shapeHolds (s : State) (n : Need) : Bool :=
  let has (d : Nat) : Bool := ((List.range 8).map fun c => (List.range 6).map fun w => (c, w)).flatten.any fun (c, w) =>
    decide (c + n.w ≤ 8) && decide (w + n.h ≤ 6) && (rectCores d c w n.w n.h).all fun k => (match s.pitches.get? n.pitch with
      | some p => p.cores.getLsbD k
      | none => false) && !(s.core k).dead
  let holds (d : Nat) : Bool := (List.range 48).any fun k => match s.pitches.get? n.pitch with
    | some p => p.cores.getLsbD (48 * d + k)
    | none => false
  decide (n.ngroups * regsTaken n.vregs ≤ 4096) && decide (n.scr ≤ 3072) && (has 0 || has 1)
    && (!n.redundant || (holds 0 && holds 1))
/-- Whether a request's own fields are in order (R356, R357). -/
def requestOk (ws : List W64) : Bool :=
  let w (k : Nat) : W64 := ws.getD k 0
  (List.range 7).all (fun k => if k = 4 then field (w 4) 25 39 == 0 else if k = 3 then field (w 3) 48 16 == 0
      else field (w k) 48 16 == 0)
    && field (w 0) 0 6 == 0 && decide (1 ≤ gridSize ws) && decide (gridSize ws ≤ 65536) && decide (field (w 4) 8 7 ≤ 64)
    && field (w 4) 15 2 != 3 && field (w 5) 0 7 == 0 && field (w 6) 0 3 == 0
/-- How the firmware finds a request: refused with a cause, its descriptor, or that the host's answer is awaited. -/
inductive Verdict where
  | refused (cause : BitVec 8)
  | accepted (d : KDesc)
  | waits
  deriving DecidableEq, Repr
/-- Judge a request (R357, R451). -/
def State.judge (s : State) (r : LaunchReq) : State × Verdict :=
  let w (k : Nat) : W64 := r.words.getD k 0
  if r.node.isNone ∧ !requestOk r.words then (s, .refused 0xA7) else
  match s.fwRead r.pasid (BitVec.ofNat 64 (field (w 0) 0 48)) 64 with
  | .wait s => (s, .waits)
  | .fail s => (s, .refused 0xA7)
  | .ok s ds =>
    match kdescOf (wordsOf ds) with
    | none => (s, .refused 0xA7)
    | some d =>
      let shape (s : State) : State × Verdict :=
        if s.shapeHolds (d.need r.pitch false) then (s, .accepted d) else (s, .refused 0x6B)
      if !d.auditable then shape s else
      let blocks : List Nat := match r.node with
        | some (_, _, f, c) => (List.range c).map fun j => recSlot (w 2) (f + j) + 8
        | none => [field (w 2) 0 48]
      let res : FwRes Bool := blocks.foldl (fun (x : FwRes Bool) a =>
        match x with
        | .ok s true =>
          (match s.fwRead r.pasid (BitVec.ofNat 64 a) 8 with
          | .ok s hs => .ok s (decide (1 ≤ leNat hs % 16) && decide (leNat hs % 16 ≤ 8))
          | .wait s => .wait s
          | .fail s => .ok s false)
        | x => x) (.ok s true)
      match res with
      | .wait s => (s, .waits)
      | .ok s true => shape s
      | .ok s false | .fail s => (s, .refused 0xA7)
/-- Give a packet that waits the firmware's verdict (R308). -/
def State.answer (s : State) (hw : Option Nat) (v : W64) : State :=
  match hw with
  | none => s
  | some k => { s with slots := s.slots.modify k fun q => if q.asked then { q with verdict := some v, waiting := false } else q }
/-- PRIO of a request clamped to its pitch's range (R80, R356). -/
def State.clampPrio (s : State) (pitch prio : Nat) : Nat :=
  match s.pitches.get? pitch with
  | some p => max p.prioLo (min p.prioHi prio)
  | none => prio
/-- A page for a launch record: a frame of its own, mapped for reading in the PASID at an address that names no page yet (R20,
R358; log entry 102). -/
def State.recordPage (s : State) (pitch pasid : Nat) : Nat × Nat × State :=
  let (f, s) := s.takeFrame
  let root := ((s.pasids.get? pasid).map (·.root)).getD 0
  let start := Config.recordPage s.nextId % 2 ^ 35
  let unused (k : Nat) : Bool := match s.walk root (BitVec.ofNat 64 ((start + k) % 2 ^ 35 * 4096)) with
    | .absent e => !e.flashPend
    | _ => false
  let va := (start + ((List.range 4096).find? unused).getD 0) % 2 ^ 35 * 4096
  (f, va, s.putLeaf pasid (BitVec.ofNat 64 va) (BitVec.ofNat 64 (f + 9 + s.pitchKey pitch * 2 ^ 48)))
/-- LAUNCH_REQUEST (R357, R358, R361): the oldest request is refused, or becomes a launch record and is placed. -/
def execLaunchRequest (s : State) : Host.Outcome State Fault Refusal :=
  match s.requests with
  | [] => .fault .notEnabled
  | r :: rest =>
    let taken (s : State) : State := { s with requests := rest }
    match s.judge r with
    | (s, .waits) => .next s
    | (s, .refused cause) =>
      let l := Launch.make r.words r.pitch r.pasid default 0 r.node
      let (s, ok) := s.refuseRecords l cause
      if !ok then .next s else
      let s := if r.node.isSome then
          let (id, s) := s.fresh
          { s with launches := s.launches.set id { l with done := true, pending := [] } }
        else s
      .next ((taken s).answer r.hw (BitVec.ofNat 64 (0x100 + cause.toNat)))
    | (s, .accepted d) =>
      let slack := field (r.words.getD 4 0) 8 7
      let w4 := (r.words.getD 4 0 &&& ~~~(0x7F7F#64)) ||| BitVec.ofNat 64 (s.clampPrio r.pitch (field (r.words.getD 4 0) 0 7)
        + (if slack = 0 then 16 else slack) * 2 ^ 8)
      let req := r.words.set 4 w4
      let (f, va, s) := s.recordPage r.pitch r.pasid
      let (id, s) := s.fresh
      let s := (bytesOf req ++ List.replicate 64 0).zipIdx.foldl (fun (s : State) (b, k) => s.setMemByte (s.pitchKey r.pitch) (f + k) b) s
      let s := { s with launches := s.launches.set id { Launch.make req r.pitch r.pasid d va r.node with frame := some f } }
      .next (((taken s).answer r.hw 0).place r.pitch)

/-! ### Pre-emption (R365, R366) -/

/-- What a placement item needs. -/
def State.itemNeed (s : State) (pitch : Nat) : PlaceItem → Option Need
  | .restore ns _ => (s.wgs.get? (ns.headD 0)).map fun w => w.desc.need pitch (((s.launches.get? w.launch).map (·.fuse)).getD false)
  | .bind id _ => (s.launches.get? id).map fun l => l.desc.need pitch l.fuse
  | .audit _ _ => none
/-- Whether a workgroup is taken as a victim before another (R365). -/
def victimBefore (a b : Nat × Wg) : Bool :=
  decide (a.2.prio < b.2.prio) || (a.2.prio == b.2.prio && (decide (a.2.since < b.2.since)
    || (a.2.since == b.2.since && decide (b.2.core < a.2.core))))
/-- Whether a workgroup has run its slice (R365). -/
def State.sliceOver (s : State) (w : Wg) : Bool :=
  let slice := ((s.launches.get? w.launch).map (·.slice)).getD 0
  decide (0 < slice) && decide (w.since + slice ≤ s.time)
/-- The workgroup to pre-empt so that a neighbourhood of a pitch that waits can be placed: of those that `gives`, for the
priority that waits, allows, the first of R365's order, while one is needed and all together would do. -/
def State.victimOf (s : State) (pitch : Nat) (gives : Nat → Wg → Bool) : Option Nat :=
  if s.wgs.any fun x => x.2.pitch == pitch && x.2.preempt then none else
  (byPrio (s.savedItems pitch ++ s.pendingItems pitch)).findSome? fun (p, it) =>
    match s.itemNeed pitch it with
    | none => none
    | some n =>
      let out := s.wgs.filter fun (x : Nat × Wg) => x.2.pitch == pitch && x.2.phase == .resident && gives p x.2
      let without : State := { s with
        groups := s.groups.filter fun (x : Nat × Group) => !out.any fun y => y.1 == x.2.wg,
        wgs := s.wgs.map fun (x : Nat × Wg) => if out.any (fun y => y.1 == x.1) then (x.1, { x.2 with phase := .saved }) else x }
      if (s.search n true).isSome ∨ (without.search n true).isNone then none
      else out.foldl (fun (m : Option (Nat × Wg)) x => match m with
        | none => some x
        | some y => if victimBefore x y then some x else some y) none |>.map (·.1)
/-- The victim for a neighbourhood of higher priority (R365). -/
def State.victim (s : State) (pitch : Nat) : Option Nat := s.victimOf pitch fun p w => decide (w.prio < p)
/-- The victim, its slice over, for a neighbourhood of equal priority (R365). -/
def State.sliceVictim (s : State) (pitch : Nat) : Option Nat := s.victimOf pitch fun p w => w.prio == p && s.sliceOver w
/-- PREEMPT_WORKGROUP (R365–R368): a victim is asked to stop; one whose groups all stand at a boundary is saved, and
placement is attempted (R361). -/
def execPreemptWorkgroup (wg : Nat) (s : State) : Host.Outcome State Fault Refusal :=
  match s.wgs.get? wg with
  | none => .fault .notEnabled
  | some w =>
    if w.preempt then
      if s.canSave wg w then
        let before (p : Nat) : Bool := decide (w.prio < p) || (p == w.prio && s.sliceOver w)
        .next (((s.saveWg wg w).placeSome w.pitch (s.preemptSet wg) before).place w.pitch)
      else .fault .notEnabled
    else if w.phase = .resident ∧ s.victim w.pitch = some wg then .next (s.askPreempt wg)
    else .fault .notEnabled
/-- WGSLICE_EXPIRY (R365): a workgroup has run its slice while one of equal priority waits for its room. -/
def execWgsliceExpiry (wg : Nat) (s : State) : Host.Outcome State Fault Refusal :=
  match s.wgs.get? wg with
  | none => .fault .notEnabled
  | some w =>
    if w.phase = .resident ∧ !w.preempt ∧ s.sliceVictim w.pitch = some wg then .next (s.askPreempt wg)
    else .fault .notEnabled

/-! ### The end of a group and of a workgroup (R153, R345, R361, R368) -/

/-- Whether nothing that a group issued is left to be performed (R153), its matrix commands among it: the cause of a drain
whose group has ended finds it still there (R262). -/
def State.groupIdle (s : State) (u gi : Nat) : Bool :=
  s.accs.all (fun x => x.2.wg != u || x.2.gi != gi) && s.copies.all (fun x => x.2.wg != u || x.2.gi != gi)
    && (match s.wgs.get? u with
      | some w => w.mqueue.all (fun m => m.gi != gi || (m.word matches .qfence _))
      | none => true)
/-- Whether a redundant pair is at its end: every group of both roles has ended and nothing is unmatched (R345). -/
def State.pairEnded (s : State) (p : Pair) : Bool :=
  let idle (r : RedRole) : Bool :=
    r.entries.isEmpty && (s.groupsOf r.wg).all (fun x => x.2.ended) && s.accs.all (fun x => x.2.wg != r.wg)
      && s.copies.all (fun x => !x.2.inWg r.wg) && (match s.wgs.get? r.wg with
        | some w => w.mqueue.isEmpty
        | none => true)
  idle p.lead && idle p.sweep && p.due.all fun d => (p.dueAt d.gi).isNone
/-- A workgroup ends: its engine passes on, its reservation goes, placement is attempted (R242, R361, R368, R369). -/
def State.endWg (s : State) (u : Nat) : State :=
  match s.wgs.get? u with
  | none => s
  | some w =>
    let free (p : Pitch) : Pitch := { p with reserved := p.reserved.filter fun (b, n) => !(decide (b ≤ w.saveAt) && decide (w.saveAt < b + n)) }
    let s := { s with wgs := s.wgs.set u { w with phase := .ended, endTime := s.time, claim := none, preempt := false },
                      pitches := s.pitches.modify w.pitch free, monitors := s.monitors.filter fun x => x.2.wg != u }
    let s := if (s.core w.core).owner = some u then s.handOver w.core else s
    s.place w.pitch
/-- GROUP_SLOT_RELEASE (R153): the slot of an ended group frees once everything it issued has been performed. -/
def execGroupSlotRelease (core slot : Nat) (s : State) : Host.Outcome State Fault Refusal :=
  let k := gid core slot
  match s.groups.get? k with
  | none => .fault .notEnabled
  | some g =>
    let last := (s.groupsOf g.wg).length == 1
    -- a group that a rollback may bring back keeps its slot until the next checkpoint or the end (R345)
    let ready := g.ended && s.groupIdle g.wg g.gi && (match s.pairOf g.wg with
        | some (_, p, lead) => s.pairEnded p || (!last && !(p.role lead).saved.any fun x => x.gi == g.gi)
        | none => true)
      && !(last && (match s.wgs.get? g.wg with
        | some w => !w.mqueue.isEmpty
        | none => false))
    if !ready then .fault .notEnabled
    else
      let s := { s with wgs := s.wgs.modify g.wg fun w => { w with poisoned := w.poisoned || g.chk.poison } }
      let s := s.dropGroup k
      .next (if last then s.endWg g.wg else s)

/-! ### Completion (R362–R364, R451, R452, R463, R464) -/

/-- The redundancy summary (R351). -/
def Pair.summary (p : Pair) : W64 :=
  BitVec.ofNat 64 (min 255 p.mismatch + min 255 p.timeout * 2 ^ 8 + min 255 p.rollbacks * 2 ^ 16 + p.lastCause.toNat * 2 ^ 24
    + p.lastOfs.toNat * 2 ^ 32 + p.lastPlane % 8 * 2 ^ 56 + p.failed.toNat * 2 ^ 59)
/-- The completion record of a workgroup (R362), its AUDIT bit as given. -/
def State.record (s : State) (u : Nat) (w : Wg) (audit : Bool) : List W64 :=
  let pair := s.pairOf u
  let mate := match pair with
    | some (_, p, lead) => s.wgs.get? (p.role (!lead)).wg
    | none => none
  let either (f : Wg → Bool) : Bool := f w || (match mate with
    | some x => f x
    | none => false)
  let cause := if w.cause ≠ 0 then w.cause else (mate.map (·.cause)).getD 0
  let trap := match w.trap, mate.bind (·.trap) with
    | some t, _ => t.words
    | none, some t => t.words
    | none, none => []
  [BitVec.ofNat 64 (1 + (either (·.failed)).toNat * 2 + (either (·.poisoned)).toNat * 4 + w.meshOvf.toNat * 8 + audit.toNat * 16
      + (either (·.selfcheck)).toNat * 32 + cause.toNat * 2 ^ 8),
   match pair with
    | some (_, p, _) => p.summary
    | none => 0,
   BitVec.ofNat 64 (w.wgid % 2 ^ 32 + w.core * 2 ^ 32), BitVec.ofNat 64 w.endTime, 0, 0, 0, 0]
  ++ (List.range 8).map fun i => trap.getD i 0
/-- Whether record r of a graph's node is over: its workgroup's record has been written (R464). -/
def State.recOver (s : State) (graph node r : Nat) : Bool :=
  s.launches.any fun (id, l) => match l.node with
    | some (g, n, f, c) => g == graph && n == node && decide (f ≤ r) && decide (r < f + c) && (l.done
        || s.wgs.any fun x => x.2.launch == id && x.2.nbhid == r - f && x.2.role != 3 && x.2.phase == .recorded)
    | none => false
/-- Advance CONSUMED over the records that are over, and write it (R464). -/
def State.advanceConsumed (s : State) (graph node : Nat) : State :=
  match s.graphs.get? graph with
  | none => s
  | some g =>
    let old := g.consumed.getD node 0
    let top := g.dispatched.getD node 0
    let new := (List.range (top - old)).foldl (fun n j => if n = old + j ∧ s.recOver graph node (old + j) then n + 1 else n) old
    if new = old then s else
    let s := { s with graphs := s.graphs.set graph { g with consumed := g.consumed.set node new } }
    let pasid := s.launches.findSome? fun (_, l) => match l.node with
      | some (a, b, _, _) => if a = graph ∧ b = node then some l.pasid else none
      | none => none
    let buf := field ((g.nodes.getD node []).getD 2 0) 0 48
    match pasid with
    | some q => (s.fwWrite q (BitVec.ofNat 64 (buf + 0x40)) (leBytes 8 new)).1
    | none => s
/-- Write the records of the neighbourhoods that a stopped launch never bound (R363). -/
def State.recordNeverBound (s : State) (id : Nat) : State × Bool :=
  match s.launches.get? id with
  | none => (s, true)
  | some l =>
    if !l.stopped then (s, true) else
    let n := l.desc.w * l.desc.h
    let all := (l.pending.map fun nb => (List.range n).map fun m => (nb, l.wgidOf nb m)).flatten
    let (s, ok) := all.foldl (fun (x : State × Bool) (nb, wgid) =>
      if !x.2 then x else x.1.writeRecord l.pasid (l.complOf nb wgid) (neverBound wgid 0 s.time)) (s, true)
    if !ok then (s, false)
    else ({ s with launches := s.launches.modify id fun l =>
      { l with pending := [], recorded := l.recorded + all.length, never := l.never + l.pending.length } }, true)
/-- End a launch whose records and audits are all done (R364); false while the host's answer is awaited. -/
def State.finishLaunch (s : State) (id : Nat) : State × Bool :=
  match s.launches.get? id with
  | none => (s, true)
  | some l =>
    if l.done ∨ l.recorded < l.total ∨ l.audits ≠ 0 then (s, true) else
    match s.signalLaunch l.pasid l.req with
    | (s, true) => ({ s with launches := s.launches.set id { l with done := true } }, true)
    | r => r
/-- Whether a workgroup's record may be written: both roles of a pair have ended, and a mesh output has been
rasterised (R362, R468). -/
def State.recordReady (s : State) (u : Nat) (w : Wg) : Bool :=
  w.phase == .ended && w.role != 3 && w.role != 2 && (match s.pairOf u with
    | some (_, p, _) => (match s.wgs.get? p.sweep.wg with
      | some x => x.phase == .ended
      | none => true)
    | none => true)
    && (w.committed.isNone || w.rastered || ((s.launches.get? w.launch).bind fun (l : Launch) => l.node).isNone)
/-- COMPLETION_RECORD (R362, R452): the record of an ended workgroup is written, the auditor draws, and what ends with it
ends. -/
def execCompletionRecord (wg : Nat) (s : State) : Host.Outcome State Fault Refusal :=
  match s.wgs.get? wg with
  | none => .fault .notEnabled
  | some w =>
    match s.launches.get? w.launch with
    | none => .fault .notEnabled
    | some l =>
      if !s.recordReady wg w then .fault .notEnabled else
      let s0 := s.release w.core 3
      match s0.writeRecord w.pasid (l.complOf w.nbhid w.wgid) (s0.record wg w false) with
      | (s, false) => .next s
      | (s, true) =>
        let failed := ((s.record wg w false).getD 0 0).getLsbD 1
        -- one draw for each workgroup of an auditable launch that has not failed (R452)
        let draws := l.desc.auditable && !failed
        let bits := (Config.drbg s.drbgNo).toNat + 256 * (Config.drbg (s.drbgNo + 1)).toNat
        let chosen := draws && bits % 2 ^ l.desc.auditk == 0
        let s := if draws then { s with drbgNo := s.drbgNo + 2 } else s
        let (id, s) := s.fresh
        let mates := match s.pairOf wg with
          | some (k, p, _) => (some k, [p.lead.wg, p.sweep.wg])
          | none => (none, [wg])
        let s := { s with
          wgs := s.wgs.map fun (x : Nat × Wg) => if mates.2.contains x.1 then (x.1, { x.2 with phase := .recorded }) else x,
          pairs := (match mates.1 with
            | some k => s.pairs.del k
            | none => s.pairs),
          replays := if chosen then s.replays.set id (wg, 0) else s.replays }
        let nbhOver := (s.nbhOf wg).all fun u => match s.wgs.get? u with
          | some x => x.phase == .recorded
          | none => true
        let s := { s with launches := s.launches.modify w.launch fun l =>
          { l with recorded := l.recorded + 1, audits := l.audits + chosen.toNat, ended := l.ended + nbhOver.toNat } }
        -- while the host's answer is awaited, only the request for it stands
        let asked (x : State) : State := { s0 with atsReqs := x.atsReqs, nextId := x.nextId }
        -- a stop of a node stops every launch of it (R460)
        let ids := w.launch :: (s.launches.filterMap fun (id, x) =>
          if id ≠ w.launch ∧ x.stopped ∧ !x.done ∧ x.node.isSome ∧ x.node.map (fun a => (a.1, a.2.1)) = l.node.map (fun a => (a.1, a.2.1))
          then some id else none)
        let (s, ok) := ids.foldl (fun (x : State × Bool) id =>
          if !x.2 then x else
          match x.1.recordNeverBound id with
          | (s, true) => (s.syncRecord id).finishLaunch id
          | r => r) (s, true)
        if !ok then .next (asked s) else
        let s := match l.node with
          | some (g, n, _, _) => s.advanceConsumed g n
          | none => s
        .next (if chosen then s.place w.pitch else s)
/-- AUDIT_VERDICT (R452): at a replay's end the two signatures are compared. -/
def execAuditVerdict (audit : Nat) (s : State) : Host.Outcome State Fault Refusal :=
  match s.replays.get? audit with
  | none => .fault .notEnabled
  | some (o, r) =>
    match s.wgs.get? o, s.wgs.get? r with
    | some wo, some wr =>
      match s.launches.get? wo.launch with
      | none => .fault .notEnabled
      | some l =>
        if wr.phase ≠ .ended then .fault .notEnabled else
        let sig (u : Nat) : W64 := ((s.audits.get? u).map (·.sig)).getD 0
        let differs := sig o != sig r && !wr.failed && !wr.poisoned
        let va := l.complOf wo.nbhid wo.wgid
        -- the word as it was written, its AUDIT bit set
        let word0 (s : State) : W64 := match s.fwRead wo.pasid va 8 with
          | .ok _ bs => BitVec.ofNat 64 (leNat bs) ||| 16
          | _ => (s.record o wo true).getD 0 0
        let (s1, ok) := if differs then s.fwWrite wo.pasid va (leBytes 8 (word0 s).toNat) else (s, true)
        if !ok then .next s1 else
        let s1 := if differs then
            (s1.charge (s1.coreOwner wo.core) 0x87 wo.core 0x7F fun e => { e with audit := sat16 (e.audit + 1) }).quarantine wo.core 0x88
          else s1
        let s1 := { s1 with replays := s1.replays.del audit, wgs := s1.wgs.set r { wr with phase := .recorded },
                            launches := s1.launches.modify wo.launch fun l => { l with audits := l.audits - 1 } }
        match s1.finishLaunch wo.launch with
        | (s2, true) => .next s2
        | (s2, false) => .next { s with atsReqs := s2.atsReqs, nextId := s2.nextId }
    | _, _ => .fault .notEnabled

end Sys2Proof.Machine
end

