-- ==== Sys2Proof/Machine/Redundant.lean ====
section
/-! DEFINITION. Redundant pairs: matching of compare-buffer entries, rollback, checkpoints, CKPT (06 R168, 15 R330, R331,
16 R339–R349). -/

namespace Sys2Proof.Machine
open Sys2Proof

/-! ### Performing a matched entry (R330, R336, R347) -/

/-- Scope at which an access's word releases, if it does (R211, R398). -/
def Access.relScope (a : Access) : Option Nat :=
  match a.word with
  | .st x | .stu x | .upd x | .updr x | .ucas x => if x.order = 2 ∨ x.order = 3 then some x.scope else none
  | _ => none
/-- Perform a matched memory word of the lead (R330): an update word goes out to its units, a store is performed or
waits for its page. -/
def State.performAccess (s : State) (owner : Nat) (a : Access) : State :=
  match s.wgs.get? a.wg with
  | none => s
  | some w =>
    let s := match a.relScope with
      | some sc => s.release w.core sc
      | none => s
    if a.isUpdate then { s with accs := s.accs.set owner a }
    else match s.attempt owner a w with
      | .done s' => s'
      | _ => { s with accs := s.accs.set owner a }
/-- Deliver a matched trap to a role's group, if it still waits there (R161, R347). -/
def State.matchedTrap (s : State) (u gi : Nat) (t : TrapReq) : State :=
  match s.groupOf u gi with
  | some (k, g) => if g.wait = .trapMatch ∧ g.ofs = t.ofs then (s.setGroup k { g with wait := .none }).takeTrap k t else s
  | none => s
/-- Write the bytes of a matched drain piece (R336). -/
def State.performDrain (s : State) (w : Wg) (bs : List (W64 × Byte)) : State :=
  match s.engPlaces w 1 (bs.map (·.1)) with
  | .ok places =>
    let s := s.engLand w.core (places.zip (bs.map (·.2))) true
    s.clearPoison (places.map Place.num)
  | .error _ => s
/-- Whether an entry is a commit point: kinds 2 to 5 (R342). -/
def Entry.commits (e : Entry) : Bool := decide (2 ≤ e.kind) && decide (e.kind ≤ 5)
/-- The same entry of the other role (R339). -/
def RedRole.twin (r : RedRole) (e : Entry) : Option Entry := r.entries.find? fun f => f.stream == e.stream && f.seq == e.seq
/-- Take an entry out of a role. -/
def RedRole.take (r : RedRole) (e : Entry) : RedRole :=
  { r with entries := r.entries.filter fun f => !(f.stream == e.stream && f.seq == e.seq) }
/-- Perform a match (R330, R342, R347): `e` is the lead's entry, `f` the sweep's. -/
def State.performMatch (s : State) (k : Nat) (p : Pair) (e f : Entry) : State :=
  let commit := e.commits
  let s := s.setPair k { p with lead := p.lead.take e, sweep := p.sweep.take e, ckpt := p.ckpt || commit,
                                committed := p.committed || commit }
  match e.act, f.act with
  | .access a owner, .access _ owner2 =>
    s.performAccess owner { a with mirror := if a.isUpdate then some (p.sweep.wg, owner2) else none }
  | .copy c, .copy c2 =>
    let (id, s) := s.fresh
    { s with copies := s.copies.set id { c with mirror := some (p.sweep.wg, c2.owner, c2.follow) } }
  | .drain bs, _ => (match s.wgs.get? p.lead.wg with
    | some w => s.performDrain w bs
    | none => s)
  | .units n a, .units n2 _ => (match s.wgs.get? p.lead.wg with
    | some w =>
      let (s, bad) := s.applyDrain w.core a.units
      let first := if bad then (a.units.head?.map (·.addr)) else none
      (s.consume a.wg a.gi n first).consume p.sweep.wg a.gi n2 first
    | none => s)
  | .trap t, .trap t2 => (s.matchedTrap p.lead.wg e.stream t).matchedTrap p.sweep.wg e.stream t2
  | _, _ => s

/-! ### Rollback (R345, R346) -/

/-- Whether a rollback discards an access: a read, or one of the role's own scratchpad alone, which the role makes again; what
has matched stays (R331, R345). -/
def Access.discarded (a : Access) (w : Wg) : Bool := (a.prog w).isSome || a.place.isSome || allLocal a.els || (match a.word with
  | .pnop | .mona _ => true
  | _ => false)
/-- Drop the accesses of a role that a rollback discards. -/
def State.dropReads (s : State) (u : Nat) : State :=
  match s.wgs.get? u with
  | some w => { s with accs := s.accs.filter fun x => !(x.2.wg == u && x.2.discarded w) }
  | none => s
/-- Restore a role to its recorded state (R345). -/
def State.restoreRole (s : State) (r : RedRole) : State × RedRole :=
  match s.wgs.get? r.wg with
  | none => (s, r)
  | some w =>
    let s := { s with groups := s.groups.filter fun x => x.2.wg != r.wg }
    let halt := ((s.launches.get? w.launch).map (·.stopped)).getD false || ((s.pitches.get? w.pitch).map (·.removing)).getD false
    let s := r.saved.foldl (fun (s : State) (g : Group) =>
      s.setGroup (w.gid g.gi) { g with stamp := s.stepNo, stop := g.stop || halt }) s
    let key := s.pitchKey w.pitch
    let s := r.journal.foldl (fun (s : State) (x : Nat × List Byte) =>
      (x.2.zipIdx).foldl (fun s (b, j) => s.setScrByte w.core key (x.1 + j) b) s) s
    let s := s.setWg r.wg { w with mqueue := [], foDrop := false, poisoned := false, claim := r.savedCtx.bind fun _ => w.claim }
    let owns := (s.core w.core).owner = some r.wg
    let s := match r.savedCtx with
      | some y => if owns then s.setCore w.core { s.core w.core with ctx := s.openCtx w y }
        else { s with wgs := s.wgs.modify r.wg fun w => { w with savedCtx := some y } }
      -- it had no context at the checkpoint: the engine goes to who waits for it (R242, R369)
      | none => if owns then s.handOver w.core else s
    (s, { r with entries := [], made := r.savedMade, count := r.savedCount, taken := [], journal := [] })
/-- End both roles (R346): no unmatched entry is performed, both cores are quarantined. -/
def State.retryFail (s : State) (k : Nat) (p : Pair) : State :=
  let stop (s : State) (u : Nat) : State :=
    let s := (s.groupsOf u).foldl (fun (s : State) (x : Nat × Group) => s.endGroup x.1) s
    { s with wgs := s.wgs.modify u fun w =>
        { w with failed := true, cause := 0x82, mqueue := w.mqueue.filter (·.running) } }
  let s := stop (stop s p.lead.wg) p.sweep.wg
  let c1 := ((s.wgs.get? p.lead.wg).map (·.core)).getD 0
  let c2 := ((s.wgs.get? p.sweep.wg).map (·.core)).getD 0
  let s := s.setPair k { p with lead := { p.lead with entries := [] }, sweep := { p.sweep with entries := [] }, failed := true,
                                ckpt := false, mustRoll := none }
  let s := s.charge (s.coreOwner c1) 0x82 c1 c2 fun e => { e with red := sat16 (e.red + 1) }
  (s.quarantine c1 0x88).quarantine c2 0x88
/-- Handle a mismatch or timeout (R345). A retry past a commit point is never made: such a pair fails (log entry 22). -/
def State.rollback (s : State) (k : Nat) (p : Pair) (cause : BitVec 8) (ofs : BitVec 24) (plane : Nat) : State :=
  let late := cause == 0x83
  let p := { p with mismatch := if late then p.mismatch else min 255 (p.mismatch + 1),
                    timeout := if late then min 255 (p.timeout + 1) else p.timeout,
                    lastCause := cause, lastOfs := ofs, lastPlane := plane, mustRoll := none }
  let c1 := ((s.wgs.get? p.lead.wg).map (·.core)).getD 0
  let c2 := ((s.wgs.get? p.sweep.wg).map (·.core)).getD 0
  let s := s.charge (s.coreOwner c1) cause c1 c2 fun e => { e with red := sat16 (e.red + 1) }
  let s := (s.dropReads p.lead.wg).dropReads p.sweep.wg
  if p.rolled ∨ p.committed then s.retryFail k p
  else
    -- of the copies, those of the roles' own scratchpads are made again; one that has matched has committed (R342)
    let s := { s with copies := s.copies.filter fun x => !(x.2.inWg p.lead.wg || x.2.inWg p.sweep.wg) }
    let (s, a) := s.restoreRole p.lead
    let (s, b) := s.restoreRole p.sweep
    s.setPair k { p with lead := a, sweep := b, due := [], places := p.places.filter (fun x => x.2.filled), rolled := true,
                         -- a checkpoint that a word asked for is asked for again by the retry
                         ckpt := p.ckpt && (!p.dbg.isEmpty || [p.lead.wg, p.sweep.wg].any fun u => ((s.wgs.get? u).map (·.preempt)).getD false),
                         rollbacks := min 255 (p.rollbacks + 1) }

/-! ### COMPARE_ENTRY and RED_SLACK_TIMEOUT (R330, R331, R341) -/

/-- Whether the sweep has issued every word the lead has (R338). -/
def Pair.level (p : Pair) : Bool :=
  ((p.lead.count ++ p.sweep.count).map (·.1)).all fun gi => p.lead.count.getD gi 0 == p.sweep.count.getD gi 0
/-- Whether a commit entry may be performed: everything else of the pair has matched or is sure to (R342, log
entry 22). -/
def Pair.settled (p : Pair) : Bool :=
  p.level && p.lead.entries.all fun e => match p.sweep.twin e with
    | some f => e.sig == f.sig
    | none => false
/-- Whether a matched entry's own conditions hold: a trap waits for the operand logs (R181), a drain for its pages. -/
def State.entryReady (s : State) (p : Pair) (e : Entry) : Bool :=
  match e.act with
  | .trap _ => !s.mayDefer p.lead.wg e.stream && !s.mayDefer p.sweep.wg e.stream
  | _ => true
/-- A drain piece whose pages no longer translate asks for them again (R172). -/
def State.drainWaits (s : State) (p : Pair) (e : Entry) : Option State :=
  match e.act, s.wgs.get? p.lead.wg with
  | .drain bs, some w => (match s.engPlaces w 1 (bs.map (·.1)) with
    | .error (va, .page c) => some (s.logFault ⟨w.pasid, va, 1, c, .none⟩)
    | .error (va, .ats) => some (s.askAts w.pasid 1 va .none)
    | _ => none)
  | _, _ => none
/-- The entry of a precise cause that one role alone has raised (R347): the other role has issued the word without
one. -/
def loneTrap (a b : RedRole) : Option Entry :=
  a.entries.find? fun e => e.kind == 8 && (b.twin e).isNone && decide (a.count.getD e.stream 0 ≤ b.count.getD e.stream 0)
/-- COMPARE_ENTRY (R330, R331, R345, R347): a noted load mismatch or a lone trap rolls the pair back; else the first entry that both roles
have made is compared, and performed or rolled back. -/
def execCompareEntry (pair : Nat) (s : State) : Host.Outcome State Fault Refusal :=
  match s.pairs.get? pair with
  | none => .fault .notEnabled
  | some p =>
    match p.mustRoll with
    | some (cause, ofs, plane) => .next (s.rollback pair p cause ofs plane)
    | none =>
      let both := p.lead.entries.filterMap fun e => (p.sweep.twin e).map fun f => (e, f)
      let first := both.find? fun (e, f) => e.sig != f.sig || (s.entryReady p e && (!e.commits || p.settled))
      match first with
      | none => (match (loneTrap p.lead p.sweep).or (loneTrap p.sweep p.lead) with
        | some e => .next (s.rollback pair p 0x80 e.ofs e.plane)
        | none => .fault .notEnabled)
      | some (e, f) =>
        if e.sig ≠ f.sig then .next (s.rollback pair p 0x80 e.ofs e.plane)
        else match s.drainWaits p e with
          | some s' => .next s'
          | none => .next (s.performMatch pair p e f)
/-- RED_SLACK_TIMEOUT (R341): an entry has had no counterpart for 100 µs. -/
def execRedSlackTimeout (pair : Nat) (s : State) : Host.Outcome State Fault Refusal :=
  match s.pairs.get? pair with
  | none => .fault .notEnabled
  | some p =>
    let old (r x : RedRole) : Option Entry := r.entries.find? fun e => (x.twin e).isNone && decide (e.time + 100000 ≤ s.time)
    match (old p.lead p.sweep).or (old p.sweep p.lead) with
    | some e => .next (s.rollback pair p 0x83 e.ofs e.plane)
    | none => .fault .notEnabled

/-! ### CHECKPOINT and CKPT (R168, R343) -/

/-- Whether a role has come to rest for a checkpoint (R343). -/
def State.atRest (s : State) (r : RedRole) : Bool :=
  r.entries.isEmpty && (s.groupsOf r.wg).all (fun x => x.2.atBoundary) && s.accs.all (fun x => x.2.wg != r.wg)
    && s.copies.all (fun x => !x.2.inWg r.wg) && (match s.wgs.get? r.wg with
      | some w => w.mqueue.isEmpty && w.phase == .resident
      | none => false)
/-- Apply the debug requests that waited for a checkpoint to both roles' groups (R486). -/
def State.debugPair (s : State) (p : Pair) : State :=
  p.dbg.foldl (fun s (gi, what) => [p.lead.wg, p.sweep.wg].foldl (fun s u => match s.groupOf u gi with
    | some (k, g) => s.setGroup k (if what = 0 then { g with halted := true, stepReq := false } else { g with halted := false, stepReq := true })
    | none => s) s) s
/-- CHECKPOINT (R343): both roles are at rest at one point, and their state is recorded. -/
def execCheckpoint (pair : Nat) (s : State) : Host.Outcome State Fault Refusal :=
  match s.pairs.get? pair with
  | none => .fault .notEnabled
  | some p =>
    if !p.ckpt ∨ !p.due.isEmpty ∨ p.mustRoll.isSome ∨ !s.atRest p.lead ∨ !s.atRest p.sweep ∨ !p.level then .fault .notEnabled
    else
      let (s, a) := s.recordRole p.lead.wg p.lead
      let (s, b) := s.recordRole p.sweep.wg p.sweep
      let s := s.setPair pair { p with lead := a, sweep := b, places := [], ckpt := false, rolled := false, committed := false, dbg := [] }
      .next (s.debugPair p)
/-- CKPT (R168, R323, R343): one issue in a launch that is not redundant; in a pair the lead waits for its earlier
stores and updates and asks for a checkpoint. -/
def execCkpt (w : RRR) (s : State) : Host.Outcome State Fault Refusal :=
  issue (.ckpt w) s fun s c =>
    if s.hasLog c.g.wg c.g.gi then .hold else
    match s.pairOf c.g.wg with
    | none => .next s
    | some (k, p, lead) =>
      let busy := (p.role lead).entries.any (fun e => e.stream == c.g.gi) || (s.accsOf c.g.wg c.g.gi).any fun x =>
        x.2.isUpdate || x.2.kind == 1
      if lead then (if busy then .hold else .next (s.askCkpt k)) else .next s
/-- The sweep takes the oldest deferred cause that one of its groups has reached (R347). -/
def State.sweepTakes (s : State) (k : Nat) : Option State :=
  match s.pairs.get? k with
  | none => none
  | some p =>
    match p.due.findSome? fun d => p.dueAt d.gi with
    | none => none
    | some d =>
      if s.mayDefer p.sweep.wg d.gi then none
      else some ((s.setPair k { p with due := p.due.erase d }).deliverDeferred p.sweep.wg d.gi d.ofs d.exec d.pmask d.cause
        d.lanes d.addr d.extra)
/-- Whether a pair's group is held: for a checkpoint, for a rollback, for its save behind the checkpoint of a pre-emption, behind
a commit entry, or for a deferred cause that the sweep has to take (R343, R345, R347, R350). -/
def State.pairHolds (s : State) (g : Group) : Bool :=
  match s.pairOf g.wg with
  | none => false
  | some (_, p, lead) => p.mustRoll.isSome || p.failed || (!p.ckpt && g.atBoundary && ((s.wgs.get? g.wg).map (·.preempt)).getD false)
      || (lead && g.atBoundary && (p.ckpt || p.lead.entries.any Entry.commits)) || (!lead && (p.dueAt g.gi).isSome)

end Sys2Proof.Machine
end

