-- ==== Sys2Proof/Machine/Csr.lean ====
section
/-! DEFINITION. Control and status registers, gating and waking, debug halts (06 R164, 14 R325–R327, 28 R482, R483). -/

namespace Sys2Proof.Machine
open Sys2Proof

/-! ### CSRs (R164, R483) -/

/-- Debug level that applies to a core of a pitch (R482). -/
def State.debugLevel (s : State) (pitch : Nat) : Nat :=
  if s.dev3 then 3 else ((s.pitches.get? pitch).map (·.debug)).getD 0
/-- SEC of DBGSTAT (R483). -/
def TdiState.code : TdiState → Nat
  | .opened => 0
  | .locked => 1
  | .run => 2
  | .error => 3
/-- DBGSTAT of a pitch (R483). -/
def State.dbgStat (s : State) (pitch : Nat) : W64 :=
  match s.pitches.get? pitch with
  | some p => BitVec.ofNat 64 (p.debug + s.dev3.toNat * 4 + p.tdi.code * 8)
  | none => 0
/-- A byte range of the innermost trap frame's control entry and record (R142, R164); 0 with none. -/
def State.trapField (s : State) (w : Wg) (g : Group) (ofs n : Nat) : Nat :=
  match s.innerTrap w g with
  | some o => s.spillRead w g.gi (w.spillBytes - g.frameBytes + o + ofs) n
  | none => 0
/-- What a CSR access meets: a value and whether it may be written, or a cause (R164, R483). -/
def Ctx.csr (c : Ctx) (s : State) (index : Nat) : Except Cause W64 :=
  let g := c.g
  let lvl := s.debugLevel c.w.pitch
  let x := s.core c.core
  if index ≤ 7 then .ok (BitVec.ofNat 64 (s.trapField c.w g (16 + 8 * index) 8))
  else if index = 8 then .ok (BitVec.ofNat 64 ((s.innerTrap c.w g).isSome.toNat + g.live.toNat * 2 ^ 32))
  else if index = 9 then .ok (BitVec.ofNat 64 (g.depth % 2 ^ 16 + g.callDepth % 2 ^ 16 * 2 ^ 16 + g.cj.toNat * 2 ^ 32))
  else if index = 10 then
    .ok (match s.innerTrap c.w g with
      | some o =>
        let f := s.frameAt c.w g o
        BitVec.ofNat 64 (f.ofs.toNat + f.planes.toNat * 2 ^ 24)
      | none => 0)
  else if index = 11 then .ok x.wakeReason
  else if index = 0x800 then .ok (s.dbgStat c.w.pitch)
  else if 0x801 ≤ index ∧ index ≤ 0x803 then
    if lvl = 0 then .error .debugDenied
    else .ok (BitVec.ofNat 64 (if index = 0x801 then x.issued else if index = 0x802 then x.gatedNs else x.logStall))
  else .error .csrIndex
/-- CSRR (R164, R483): in a pair the sweep takes the lead's value (R336). -/
def execCsrr (w : RI) (s : State) : Host.Outcome State Fault Refusal :=
  issue (.csrr w) s fun s c =>
    let index := w.imm.toNat % 2 ^ 12
    match c.csr s index with
    | .error e => .cause e c.lanes 0 (BitVec.ofNat 64 index)
    | .ok v => c.shared s [v] fun s vs => .next (s.updRegs c.k fun r => r.setUni w.d.num (vs.headD 0))
/-- CSRW (R164, R483): TRESUME is the one CSR that may be written, while a trap frame stands. -/
def execCsrw (w : RI) (s : State) : Host.Outcome State Fault Refusal :=
  issue (.csrw w) s fun s c =>
    let index := w.imm.toNat % 2 ^ 12
    let extra := BitVec.ofNat 64 (index + 2 ^ 12)
    match c.csr s index with
    | .error e => .cause e c.lanes 0 extra
    | .ok _ =>
      match if index = 10 then s.innerTrap c.w c.g else none with
      | none => .cause .csrIndex c.lanes 0 extra
      | some o =>
        let f := s.frameAt c.w c.g o
        let v := s.uniVal c w.a
        let f := { f with ofs := v.truncate 24, planes := v.extractLsb' 24 8 }
        .next (s.spillWrite c.w c.g.gi (c.w.spillBytes - c.g.frameBytes + o) 16 f.bits)

/-! ### Gating and waking (R325–R327, R487) -/

/-- CORE_GATE (R325): after 64 cycles without an issue, counted from the last one or from the end of a wake, the core gates;
GATECOUNT counts it. -/
def execCoreGate (core : Nat) (s : State) : Host.Outcome State Fault Refusal :=
  let x := s.core core
  if x.gated ∨ x.idle < 64 ∨ 96 ≤ core then .fault .notEnabled
  else .next (s.setCore core { x with gated := true, waking := false, ready := 0, woken := false, wakeReason := x.wakeReason + (1#64 <<< 32) })
/-- CORE_WAKE_COMPLETE (R326): the core issues again; the idle count starts afresh (R325). -/
def execCoreWakeComplete (core : Nat) (s : State) : Host.Outcome State Fault Refusal :=
  let x := s.core core
  if x.gated ∧ x.waking then .next (s.setCore core { x with gated := false, idle := 0 })
  else .fault .notEnabled
/-- IDLE_ENTRY (R487): every core is gated, no copy, packet or matrix command runs, and no queue waits to run one. -/
def execIdleEntry (s : State) : Host.Outcome State Fault Refusal :=
  let gated := (List.range 96).all fun c => (s.core c).gated && !(s.core c).waking
  let quiet := s.copies.isEmpty && s.slots.all (fun x => !x.2.running && !s.queueReady x.2.queue) && s.wgs.all fun x => x.2.mqueue.all fun m => !m.running
  if s.power = .run ∧ gated ∧ quiet then .next { s with power := .idle } else .fault .notEnabled

end Sys2Proof.Machine
end

