-- ==== Sys2Proof/Machine/Port.lean ====
section
/-! DEFINITION. The system command port and the boot program that drives it (01 R12–R17, R22–R25). -/

namespace Sys2Proof.Machine
open Sys2Proof

/-! ### The policy cores' map (R12) -/

/-- Whether a range lies in management SRAM (R12). -/
def inSram (a n : Nat) : Bool := decide (0x08000000 ≤ a) && decide (a + n ≤ 0x08200000)
/-- Whether a range lies in the flash window (R12). -/
def inFlash (a n : Nat) : Bool := decide (0x10000000 ≤ a) && decide (a + n ≤ 0x50000000)
/-- A number in the policy cores' map. -/
def State.polRead (s : State) (a n : Nat) : Nat := s.rawRead (polKey a) n
/-- Write a number in the policy cores' map. -/
def State.polWrite (s : State) (a n v : Nat) : State := s.rawWrite (polKey a) n v
/-- Bytes of the policy cores' map. -/
def State.polBytes (s : State) (a n : Nat) : List Byte := s.bytes (polKey a) n
/-- Write bytes in the policy cores' map. -/
def State.polPut (s : State) (a : Nat) (bs : List Byte) : State := s.rawBytes (polKey a) bs
/-- The load status record (R40): status, type, flash address, symbol, offset. -/
def State.loadStatus (s : State) (status rtype image symbol rofs : Nat) : State :=
  s.polPut 0x081FFEC0 (bytesOf [BitVec.ofNat 64 (status % 2 ^ 32 + rtype % 256 * 2 ^ 32), BitVec.ofNat 64 (image % 2 ^ 32),
    BitVec.ofNat 64 (symbol % 2 ^ 32), BitVec.ofNat 64 rofs])
/-- Extend a measurement slot with a value (R32). -/
def State.extend (s : State) (slot : Nat) (value : List Byte) : State :=
  { s with meas := s.meas.set slot (sha384 (s.measSlot slot ++ value)) }

/-! ### Commands (R13, R15–R17) -/

/-- An argument of the running command. -/
def State.arg (s : State) (k : Nat) : W64 := BitVec.ofNat 64 (s.polRead (s.port.running.toNat + 8 + 8 * k) 8)
/-- A command ends: its results are written, then its status, and the port is free (R15). -/
def State.finish (s : State) (status : Nat) (outs : List (Nat × W64)) : State :=
  let b := s.port.running.toNat
  let s := outs.foldl (fun s (k, v) => s.polWrite (b + 8 + 8 * k) 8 v.toNat) s
  { s.polWrite (b + 4) 4 status with port := { s.port with busy := false, wait := .none } }
/-- A command ends without results. -/
def State.ends (s : State) (status : Nat) : State := s.finish status []
/-- Whether the port runs a command with an opcode from a block. -/
def State.onPort (s : State) (blk : W64) (op : Nat) : Bool :=
  s.port.busy && s.port.running.zeroExtend 64 == blk && s.port.opcode.toNat == op
/-- The step of a command: enabled while the port runs it. -/
def State.command (s : State) (blk : W64) (op : Nat) (go : State → State) : Host.Outcome State Fault Refusal :=
  if s.onPort blk op then .next (go s) else .fault .notEnabled
/-- Whether the port's opcode and request are those of a command (R17, R477). -/
def State.known (s : State) : Bool :=
  match s.port.opcode.toNat with
  | 20 => decide (field (s.arg 0) 4 3 ≤ 3)
  | 24 => decide (field (s.arg 0) 13 2 ≤ 2)
  | 25 => (s.arg 0).toNat % 4 == 0 || (s.arg 0).toNat % 4 == 2
  | n => decide (1 ≤ n) && decide (n ≤ 26)
/-- A write of SCPDB (R13, R16): the command at a good block starts, or ends at once with BUSY or BADARG. -/
def State.ringPort (s : State) (v : W64) : State :=
  let b : BitVec 32 := v.truncate 32
  let s := { s with port := { s.port with block := b } }
  if b.toNat % 32 ≠ 0 ∨ !inSram b.toNat 32 then { s with port := { s.port with badBlock := true } }
  else if s.port.busy then s.polWrite (b.toNat + 4) 4 4
  else
    let w0 := s.polRead b.toNat 4
    let s := { s with port := { s.port with busy := true, running := b, opcode := BitVec.ofNat 8 w0 } }
    if w0 / 256 = 0 ∧ s.known then s
    -- every IMAGE_MAP completion writes the load status record (R40)
    else if w0 % 256 = 8 then (s.loadStatus 2 0 (s.arg 0).toNat 0 0).ends 2
    else s.ends 2

/-! ### Register writes (R13, R14) -/

/-- A write of SCPSTAT: a 1 to BADBLOCK clears it. -/
def State.writeStat (s : State) (v : W64) : State :=
  if v.getLsbD 1 then { s with port := { s.port with badBlock := false } } else s
/-- A write of HOSTRDY: a 1 sets READY. -/
def State.writeReady (s : State) (v : W64) : State :=
  if v.getLsbD 0 then { s with port := { s.port with ready := true } } else s
/-- SCPSTAT_WRITE (R13). -/
def execScpstatWrite (value : W64) (s : State) : Host.Outcome State Fault Refusal := .next (s.writeStat value)
/-- HOSTRDY_WRITE (R13). -/
def execHostrdyWrite (value : W64) (s : State) : Host.Outcome State Fault Refusal := .next (s.writeReady value)

/-! ### Queue records, as system software writes them through the firmware (R300, R352, R481) -/

/-- Base of the model's own window of queue-record words: queue 1024 · pitch + QID at 128 bytes each (log entry 4). -/
def recordWindow : Nat := 0x100000000
/-- Whether a window's base is aligned to the window and lies in a page of the pitch's key set (R300); none while the host's
answer is outstanding. -/
def State.baseFits (s : State) (r : QRec) (base : W64) (len : Nat) : State × Option Bool :=
  if base.toNat % len ≠ 0 ∨ !canonical base ∨ isLocal base then (s, some false) else
  match s.fwPage r.pasid 0 base with
  | .ok s key _ _ => (s, some ((s.keySet r.pitch).contains key))
  | .wait s => (s, none)
  | .fail s => (s, some false)
/-- Whether the window bases of a record fit a program's declarations: the ring, which is window 0's, and those of its
table, read in the queue's PASID (R300). -/
def State.basesFit (s : State) (r : QRec) (p : QProg) : State × Option Bool :=
  (p.wins.zipIdx).foldl (fun (x : State × Option Bool) (d, i) =>
    match x.2 with
    | some true =>
      (match x.1.fwRead r.pasid (r.baseVa (i + 2)) 8 with
      | .wait s => (s, none)
      | .fail s => (s, some false)
      | .ok s bs => s.baseFits r (BitVec.ofNat 64 (leNat bs)) (2 ^ d.1))
    | _ => x) (s.baseFits r (r.slotVa 0) 64)
/-- A record with word `k` replaced by what software may write in it (R352). -/
def QRec.withWord (r : QRec) (k : Nat) (v : W64) : QRec :=
  if k = 0 then { r with ring := v.truncate 48, log2n := field v 48 5 }
  else if k = 1 then
    { r with pasid := field v 0 20, key := field v 20 6, pitch := field v 26 4, prog := field v 30 6, prio := field v 36 7,
             pin := v.getLsbD 43, pinSlot := field v 44 6, slice := field v 50 8, active := v.getLsbD 58 }
  else if k = 2 then { r with head := v.truncate 32, tail := v.extractLsb' 32 32 }
  else if k = 3 then
    { r with outcome := field v 0 2, cause := v.extractLsb' 8 8, lastWord := field v 16 12, fcode := v.extractLsb' 28 18 }
  else if k = 4 then { r with failCnt := field v 0 32 }
  else if k = 5 then { r with winTab := v.truncate 48 }
  else if 8 ≤ k then { r with user := (((List.range 8).map fun i => r.user.getD i 0).set (k - 8) v) }
  else r
/-- Whether the firmware may set ACTIVE in a record (R300, R352, R471). -/
def State.mayActivate (s : State) (q : Nat) (r : QRec) : State × Option Bool :=
  let shape := decide (3 ≤ r.log2n) && decide (r.log2n ≤ 12) && r.ring.toNat % (64 * 2 ^ r.log2n) == 0 && r.pitch == q / 1024
    && decide (r.slice ≤ 200) && (s.keySet r.pitch).contains r.key && (match s.pasids.get? r.pasid with
      | some c => c.pitch == r.pitch && !c.closing
      | none => false)
    && !(r.pin && r.pinSlot == 63 && s.queues.any fun x => x.1 != q && x.2.active && x.2.pin && x.2.pinSlot == 63)
  if !shape then (s, some false) else
  match s.qprogs.get? r.prog with
  | none => (s, some false)
  | some p => s.basesFit r p
/-- Write a word of a queue's record. The firmware refuses words 0 to 7 of a pitch that is not Open with 0x1A0 (R481);
a record that ends active is checked, and stays inactive if it fails. -/
def State.writeRecord1 (s : State) (q k : Nat) (v : W64) : State :=
  match s.pitches.get? (q / 1024) with
  | none => s
  | some p =>
  if p.tdi ≠ .opened ∧ k < 8 then { s with reply := leBytes 8 0x1A0 } else
  let r := (s.qrec q).withWord k v
  if !r.active ∨ 8 ≤ k then (s.setQrec q r).qSchedule
  else
    match s.mayActivate q r with
    | (s, some ok) =>
      let s := s.setQrec q { r with active := ok }
      let s := if ok then s else { s with reply := leBytes 8 2 }
      let s := if s.queueReady q then s.setQrec q { r with active := ok, stamp := s.time } else s
      s.qSchedule
    | (s, none) => s
/-- What an address of the policy cores' map reaches (R12); the model's own window is log entry 4's. -/
inductive PolRegion where
  | rom | port | slots | doorbell | sram | flash | records | none
  deriving DecidableEq, Repr
/-- The region of `n` bytes at an address, which lie in one (R12). -/
def polRegion (a n : Nat) : PolRegion :=
  let lies (lo hi : Nat) : Bool := decide (lo ≤ a) && decide (a + n ≤ hi)
  if lies 0 0x40000 then .rom
  else if lies 0x02000000 0x02000020 then .port
  else if lies 0x03000000 0x03030000 then .slots
  else if lies 0x04000000 0x04020000 then .doorbell
  else if inSram a n then .sram
  else if inFlash a n then .flash
  else if lies recordWindow (recordWindow + 128 * 16384) then .records
  else .none
/-- An aligned 64-bit write of a policy core to a register of the port, the slot tables, a doorbell or the model's window
(R13, R14, R20, R353, R360). -/
def State.register (s : State) (a : Nat) (value : W64) : State :=
  match polRegion a 8 with
  | .port =>
    if a = 0x02000000 then s.ringPort value
    else if a = 0x02000008 then s.writeStat value
    else if a = 0x02000010 then { s with port := { s.port with bootprog := value &&& 0x8000FFFFFFFF00FF } }
    else s.writeReady value
  | .slots =>
    let core := (a - 0x03000000) / 0x800
    let o := a % 0x800
    if o < 0x600 then s.slotWrite core (o / 32) (o % 32 / 8) value
    else if o = 0x600 then s.clearRefusals core
    else s
  | .doorbell => s.doorbell ((a - 0x04000000) / 8) value
  | .records => s.writeRecord1 ((a - recordWindow) / 128) ((a - recordWindow) % 128 / 8) value
  | _ => s
/-- A store of a policy core (R12, R13): bytes to management SRAM, an aligned 64-bit one to a register; another one of a register,
and one of what can only be read, is ignored; one outside the map returns a bus error, and the core takes its access-fault
exception. -/
def State.policyStore (s : State) (a n : Nat) (value : W64) : State :=
  match polRegion a n with
  | .none => { s with busError := some a }
  | .sram => s.polPut a (leBytes n value.toNat)
  | .rom | .flash => s
  | _ => if n ≠ 8 ∨ a % 8 ≠ 0 then s else s.register a value
/-- What a load of a policy core reads (R12, R13, R14, R360); none where it returns a bus error. The doorbell region and an access of a
register that is not an aligned 64-bit one read zero. -/
def State.policyLoad (s : State) (a n : Nat) : Option W64 :=
  let word (x : W64) : Option W64 := some (if n = 8 ∧ a % 8 = 0 then x else 0)
  match polRegion a n with
  | .none => none
  | .rom | .sram | .flash => some (BitVec.ofNat 64 (s.polRead a n))
  | .port =>
    let p := s.port
    word (if a = 0x02000000 then p.block.zeroExtend 64
      else if a = 0x02000008 then (p.opcode ++ (0 : BitVec 6) ++ BitVec.ofBool p.badBlock ++ BitVec.ofBool p.busy).zeroExtend 64
      else if a = 0x02000010 then p.bootprog
      else if p.ready then 1 else 0)
  | .slots =>
    let core := (a - 0x03000000) / 0x800
    word (if a % 0x800 < 0x600 then BitVec.ofNat 64 (s.polRead a n) else if a % 0x800 = 0x600 then (s.core core).slotStatus else 0)
  | .doorbell => some 0
  | .records => word ((s.qrec ((a - recordWindow) / 128)).toWords.getD ((a - recordWindow) % 128 / 8) 0)
/-- REGISTER_WRITE (R12, R13): a store of a policy core. -/
def execRegisterWrite (addr : BitVec 48) (size : Nat) (value : W64) (s : State) : Host.Outcome State Fault Refusal :=
  .next (s.policyStore addr.toNat size value)

/-! ### The boot program (R22–R25) -/

/-- The command block of the boot program, its copy of the manifest, the digests. -/
def cmdBlk : Nat := 0x08000100
@[inherit_doc cmdBlk] def manCopy : Nat := 0x08001000
@[inherit_doc cmdBlk] def digestArea : Nat := 0x081FFF00
/-- A 64-bit load of the boot program; what it reads of, the manifest's copy, lies in the map (R18, R23). -/
def State.ld (s : State) (a : Nat) : W64 := (s.policyLoad (a % 2 ^ 48) 8).getD 0
/-- `mark` and `halt` write BOOTPROG with a stage and a status. -/
def State.bootMark (s : State) (stage status : Nat) (halt : Bool) : State :=
  s.register 0x02000010 (BitVec.ofNat 64 (stage + status * 2 ^ 16 + halt.toNat * 2 ^ 63))
/-- `scp`: the block is written with PENDING and its address rung. -/
def State.scp (s : State) (op : Nat) (a1 a2 a3 : W64) : State :=
  (s.polPut cmdBlk (bytesOf [BitVec.ofNat 64 (op + 2 ^ 32), a1, a2, a3])).register 0x02000000 (BitVec.ofNat 64 cmdBlk)
/-- The status of the boot program's command. -/
def State.bootStatus (s : State) : Nat := s.polRead (cmdBlk + 4) 4
/-- What an action of the boot program does. -/
inductive BootRes where
  /-- It writes no register. -/
  | move (s : State)
  /-- It writes a register, its stores to memory made before. -/
  | emit (s : State)
  | wait
  deriving DecidableEq, Repr
/-- Go on after a command: wait while it is pending, halt with the stage on a failure (R23). -/
def State.after (s : State) (stage : Nat) (go : Boot) : BootRes :=
  if s.bootStatus = 1 then .wait
  else if s.bootStatus ≠ 0 then .emit ({ s with boot := { s.boot with halted := true } }.bootMark stage s.bootStatus true)
  else .move { s with boot := go }
/-- One action of the boot program. -/
def State.bootAction (s : State) : BootRes :=
  let b := s.boot
  let at_ (n : Nat) : State := { s with boot := { b with pc := n } }
  let mark (stage status n : Nat) : BootRes := .emit ((at_ n).bootMark stage status false)
  let cmd (op : Nat) (a1 a2 a3 : W64) (n : Nat) : BootRes := .emit ((at_ n).scp op a1 a2 a3)
  match b.pc with
  | 0 => mark 0x10 0 1
  | 1 => cmd 1 0x10000000 (BitVec.ofNat 64 manCopy) 0x4000 2
  | 2 => s.after 0x11 { b with pc := 3, s2 := s.ld (cmdBlk + 24), s3 := 0, s4 := BitVec.ofNat 64 digestArea }
  | 3 => cmd 2 b.s3 b.s4 0 4
  | 4 => s.after 0x12 { b with pc := if b.s3 + 1 < 4 then 3 else 5, s3 := b.s3 + 1, s4 := b.s4 + 48 }
  | 5 => cmd 3 (s.ld (b.s2 + 8).toNat) (s.ld (b.s2 + 16).toNat) (BitVec.ofNat 64 (digestArea + 96)) 6
  | 6 => if s.bootStatus = 1 then .wait else .move (at_ (if s.bootStatus = 0 then 7 else 8))
  | 7 => cmd 4 (s.ld (b.s2 + 24).toNat &&& 3) 1 0 8
  | 8 => if s.bootStatus = 1 then .wait else mark 0x13 s.bootStatus 9
  | 9 => mark 0x20 0 10
  | 10 => cmd 5 0xFFFFFFFF 0 0 11
  | 11 =>
    let n := s.ld b.s2.toNat
    s.after 0x21 { b with pc := 12, s5 := n, s4 := b.s2 + 32, s3 := n &&& 0xFF }
  | 12 => if b.s3 = 0 then .move { s with boot := { b with pc := 14, s3 := (b.s5 >>> 8) &&& 0xFF } } else cmd 6 b.s4 0 0 13
  | 13 => s.after 0x22 { b with pc := 12, s4 := b.s4 + 64, s3 := b.s3 - 1 }
  | 14 =>
    if b.s3 = 0 then .move { s with boot := { b with pc := 16, s3 := (b.s5 >>> 16) &&& 0xFF } }
    else cmd 7 (s.ld b.s4.toNat) (s.ld (b.s4 + 8).toNat) (s.ld (b.s4 + 16).toNat) 15
  | 15 => s.after 0x23 { b with pc := 14, s4 := b.s4 + 32, s3 := b.s3 - 1 }
  | 16 =>
    if b.s3 = 0 then .move { s with boot := { b with pc := 18, s3 := (b.s5 >>> 24) &&& 0xFF } }
    else cmd 8 (s.ld b.s4.toNat) (s.ld (b.s4 + 8).toNat) (s.ld (b.s4 + 16).toNat) 17
  | 17 => s.after 0x24 { b with pc := 16, s4 := b.s4 + 32, s3 := b.s3 - 1 }
  | 18 =>
    if b.s3 = 0 then .move (at_ 19)
    else
      let core := (s.ld b.s4.toNat).toNat
      let w0 := s.ld (b.s4 + 8).toNat
      let slot := field w0 32 6
      -- a core beyond the slot tables is a bus error (R12), at which the program stops
      if 96 ≤ core then .move { s with boot := { b with halted := true }, busError := some (0x03000000 + core * 0x800) }
      else
        let s := [1, 2, 3].foldl (fun s k => s.slotWrite core slot k (s.ld (b.s4 + BitVec.ofNat 64 (8 * k + 8)).toNat)) s
        let s := { s with boot := { b with pc := 18, s4 := b.s4 + 40, s3 := b.s3 - 1 } }
        .emit (s.slotWrite core slot 0 w0)
  | 19 => mark 0x25 0 20
  | 20 => .emit ((at_ 21).register 0x02000018 1)
  | 21 => mark 0x26 0 serviceLoop
  | _ => .wait
/-- The boot program's next step: actions up to one that writes a register, with fuel for those that do not; none
while it waits. -/
def State.bootNext : Nat → State → Option State
  | 0, _ => none
  | fuel + 1, s =>
    if s.boot.halted then none else
    match s.bootAction with
    | .emit s' => some s'
    | .move s' => State.bootNext fuel s'
    | .wait => none

end Sys2Proof.Machine
end

