-- ==== Sys2Proof/Machine/StartUp.lean ====
section
/-! DEFINITION. The commands of start-up: the manifest, measurements, Lantern's section, DRAM training, queue programs,
kernel images and invalidation (01 R18, 02 R27–R43, 12 R309–R311, 19 R386, 28 R477). -/

namespace Sys2Proof.Machine
open Sys2Proof

/-! ### The manifest (R27–R30) -/

/-- A field of a byte list. -/
def bytesAt (m : List Byte) (o n : Nat) : Nat := leNat ((m.drop o).take n)
/-- A slice of a byte list. -/
def slice (m : List Byte) (o n : Nat) : List Byte := (m.drop o).take n
/-- The public keys and signatures of a block of R28: the hash of the keys is the fused one, and both signatures verify
over a digest. -/
def State.signed (s : State) (block digest : List Byte) : Bool :=
  let ec := slice block 0 97
  let ml := slice block 104 2592
  -- ECKEY is the whole field of 104 bytes (log entry 68)
  (slice block 97 7 ++ slice block 7419 5).all (· == 0) && sha384 (slice block 0 104 ++ ml) == s.keyHash
    && Config.ecdsaVerify ec digest (slice block 2696 96) && Config.mldsaVerify ml digest (slice block 2792 4627)
/-- An entry of the image list or the queue-program list: flash address, length, digest. -/
def listEntry (m : List Byte) (o : Nat) : Nat × Nat × List Byte := (bytesAt m o 4, bytesAt m (o + 4) 4, slice m (o + 8) 48)
/-- A list of a manifest. -/
def listAt (m : List Byte) (o n : Nat) : List (Nat × Nat × List Byte) := (List.range n).map fun i => listEntry m (o + 64 * i)
/-- The firmware section a manifest names. -/
def State.fwSection (s : State) (m : List Byte) : List Byte := s.flashBytes (bytesAt m 0x10 4) (bytesAt m 0x14 4)
/-- Whether MANIFEST_VERIFY accepts a manifest, given at most `max` bytes (R27, R28, R29). -/
def State.manifestOk (s : State) (m : List Byte) (max : Nat) : Bool :=
  let f := bytesAt m
  let zero (o n : Nat) : Bool := (slice m o n).all (· == 0)
  let len := f 0x0C 4
  let sig := f 0x98 4
  let inside (o n : Nat) : Bool := decide (o + n ≤ len)
  let flash (a n : Nat) : Bool := n == 0 || inFlash a n
  f 0 4 == 0x464D544B && f 4 2 == 1 && zero 6 2 && zero 0x0A 2 && zero 0x94 4 && zero 0x9C 4
    && (List.range (f 0x8C 2)).all (fun i => zero (f 0x88 4 + 64 * i + 56) 8)
    && (List.range (f 0x8E 2)).all (fun i => zero (f 0x90 4 + 64 * i + 56) 8)
    && decide (len ≤ max) && decide (len ≤ 16384) && len == sig + 7424 && m.length == len
    && inside (f 0x80 4) (f 0x84 4) && inside (f 0x88 4) (64 * f 0x8C 2) && inside (f 0x90 4) (64 * f 0x8E 2)
    && (listAt m (f 0x88 4) (f 0x8C 2) ++ listAt m (f 0x90 4) (f 0x8E 2)).all (fun x => flash x.1 x.2.1)
    && decide (f 0x14 4 ≤ 2 ^ 20) && decide (f 0x4C 4 ≤ 2 ^ 23) && flash (f 0x10 4) (f 0x14 4) && flash (f 0x48 4) (f 0x4C 4)
    && !s.keyHash.all (· == 0) && s.signed (m.drop sig) (sha384 (m.take sig)) && decide (s.minSvn ≤ f 8 2)
    && sha384 (s.fwSection m) == slice m 0x18 48
/-- Bytes of SRAM that a failed MANIFEST_VERIFY leaves unspecified (R18, log entry 12). -/
def State.scramble (s : State) (a n : Nat) : State := s.polPut a ((List.range n).map fun k => Config.freeByte s.stepNo (a + k))
/-- MANIFEST_VERIFY's work (R18, R29, R30). -/
def State.manifestVerify (s : State) : State :=
  let src := (s.arg 0).toNat
  let dst := (s.arg 1).toNat
  let max := (s.arg 2).toNat
  let clear (lo hi : Nat) : Bool := decide (dst + max ≤ lo) || decide (hi ≤ dst) || max == 0
  if dst % 8 ≠ 0 ∨ !inSram dst max ∨ !clear 0x08010000 0x08110000 ∨ !clear digestArea 0x08200000 then s.ends 2
  else
    let len := s.polRead (src + 0x0C) 4
    let m := s.flashBytes src (min len 16384)
    if !inFlash src 160 ∨ !inFlash src len ∨ !s.manifestOk m max then
      ((((s.scramble dst max).scramble 0x08010000 0x100000).scramble digestArea 192).polPut s.port.running.toNat
        (s.polBytes s.port.running.toNat 32)).ends 0x1A5
    else
      let f := bytesAt m
      let fw := s.fwSection m
      let s := ((s.polPut dst m).polPut 0x08010000 fw).polPut digestArea
        (sha384 (m.take (f 0x98 4)) ++ sha384 fw ++ slice m 0x50 48 ++ sha384 (slice m (f 0x80 4) (f 0x84 4)))
      { s with latch := some ⟨f 8 2, listAt m (f 0x88 4) (f 0x8C 2), listAt m (f 0x90 4) (f 0x8E 2)⟩ }.finish 0
        [(2, BitVec.ofNat 64 (dst + f 0x80 4))]
/-- MANIFEST_VERIFY (R18, R29). -/
def execManifestVerify (blk : W64) (s : State) : Host.Outcome State Fault Refusal := s.command blk 1 State.manifestVerify

/-! ### Measurements, Lantern's section, training (R18, R32–R34, R491) -/

/-- MEAS_EXTEND's work (R33). -/
def State.measExtend (s : State) : State :=
  let slot := (s.arg 0).toNat
  let a := (s.arg 1).toNat
  if 23 ≤ slot ∨ slot = 4 ∨ slot = 5 ∨ (slot < 4 ∧ s.trained = true) ∨ !inSram a 48 then s.ends 2
  else (s.extend slot (s.polBytes a 48)).ends 0
/-- MEAS_EXTEND (R18, R33). -/
def execMeasExtend (blk : W64) (s : State) : Host.Outcome State Fault Refusal := s.command blk 2 State.measExtend
/-- Number of a section's bitmaps, overlays and guide lines, and where its tables lie (R435). -/
structure LanternHead where
  nbmp : Nat
  novl : Nat
  dirOfs : Nat
  ovlOfs : Nat
  routeOfs : Nat
  guideOfs : Nat
  nguide : Nat
  deriving DecidableEq, Repr
/-- The header of a section (R435). -/
def lanternHead (d : List Byte) : LanternHead :=
  ⟨bytesAt d 6 1, bytesAt d 7 1, bytesAt d 8 4, bytesAt d 12 4, bytesAt d 16 4, bytesAt d 20 4, bytesAt d 24 1⟩
/-- Whether a camera route keeps the layout (R435). -/
def routeOk (r : List Byte) : Bool :=
  let f (o : Nat) : Nat := bytesAt r o 2
  let bw := f 0x18
  let bh := f 0x1A
  decide (bytesAt r 0 1 ≤ 5) && decide (bytesAt r 1 1 ≤ 3) && bytesAt r 2 1 == 0x1E && decide (bytesAt r 3 1 < 8)
    && decide (f 8 + f 12 ≤ f 4) && decide (f 10 + f 14 ≤ f 6) && decide (64 ≤ bw) && decide (bw ≤ 7680)
    && decide (64 ≤ bh) && decide (bh ≤ 4320) && bw % 4 == 0 && bh % 4 == 0 && decide (f 16 + f 20 ≤ bw)
    && decide (f 18 + f 22 ≤ bh) && decide (bh + 8 ≤ f 0x1C) && decide (1 ≤ f 0x1E) && decide (f 0x1E ≤ 500)
/-- Whether a section keeps the layout of R435. -/
def lanternOk (d : List Byte) : Bool :=
  let h := lanternHead d
  let n := d.length
  let zero (o k : Nat) : Bool := (slice d o k).all (· == 0)
  let size (o k maxW maxH : Nat) : Bool :=
    let w := bytesAt d (o + 4) 2
    let x := bytesAt d (o + 6) 2
    decide (o + k ≤ n) && decide (1 ≤ w) && decide (w ≤ maxW) && decide (1 ≤ x) && decide (x ≤ maxH)
      && decide (bytesAt d o 4 + 4 * w * x ≤ n)
  decide (64 ≤ n) && bytesAt d 0 4 == 0x4E4C544B && bytesAt d 4 2 == 1 && decide (h.nbmp ≤ 64) && decide (h.novl ≤ 4)
    && decide (h.nguide ≤ 8) && zero 0x19 39
    && (List.range h.nbmp).all (fun i => size (h.dirOfs + 16 * i) 16 128 128 && zero (h.dirOfs + 16 * i + 8) 8)
    && (List.range h.novl).all (fun i =>
      let o := h.ovlOfs + 16 * i
      size o 16 1024 256 && decide (bytesAt d (o + 8) 1 ≤ 3) && zero (o + 9) 1 && zero (o + 14) 2)
    && (List.range h.nguide).all (fun i =>
      let o := h.guideOfs + 16 * i
      decide (o + 16 ≤ n) && decide (1 ≤ bytesAt d (o + 12) 1) && decide (bytesAt d (o + 12) 1 ≤ 8) && zero (o + 13) 3)
    && (h.routeOfs == 0 || (decide (h.routeOfs + 32 ≤ n) && routeOk (slice d h.routeOfs 32)))
/-- LANTERN_LOAD's work (R18, R34, R435). -/
def State.lanternLoad (s : State) : State :=
  let src := (s.arg 0).toNat
  let len := (s.arg 1).toNat
  let at_ := (s.arg 2).toNat
  if s.pitched ∨ 2 ^ 23 < len ∨ !inFlash src len ∨ !inSram at_ 48 then s.ends 2
  else
    let bs := s.flashBytes src len
    if sha384 bs ≠ s.polBytes at_ 48 then s.ends 0x1A6
    else if !lanternOk bs then s.ends 2
    else { s with lantern := bs }.ends 0
/-- LANTERN_LOAD (R18, R34). -/
def execLanternLoad (blk : W64) (s : State) : Host.Outcome State Fault Refusal := s.command blk 3 State.lanternLoad
/-- DRAM_TRAIN's work (R18, R453, R491): channels outside the mask and channels that fail retire; which fail is free
(log entry 7). What DRAM held is gone (log entry 1). -/
def State.dramTrain (s : State) : State :=
  if s.pitched ∨ 2 ^ 32 ≤ (s.arg 0).toNat then s.ends 2
  else
    let good := (List.range 32).filter fun c => (s.arg 0).getLsbD c && !s.retCh.getLsbD c && !Config.freeBool s.stepNo c
    let mask : BitVec 32 := good.foldl (fun m c => m ||| (1#32 <<< c)) 0
    let s := { s with trained := true, retCh := ~~~mask, poison := s.poison.filter (fun x => decide (2 ^ 31 ≤ x)), keyTags := [], msc := [],
                      mem := s.mem.filter fun c => decide (0x2000000000 ≤ c.1) }
    if mask = 0 then s.ends 5 else s.finish 0 [(1, mask.zeroExtend 64)]
/-- DRAM_TRAIN (R18, R491). -/
def execDramTrain (blk : W64) (s : State) : Host.Outcome State Fault Refusal := s.command blk 5 State.dramTrain

/-! ### Queue programs (R30, R309–R311) -/

/-- Whether every active record that names a program number fits a new program; none while the host's answer is
outstanding. -/
def State.recordsFit (s : State) (slot : Nat) (p : QProg) : State × Option Bool :=
  s.queues.foldl (fun (x : State × Option Bool) (q : Nat × QRec) =>
    match x.2 with
    | some true => if q.2.active && q.2.prog == slot then x.1.basesFit q.2 p else x
    | _ => x) (s, some true)
/-- QPROG_LOAD's work (R30, R309–R311): the pitch that arg2 names has no effect of its own; of list entries that name one address any
may match (log entry 104). -/
def State.qprogLoad (s : State) : State :=
  let slot := (s.arg 0).toNat
  let src := (s.arg 1).toNat
  let len := field (s.arg 2) 0 32
  let refuse (rule word : Nat) : State := (s.loadStatus 0x16A rule src 0 word).ends 0x16A
  -- with no list latched every QPROG_LOAD is refused by it (log entry 104)
  if s.latch.isNone then refuse 0 0
  else if 64 ≤ slot ∨ 2 ^ 36 ≤ (s.arg 2).toNat then s.ends 2
  else
    let img := s.flashBytes src len
    let listed := inFlash src len && match s.latch with
      | some l => l.qprogs.any fun (x : Nat × Nat × List Byte) => x.1 == src && x.2.2 == sha384 img
      | none => false
    if !listed then refuse 0 0 else
    match qHeader img with
    | none => refuse 1 0
    | some p =>
      match p.check with
      | some (rule, word) => refuse rule word
      | none =>
        match s.recordsFit slot p with
        | (s, none) => s
        | (s, some false) => s.ends 2
        | (s, some true) => ({ s with qprogs := s.qprogs.set slot p }.extend 4 (sha384 img)).ends 0
/-- QPROG_LOAD (R18, R310). -/
def execQprogLoad (blk : W64) (s : State) : Host.Outcome State Fault Refusal := s.command blk 7 State.qprogLoad

/-! ### Kernel images (R35–R41) -/

/-- A PT_LOAD segment: offset from the load base, bytes in memory, place in the file, bytes there, and its flags. -/
structure Seg where
  va : Nat
  size : Nat
  file : Nat
  fsize : Nat
  flags : Nat
  deriving DecidableEq, Repr
/-- A relocation with its symbol's section index and value; none for a symbol the table does not hold. -/
structure Rela where
  ofs : Nat
  type : Nat
  sym : Nat
  addend : Int
  symbol : Option (Nat × Nat)
  deriving DecidableEq, Repr
/-- What IMAGE_MAP reads of an ELF64 file (R35, R36). -/
structure Elf where
  segs : List Seg
  /-- Type and descriptor of each Klonatos note. -/
  notes : List (Nat × List Byte)
  relas : List Rela
  deriving DecidableEq, Repr
/-- The Klonatos notes of a note segment; fuel bounds their number. -/
def notesOf : Nat → List Byte → List (Nat × List Byte)
  | 0, _ => []
  | fuel + 1, bs =>
    if bs.length < 12 then [] else
    let ns := bytesAt bs 0 4
    let ds := bytesAt bs 4 4
    let name := slice bs 12 ns
    let d := bs.drop (12 + (ns + 3) / 4 * 4)
    let rest := notesOf fuel (d.drop ((ds + 3) / 4 * 4))
    let own : List Byte := [0x4B, 0x6C, 0x6F, 0x6E, 0x61, 0x74, 0x6F, 0x73]
    if name.take 8 = own ∧ (name.drop 8).all (· == 0) then (bytesAt bs 8 4, d.take ds) :: rest else rest
/-- A 64-bit two's complement number. -/
def signed64 (n : Nat) : Int := (BitVec.ofNat 64 n : W64).toInt
/-- Insert a segment by address. -/
def insertSeg (x : Seg) : List Seg → List Seg
  | [] => [x]
  | y :: ys => if x.va ≤ y.va then x :: y :: ys else y :: insertSeg x ys
/-- Read an ELF64 file at a flash address; none where it breaks R35. -/
def State.elfAt (s : State) (fa : Nat) : Option Elf :=
  let r (o n : Nat) : Nat := s.polRead (fa + o) n
  let phn := r 56 2
  let shn := r 60 2
  let ph (i k n : Nat) : Nat := r (r 32 8 + 56 * i + k) n
  let sh (i k n : Nat) : Nat := r (r 40 8 + 64 * i + k) n
  let loads := ((List.range phn).filter fun i => ph i 0 4 == 1).map fun i =>
    (⟨ph i 16 8, ph i 40 8, ph i 8 8, ph i 32 8, ph i 4 4⟩ : Seg)
  let headOk := r 0 4 == 0x464C457F && r 4 1 == 2 && r 5 1 == 1 && r 16 2 == 3 && r 18 2 == 0x5A91 && r 48 4 == 0
    && (phn == 0 || r 54 2 == 56) && (shn == 0 || r 58 2 == 64)
    && loads.all (fun g => g.va % 4096 == 0 && decide (g.fsize ≤ g.size) && decide (g.size ≤ 2 ^ 40) && inFlash (fa + g.file) g.fsize)
  if !headOk then none else
  let notes := (((List.range phn).filter fun i => ph i 0 4 == 4).map fun i =>
    let n := min (ph i 32 8) 0x40000000
    notesOf (n / 12) (s.flashBytes (fa + ph i 8 8) n)).flatten
  let relas := (((List.range shn).filter fun i => sh i 4 4 == 4).map fun i =>
    let link := sh i 40 4
    let count := min (sh i 32 8) 0x40000000 / 24
    (List.range count).map fun j =>
      let e (k : Nat) : Nat := r (sh i 24 8 + 24 * j + k) 8
      let sym := e 8 / 2 ^ 32
      let at_ := sh link 24 8 + 24 * sym
      let known := decide (link < shn) && decide (sym < sh link 32 8 / 24)
      (⟨e 0, e 8 % 2 ^ 32, sym, signed64 (e 16), if known then some (r (at_ + 6) 2, r (at_ + 8) 8) else none⟩ : Rela)).flatten
  some ⟨loads.foldl (fun l g => insertSeg g l) [], notes, relas⟩
/-- The page-hash list of an image (R36). -/
def Elf.hashes (e : Elf) : List Byte := ((e.notes.filter fun x => x.1 == 2).map (·.2)).flatten
/-- The pages of an image in ascending address with their hashes (R36, R41). -/
def Elf.pages (e : Elf) (fa : Nat) : List ImgPage :=
  let ps := (e.segs.map fun g => (List.range ((g.size + 4095) / 4096)).map fun i =>
    (g.va + 4096 * i, fa + g.file + 4096 * i, min 4096 (g.fsize - 4096 * i))).flatten
  (ps.zipIdx).map fun ((o, f, n), i) => ⟨o, f, n, slice e.hashes (48 * i) 48⟩
/-- The kernels of an image: CODEOFS, L and P of each descriptor. -/
def Elf.kernels (e : Elf) : List (Nat × Nat × Nat) :=
  (e.notes.filter fun x => x.1 == 1 && decide (72 ≤ x.2.length)).filterMap fun x =>
    let w0 : W64 := BitVec.ofNat 64 (bytesAt x.2 8 8)
    let w1 : W64 := BitVec.ofNat 64 (bytesAt x.2 16 8)
    if field w1 40 15 = 0 then none else some (field w1 0 40, 512 * field w1 40 15, 2 ^ field w0 48 2)
/-- The segment that holds a range of the image. -/
def Elf.segOf (e : Elf) (o n : Nat) : Option Seg := e.segs.find? fun g => decide (g.va ≤ o) && decide (o + n ≤ g.va + g.size)
/-- The word at an offset of an image, where the file holds one. -/
def State.imageWord (s : State) (fa : Nat) (e : Elf) (o : Nat) : Option W64 :=
  (e.segs.find? fun g => decide (g.va ≤ o) && decide (o + 8 ≤ g.va + g.fsize)).map fun g =>
    BitVec.ofNat 64 (s.polRead (fa + g.file + (o - g.va)) 8)
/-- Whether an integer fits n signed bits. -/
def fits (n : Nat) (v : Int) : Bool := decide (-(2 ^ (n - 1) : Int) ≤ v) && decide (v < (2 ^ (n - 1) : Int))
/-- The low n bits of an integer. -/
def lowBits (n : Nat) (v : Int) : Nat := (v % (2 ^ n : Int)).toNat
/-- Resolve a relocation: its patches, or none where it fails (R39). -/
def State.resolveRela (s : State) (fa base : Nat) (e : Elf) (x : Rela) : Option (List Patch) :=
  let size := if x.type = 2 ∨ x.type = 3 ∨ x.type = 8 then 4 else 8
  -- the table states no alignment for OFS18, BRANCH24 and JOIN21
  let align := if 5 ≤ x.type ∧ x.type ≤ 7 then 1 else size
  let sym : Option Nat := x.symbol.bind fun (sec, v) => if sec = 0 then none else some (base + v)
  if x.type < 1 ∨ 8 < x.type ∨ x.ofs % align ≠ 0 ∨ (e.segOf x.ofs size).isNone then none else
  match sym with
  | none => none
  | some sv =>
    let sa : Int := (sv : Int) + x.addend
    let p : Int := (base + x.ofs : Nat)
    let put (lo n : Nat) (v : Int) : Option (List Patch) := some [⟨x.ofs, size, lo, n, lowBits n v⟩]
    let dist (d : Int) (n lo w : Nat) : Option (List Patch) :=
      if d % 8 = 0 ∧ fits n (d / 8) then some [⟨x.ofs, size, lo, w, lowBits n (d / 8)⟩] else none
    match x.type with
    | 1 => put 0 64 sa
    | 2 => put 0 32 ((lowBits 64 sa / 2 ^ 32 : Nat) : Int)
    | 3 => put 0 32 sa
    | 4 =>
      (match s.imageWord fa e (x.ofs + 8) with
      | some w => if (w.extractLsb' 62 2) = 2 then
          some [⟨x.ofs, 8, 0, 27, lowBits 27 sa⟩, ⟨x.ofs + 8, 8, 0, 37, lowBits 64 sa / 2 ^ 27⟩]
        else if fits 27 sa then put 0 27 sa else none
      | none => if fits 27 sa then put 0 27 sa else none)
    | 5 => if fits 18 sa then put 9 18 sa else none
    | 6 => dist (sa - p) 24 21 24
    | 7 => dist (sa - p) 21 0 21
    | _ => dist ((sv : Int) - (p + x.addend)) 24 0 32
/-- Resolve every relocation in order: the patches, or the first that fails. -/
def State.resolveAll (s : State) (fa base : Nat) (e : Elf) : List Rela → List Patch → List Patch ⊕ Rela
  | [], ps => .inl ps
  | x :: xs, ps => match s.resolveRela fa base e x with
    | some qs => State.resolveAll s fa base e xs (ps ++ qs)
    | none => .inr x
/-- The configured pitch whose key set holds a key index. -/
def State.pitchOfKey (s : State) (key : Nat) : Option (Nat × Pitch) :=
  s.pitches.findBy fun _ p => p.keySlot == key || p.granted.contains key
/-- IMAGE_MAP ends: the load status record is written before the status (R40). -/
def State.mapEnds (s : State) (status rtype image symbol rofs : Nat) : State :=
  (s.loadStatus status rtype image symbol rofs).ends status
/-- A PASID's context, made if it has none (R18, R414). -/
def State.withContext (s : State) (pasid pitch : Nat) : State :=
  if (s.pasids.get? pasid).isSome then s else
  let (f, s) := s.takeFrame
  { s.clearRange f 4096 with pasids := s.pasids.set pasid ⟨f, 0, pitch, false, false, false⟩ }
/-- Map an image whose relocations are resolved: one flash-pending entry for each page (R41); an older image's pages
there are gone. -/
def State.mapImage (s : State) (pasid base key fa : Nat) (e : Elf) (patches : List Patch) : State :=
  let pages := e.pages fa
  let flags (o : Nat) : Nat := match e.segOf o 1 with
    | some g => g.flags
    | none => 0
  let s := pages.foldl (fun (s : State) (p : ImgPage) =>
    let f := flags p.ofs
    s.putLeaf pasid (BitVec.ofNat 64 (base + p.ofs))
      (BitVec.ofNat 64 (0x88 + (f / 2 % 2) * 2 + (f % 2) * 4 + key * 2 ^ 48))) s
  let covered (a : Nat) : Bool := pages.any fun p => base + p.ofs == a
  let trim (im : Image) : Image :=
    if im.pasid = pasid then { im with pages := im.pages.filter fun p => !covered (im.base + p.ofs) } else im
  let (id, s) := s.fresh
  { s with images := (s.images.mapV trim).set id ⟨pasid, base, key, pages, patches, e.kernels, []⟩ }
/-- IMAGE_MAP's work (R18, R30, R39–R41); of list entries that name one address the first gives the digest (log entry 104). -/
def State.imageMap (s : State) : State :=
  let fa := (s.arg 0).toNat
  let base := (s.arg 1).toNat
  let pasid := field (s.arg 2) 0 20
  let key := field (s.arg 2) 24 6
  let badArg := (s.arg 2).toNat / 2 ^ 30 != 0 || field (s.arg 2) 20 4 != 0 || pasid == 0 || base % 4096 != 0
    || !canonical (s.arg 1)
  let closing := match s.pasids.get? pasid with
    | some c => c.closing
    | none => false
  -- with no list latched every IMAGE_MAP is refused by it (log entry 104)
  if s.latch.isNone then s.mapEnds 0x1A6 0 fa 0 0 else
  match s.pitchOfKey key with
  | none => s.mapEnds 2 0 fa 0 0
  | some (pitch, p) =>
    if badArg || closing then s.mapEnds 2 0 fa 0 0
    else if (s.pasids.get? pasid).isNone ∧ p.tdi ≠ .opened then s.mapEnds 0x1A0 0 fa 0 0
    else
      let entry := s.latch.bind fun (l : Latch) => l.images.find? fun (x : Nat × Nat × List Byte) => x.1 == fa
      match entry, s.elfAt fa with
      | some (_, _, digest), some e =>
        if sha384 e.hashes ≠ digest ∨ e.hashes.length ≠ 48 * (e.pages fa).length then s.mapEnds 0x1A6 0 fa 0 0
        else match s.resolveAll fa base e e.relas [] with
          | .inr x => s.mapEnds 0x1A4 x.type fa x.sym x.ofs
          | .inl ps =>
            (((s.withContext pasid pitch).mapImage pasid base key fa e ps).extend 5 digest).mapEnds 0 0 fa 0 0
      | _, _ => s.mapEnds 0x1A6 0 fa 0 0
/-- IMAGE_MAP (R18, R41). -/
def execImageMap (blk : W64) (s : State) : Host.Outcome State Fault Refusal := s.command blk 8 State.imageMap

/-! ### Invalidation and the security version (R386, R477) -/

/-- TLB_INVAL's work (R386): ALL takes every PASID. -/
def State.tlbInvalCmd (s : State) : State :=
  let a := s.arg 0
  let va := s.arg 1
  let n := (s.arg 2).toNat
  if (a &&& 0x7FFFFFFFFFF00000) ≠ 0 ∨ va.toNat % 4096 ≠ 0 ∨ !canonical va then s.ends 2
  else
    let range := if n = 0 then none else some (va.toNat % 2 ^ 48 / 4096, n)
    let pasids := if a.getLsbD 63 then s.pasids.map (·.1) else [field a 0 20]
    (pasids.foldl (fun s p => s.tlbInval p range) s).ends 0
/-- TLB_INVAL (R386). -/
def execTlbInval (blk : W64) (s : State) : Host.Outcome State Fault Refusal := s.command blk 9 State.tlbInvalCmd
/-- SVN_RAISE's work (R477). -/
def State.svnRaise (s : State) : State :=
  let v := (s.arg 0).toNat
  let ok := match s.latch with
    | some l => decide (s.minSvn < v) && decide (v ≤ l.svn)
    | none => false
  if !ok ∨ s.arg 1 ≠ 0 ∨ s.arg 2 ≠ 0 then s.ends 2 else { s with minSvn := v }.ends 0
/-- SVN_RAISE (R477). -/
def execSvnRaise (blk : W64) (s : State) : Host.Outcome State Fault Refusal := s.command blk 26 State.svnRaise

end Sys2Proof.Machine
end

