-- ==== Sys2Proof/Machine/Pitches.lean ====
section
/-! DEFINITION. Pitches, keys, security states, debug and power: their commands and events (01 R18, R19, 03 R75–R83,
28 R477–R489). -/

namespace Sys2Proof.Machine
open Sys2Proof

/-! ### Keys (R478, R479) -/

/-- Drop everything on chip that a key index tags, without write-back (R479). -/
def State.dropKey (s : State) (key : Nat) : State :=
  let rows := s.scrTags.filter fun x => x.2 == key
  let s := rows.foldl (fun (s : State) (x : Nat × Nat) => s.clearRange (scrKey (x.1 / 4096) (x.1 % 4096 * 256)) 256) s
  -- what the key wrote of a matrix context, as another key would read it, stays
  let drop (c : CoreSt) : CoreSt :=
    let gone : MCtx := { c.ctx with tags := c.ctx.tags.map fun x => (x.1, if x.2 = key then 64 else x.2) }
    if c.ctx.tags.any (fun x => x.2 == key) then { c with ctx := gone.seen key } else c
  let s := (s.msc.filter fun x => x.2.key == key).foldl (fun (s : State) x => s.mscDrop x.1 fun _ => false) s
  { s with scrTags := s.scrTags.filter (fun x => x.2 != key), l1 := s.l1.filter (fun x => x.2.key != key), wc := s.wc.filter (fun x => x.2.key != key),
           cores := s.cores.mapV drop }
/-- Draw a fresh key into a slot: no earlier key of the slot returns. -/
def State.freshKey (s : State) (key : Nat) : State :=
  let (n, s) := (s.dropKey key).fresh
  { s with keyGen := s.keyGen.set key n }
/-- Zero a slot's key. -/
def State.zeroKey (s : State) (key : Nat) : State :=
  let s := s.dropKey key
  { s with keyGen := s.keyGen.del key }

/-! ### Ending a pitch's work (R19, R480) -/

/-- End a saved workgroup where it lies, with what it still had in the log. -/
def State.endSaved (s : State) (u : Nat) : State :=
  match s.wgs.get? u with
  | none => s
  | some w =>
    if w.phase ≠ .saved then s else
    let s := { s with accs := s.accs.filter fun x => x.2.wg != u }
    let bad := w.savedGroups.any fun g => g.chk.poison
    (s.setWg u { w with failed := true, poisoned := w.poisoned || bad, savedGroups := [], savedCtx := none, mqueue := [] }).endWg u
/-- The workgroups of a pitch. -/
def State.wgsOf (s : State) (p : Nat) : List (Nat × Wg) := s.wgs.filter fun (x : Nat × Wg) => x.2.pitch == p
/-- End the saved workgroups of a pitch. -/
def State.endSavedAll (s : State) (p : Nat) : State :=
  (s.wgsOf p).foldl (fun (s : State) (x : Nat × Wg) => s.endSaved x.1) s
/-- The pitch of a workgroup. -/
def State.pitchOf (s : State) (u : Nat) : Option Nat := (s.wgs.get? u).map (·.pitch)
/-- Begin to end a pitch's work: idle slots unmap, groups stop at their boundaries, monitors and queued matrix commands
go (R19, R480). -/
def State.beginEnd (s : State) (p : Nat) : State :=
  let s := { s with pitches := s.pitches.modify p fun x => { x with removing := true } }
  let idle := s.slots.filter fun (x : Nat × QSlot) => x.2.queue / 1024 == p && !x.2.running
  let s := idle.foldl (fun (s : State) (x : Nat × QSlot) => s.unmapSlot x.1) s
  let live := (s.wgsOf p).filter fun (x : Nat × Wg) => x.2.phase == .resident
  let s := live.foldl (fun (s : State) (x : Nat × Wg) => s.stopWg x.1) s
  let calm (w : Wg) : Wg := if w.pitch = p then { w with preempt := false } else w
  let s := { s with wgs := s.wgs.mapV calm, monitors := s.monitors.filter fun x => s.pitchOf x.2.wg != some p }
  s.endSavedAll p
/-- Whether a pitch's work has ended: no slot of its queues is mapped, its workgroups' records are written, and no copy
or access of theirs is left. -/
def State.endDone (s : State) (p : Nat) : Bool :=
  s.slots.all (fun x => x.2.queue / 1024 != p)
    && (s.wgsOf p).all (fun x => x.2.phase == .recorded || (x.2.role == 3 && x.2.phase == .ended))
    && s.copies.all (fun x => s.pitchOf x.2.wg != some p) && s.accs.all fun x => s.pitchOf x.2.wg != some p
/-- Zero the keys of a pitch whose work has ended (R478). -/
def State.zeroKeys (s : State) (p : Nat) : State := (s.keySet p).foldl (fun s k => s.zeroKey k) s
/-- Finish what entry to Error can finish: saved workgroups end, and the keys of a pitch whose work has ended are zero. -/
def State.settleEnd (s : State) (p : Nat) : State :=
  match s.pitches.get? p with
  | none => s
  | some x =>
    if !x.removing then s else
    let s := s.endSavedAll p
    if x.tdi = .error ∧ s.endDone p then
      { s.zeroKeys p with pitches := s.pitches.modify p fun x => { x with removing := false } }
    else s
/-- Entry to Error (R480). -/
def State.enterError (s : State) (p : Nat) : State :=
  (({ s with pitches := s.pitches.modify p fun x => { x with tdi := .error } }).beginEnd p).settleEnd p
/-- Whether entry to Error is under way. -/
def State.isEnding (s : State) (p : Nat) : Bool := ((s.pitches.get? p).map (·.removing)).getD false
/-- Let a command wait for entry to Error of some pitches, then act. -/
def State.awaitEnds (s : State) (ps : List Nat) (go : State → State) : State :=
  if ps.any s.isEnding then { s with port := { s.port with wait := .ending ps } } else go s
/-- A command that waits for entries to Error; `first` starts it and names the pitches, or ends it. -/
def State.endingCmd (s : State) (first : State → State ⊕ (State × List Nat)) (go : State → State) : State :=
  match s.port.wait with
  | .ending ps => (ps.foldl (fun s p => s.settleEnd p) s).awaitEnds ps go
  | _ => match first s with
    | .inl s => s
    | .inr (s, ps) => s.awaitEnds ps go

/-! ### PITCH_CFG (R18, R19, R75–R82) -/

/-- A pitch record in SRAM as words. -/
def State.pitchRecord (s : State) : List W64 := wordsOf (s.polBytes (s.arg 0).toNat 64)
/-- Reserved bits of a pitch record are zero (R19). -/
def pitchClean (w : List W64) : Bool :=
  field (w.getD 1 0) 56 8 == 0 && field (w.getD 3 0) 6 2 == 0 && field (w.getD 3 0) 15 1 == 0 && field (w.getD 3 0) 23 41 == 0
    && field (w.getD 4 0) 4 4 == 0 && field (w.getD 4 0) 9 55 == 0 && field (w.getD 5 0) 48 16 == 0
    && field (w.getD 6 0) 32 32 == 0 && w.getD 7 0 == 0
/-- Whether two ranges meet. -/
def rangesMeet (a n b m : Nat) : Bool := decide (a < b + m) && decide (b < a + n)
/-- A pitch as a record gives it, keeping what a configured one has. -/
def pitchOfRecord (w : List W64) (old : Option Pitch) : Pitch :=
  { cores := (w.getD 1 0).truncate 32 ++ w.getD 0 0, ways := (w.getD 1 0).extractLsb' 32 16, share := field (w.getD 1 0) 48 8,
    engSlots := w.getD 2 0, keySlot := field (w.getD 3 0) 0 6, prioLo := field (w.getD 3 0) 8 7, prioHi := field (w.getD 3 0) 16 7,
    saveBase := field (w.getD 5 0) 0 48, saveLen := field (w.getD 6 0) 0 32 * 65536, tdi := .opened,
    debug := (old.map (·.debug)).getD 0, granted := (old.map (·.granted)).getD [],
    reserved := (old.map (·.reserved)).getD [], removing := false }
/-- Whether a record's pitch stands against the other configured pitches and the device (R18, R19, R75, R76, R79). -/
def State.pitchFits (s : State) (n : Nat) (p : Pitch) : Bool :=
  let others := s.pitches.filter fun (x : Nat × Pitch) => x.1 != n
  decide (p.prioLo ≤ p.prioHi) && p.ways != 0 && p.saveBase % 65536 == 0 && decide (1 ≤ p.saveLen)
    && decide (p.saveBase + p.saveLen ≤ s.dramSize)
    && others.all (fun x => x.2.cores &&& p.cores == 0 && x.2.ways &&& p.ways == 0 && x.2.keySlot != p.keySlot
        && !x.2.granted.contains p.keySlot && !rangesMeet x.2.saveBase x.2.saveLen p.saveBase p.saveLen)
    && decide ((others.map fun x => x.2.share).foldl (· + ·) p.share ≤ 256)
    && (match s.pitches.get? n with
      | some o => o.reserved.isEmpty || (o.saveBase == p.saveBase && o.saveLen == p.saveLen)
      | none => true)
/-- Cores change pitch: their counters and WAKEREASON reset (R327, R483). -/
def State.moveCores (s : State) (mask : BitVec 96) : State :=
  ((List.range 96).filter fun c => mask.getLsbD c).foldl (fun (s : State) c =>
    s.setCore c { s.core c with wakeReason := 0, issued := 0, gatedNs := 0, logStall := 0 }) s
/-- Whether a core outside a pitch still holds work of it: a group, a copy or a macro-operation (R82). -/
def State.coreHolds (s : State) (p core : Nat) : Bool :=
  (s.groupsOn core).any (fun x => s.pitchOf x.2.wg == some p)
    || s.copies.any (fun x => match s.wgs.get? x.2.wg with
      | some w => w.pitch == p && x.2.core == core
      | none => false)
    || (match (s.core core).owner with
      | some u => s.pitchOf u == some p
      | none => false)
/-- Whether no core outside a pitch holds work of it. -/
def State.coresClear (s : State) (p : Nat) : Bool :=
  match s.pitches.get? p with
  | none => true
  | some x => (List.range 96).all fun c => x.cores.getLsbD c || !s.coreHolds p c
/-- PITCH_CFG's work: configure or reissue a pitch. A reissue that leaves out a core that holds work waits (R82). -/
def State.pitchCfg (s : State) : State :=
  if s.port.wait ≠ .none then s else
  if !inSram (s.arg 0).toNat 64 then s.ends 2 else
  let w := s.pitchRecord
  let n := field (w.getD 4 0) 0 4
  let old := s.pitches.get? n
  let p := pitchOfRecord w old
  if (old.map (·.tdi)).getD .opened ≠ .opened then s.ends 0x1A0
  else if !pitchClean w || !s.pitchFits n p then s.ends 2
  else
    let s := if (old.map (·.keySlot)) = some p.keySlot then s else s.freshKey p.keySlot
    let oldCores := (old.map (·.cores)).getD 0
    let s := ({ s with pitches := s.pitches.set n p, pitched := true }).moveCores (oldCores ^^^ p.cores)
    let left := (s.wgsOf n).filter fun (x : Nat × Wg) => x.2.phase == .resident && !p.cores.getLsbD x.2.core
    let s := left.foldl (fun (s : State) (x : Nat × Wg) => s.askPreempt x.1) s
    if s.coresClear n then s.ends 0 else { s with port := { s.port with wait := .cores n } }
/-- Whether the running PITCH_CFG names a record with REMOVE (R19). -/
def State.removes (s : State) : Bool := inSram (s.arg 0).toNat 64 && (s.pitchRecord.getD 4 0).getLsbD 8
/-- PITCH_CFG (R18, R19). -/
def execPitchCfg (blk : W64) (s : State) : Host.Outcome State Fault Refusal :=
  if s.removes then .fault .notEnabled else s.command blk 6 State.pitchCfg
/-- PITCH_CORE_CLEARED (R82): the cores left hold nothing of the pitch, and the command ends. -/
def execPitchCoreCleared (s : State) : Host.Outcome State Fault Refusal :=
  match s.port.wait with
  | .cores n => if s.port.busy && s.coresClear n then .next (s.ends 0) else .fault .notEnabled
  | _ => .fault .notEnabled
/-- Whether a safety layer, in force or to come, is enabled and names a pitch: the one its PASID had when it was set, be that
PASID closed since (R19, R429). -/
def Layer.names (l : Layer) (n : Nat) : Bool :=
  ((l.words, l.pitch) :: l.next.toList).any fun (ws, pitch) =>
    let w0 := ws.getD 0 0
    w0.getLsbD 59 && decide (2 ≤ field w0 56 3) && pitch == n
/-- Whether REMOVE may unconfigure a pitch (R19). -/
def State.mayRemove (s : State) (n : Nat) : Bool :=
  s.pasids.all (fun x => x.2.pitch != n) && s.graphs.all (fun x => !(x.2.enabled && x.2.pitch == n))
    && s.layers.all fun x => !x.2.names n
/-- REMOVE ends: the pitch's resources are free and its keys zero; its launches that never placed are forgotten. -/
def State.removeDone (s : State) (n : Nat) (p : Pitch) : State :=
  let s := (s.zeroKeys n).moveCores p.cores
  let forget (l : Launch) : Launch := if l.pitch = n then { l with done := true, pending := [] } else l
  ({ s with pitches := s.pitches.del n, pitched := true, launches := s.launches.mapV forget,
            replays := s.replays.filter fun (x : Nat × Nat × Nat) => s.pitchOf x.2.1 != some n }).ends 0
/-- PITCH_CFG with REMOVE: its work (R19). -/
def State.pitchRemove (s : State) : State :=
  let w := s.pitchRecord
  let n := field (w.getD 4 0) 0 4
  match s.pitches.get? n with
  | none => s.ends 2
  | some p =>
    let go (s : State) : State :=
      let s := s.endSavedAll n
      if s.endDone n then s.removeDone n p else { s with port := { s.port with wait := .ending [n] } }
    if s.port.wait ≠ .none then go s
    -- R19's own status, where R481's 0x1A0 would answer a command that configures (log entry 74)
    else if p.tdi ≠ .opened ∨ w ≠ [0, 0, 0, 0, BitVec.ofNat 64 (n + 256), 0, 0, 0] ∨ !s.mayRemove n then s.ends 2
    else
      let off (x : Nat × QRec) : Nat × QRec := if x.1 / 1024 = n then (x.1, { x.2 with active := false }) else x
      go (({ s with queues := s.queues.map off }).beginEnd n)
/-- PITCH_REMOVE (R19). -/
def execPitchRemove (blk : W64) (s : State) : Host.Outcome State Fault Refusal :=
  if s.removes then s.command blk 6 State.pitchRemove else .fault .notEnabled

/-! ### KEY_GRANT, TDI_STATE, DEBUG_SET (R477, R480, R481, R485) -/

/-- Whether a mapped page under a table uses a key index (R477). -/
def State.leafUses (s : State) (key : Nat) : Nat → Nat → Bool
  | 0, _ => false
  | level + 1, table => (List.range 512).any fun i =>
    let e : Pte := BitVec.ofNat 64 (s.rawRead (table + 8 * i) 8)
    if e.present && !e.leaf && decide (0 < level) then State.leafUses s key level e.base
    else (e.present || e.flashPend) && e.key == key
/-- KEY_GRANT's work (R477). -/
def State.keyGrant (s : State) : State :=
  let a := s.arg 0
  let key := field a 0 6
  let n := field a 8 4
  if (a &&& 0xFFFFFFFFFFFFE0C0) ≠ 0 ∨ s.arg 1 ≠ 0 ∨ s.arg 2 ≠ 0 then s.ends 2 else
  match s.pitches.get? n with
  | none => s.ends 2
  | some p =>
    let other := s.pitches.any fun x => x.1 != n && (x.2.keySlot == key || x.2.granted.contains key)
    if p.tdi ≠ .opened then s.ends 0x1A0
    else if other then s.ends 2
    else if a.getLsbD 12 then
      let used := s.pasids.any fun x => x.2.pitch == n && !x.2.closing && s.leafUses key 4 x.2.root
      if !p.granted.contains key ∨ used then s.ends 2
      else ({ s with pitches := s.pitches.set n { p with granted := p.granted.filter (· ≠ key) } }.zeroKey key).ends 0
    else ({ s with pitches := s.pitches.set n { p with granted := insertNat key p.granted } }.freshKey key).ends 0
/-- KEY_GRANT (R477). -/
def execKeyGrant (blk : W64) (s : State) : Host.Outcome State Fault Refusal := s.command blk 19 State.keyGrant
/-- The pitch a TDI_STATE names, if its arguments are in order. -/
def State.tdiPitch (s : State) : Option (Nat × Pitch) :=
  let a := s.arg 0
  if 128 ≤ a.toNat ∨ s.arg 1 ≠ 0 ∨ s.arg 2 ≠ 0 then none else (s.pitches.get? (field a 0 4)).map fun p => (field a 0 4, p)
/-- A TDI_STATE command with a request. -/
def State.tdiCmd (s : State) (blk : W64) (request : Nat) (go : State → State) : Host.Outcome State Fault Refusal :=
  if field (s.arg 0) 4 3 = request then s.command blk 20 go else .fault .notEnabled
/-- Whether a pitch is idle enough to be locked (R480). -/
def State.mayLock (s : State) (n : Nat) : Bool :=
  s.slots.all (fun x => x.2.queue / 1024 != n) && (s.wgsOf n).all (fun x => x.2.phase != .resident && x.2.phase != .saved)
    && s.copies.all fun x => s.pitchOf x.2.wg != some n
/-- TDI_STATE LOCK's work. -/
def State.tdiLock (s : State) : State :=
  match s.tdiPitch with
  | some (n, p) =>
    if p.tdi = .opened ∧ s.mayLock n then
      ({ s with pitches := s.pitches.set n { p with tdi := .locked, debug := 0 } }.freshKey p.keySlot).ends 0
    else s.ends 2
  | none => s.ends 2
/-- TDI_STATE LOCK (R480). -/
def execTdiStateLock (blk : W64) (s : State) : Host.Outcome State Fault Refusal := s.tdiCmd blk 0 State.tdiLock
/-- TDI_STATE START's work: never under device debug (R485). -/
def State.tdiStart (s : State) : State :=
  match s.tdiPitch with
  | some (n, p) =>
    if p.tdi = .locked ∧ s.dev3 = false then ({ s with pitches := s.pitches.set n { p with tdi := .run } }.qSchedule).ends 0
    else s.ends 2
  | none => s.ends 2
/-- TDI_STATE START (R480, R485). -/
def execTdiStateStart (blk : W64) (s : State) : Host.Outcome State Fault Refusal := s.tdiCmd blk 1 State.tdiStart
/-- TDI_STATE STOP's work: from Locked or Run first as ERROR; then Open with a fresh key. -/
def State.tdiStop (s : State) : State :=
  s.endingCmd (fun s => match s.tdiPitch with
    | some (n, p) => match p.tdi with
      | .opened => .inl (s.ends 2)
      | .error => .inr (s, [n])
      | _ => .inr (s.enterError n, [n])
    | none => .inl (s.ends 2)) fun s =>
    match s.tdiPitch with
    | some (n, p) => ({ s with pitches := s.pitches.set n { p with tdi := .opened } }.freshKey p.keySlot).ends 0
    | none => s.ends 2
/-- TDI_STATE STOP (R480). -/
def execTdiStateStop (blk : W64) (s : State) : Host.Outcome State Fault Refusal := s.tdiCmd blk 2 State.tdiStop
/-- TDI_STATE ERROR's work. -/
def State.tdiError (s : State) : State :=
  s.endingCmd (fun s => match s.tdiPitch with
    | some (n, p) => if p.tdi = .locked ∨ p.tdi = .run then .inr (s.enterError n, [n]) else .inl (s.ends 2)
    | none => .inl (s.ends 2)) fun s => s.ends 0
/-- TDI_STATE ERROR (R480). -/
def execTdiStateError (blk : W64) (s : State) : Host.Outcome State Fault Refusal := s.tdiCmd blk 3 State.tdiError
/-- DEBUG_SET's work (R477). -/
def State.debugSet (s : State) : State :=
  let a := s.arg 0
  match s.pitches.get? (field a 0 4) with
  | none => s.ends 2
  | some p =>
    if 64 ≤ a.toNat ∨ field a 4 2 = 3 ∨ s.arg 1 ≠ 0 ∨ s.arg 2 ≠ 0 then s.ends 2
    else if p.tdi ≠ .opened then s.ends 0x1A0
    else { s with pitches := s.pitches.set (field a 0 4) { p with debug := field a 4 2 } }.ends 0
/-- DEBUG_SET (R477). -/
def execDebugSet (blk : W64) (s : State) : Host.Outcome State Fault Refusal := s.command blk 21 State.debugSet

/-! ### Device debug (R477, R484, R486) -/

/-- DEBUG_CHALLENGE's work: 32 fresh bytes, kept as the one valid challenge. -/
def State.debugChallenge (s : State) : State :=
  let a := (s.arg 1).toNat
  if s.arg 0 ≠ 0 ∨ s.arg 2 ≠ 0 ∨ !inSram a 32 then s.ends 2
  else
    let bs := (List.range 32).map fun i => Config.drbg (s.drbgNo + i)
    ({ s with drbgNo := s.drbgNo + 32, challenge := some bs }.polPut a bs).ends 0
/-- DEBUG_CHALLENGE (R477). -/
def execDebugChallenge (blk : W64) (s : State) : Host.Outcome State Fault Refusal := s.command blk 22 State.debugChallenge
/-- Whether a debug token passes (R484). -/
def State.tokenOk (s : State) (t : List Byte) : Bool :=
  let zero (o n : Nat) : Bool := (slice t o n).all (· == 0)
  bytesAt t 0 4 == 0x5444544B && bytesAt t 4 4 == 1 && zero 8 8 && zero 0x40 64 && slice t 0x10 16 == s.devId
    && some (slice t 0x20 32) == s.challenge && s.signed (t.drop 128) (sha384 (t.take 128))
/-- DEBUG_TOKEN's work: the challenge is consumed; slot 23 is extended, every Locked or Run pitch enters Error, then
DEV3 is set (R484). -/
def State.debugTokenCmd (s : State) : State :=
  s.endingCmd (fun s =>
    let a := (s.arg 1).toNat
    if s.arg 0 ≠ 0 ∨ s.arg 2 ≠ 0 ∨ a % 8 ≠ 0 ∨ !inSram a 7552 then .inl (s.ends 2)
    else
      let t := s.polBytes a 7552
      let ok := s.tokenOk t
      let s := { s with challenge := none }
      if !ok then .inl (s.ends 0x1A1)
      else
        let s := s.extend 23 (sha384 (t.take 128))
        let ps := (s.pitches.filter fun (x : Nat × Pitch) => x.2.tdi == .locked || x.2.tdi == .run).map (·.1)
        .inr (ps.foldl (fun s n => s.enterError n) s, ps)) fun s => { s with dev3 := true }.ends 0
/-- DEBUG_TOKEN (R477, R484). -/
def execDebugToken (blk : W64) (s : State) : Host.Outcome State Fault Refusal := s.command blk 23 State.debugTokenCmd
/-- DEBUG_HALT's checks and its act on the group in a slot, its pair through the next checkpoint (R486). -/
def State.debugGroup (s : State) (op : Nat) (act : Group → Group) : State :=
  let a := s.arg 0
  let core := field a 0 7
  let slot := field a 7 6
  if 2 ^ 15 ≤ a.toNat ∨ s.arg 1 ≠ 0 ∨ s.arg 2 ≠ 0 ∨ 96 ≤ core ∨ 48 ≤ slot then s.ends 2
  else if s.debugLevel (s.coreOwner core) < 2 then s.ends 0x1A1
  else match s.groups.get? (gid core slot) with
    | none => s.ends 2
    | some g =>
      let s := s.wake core wakeDebug
      match s.pairOf g.wg with
      | none => (s.setGroup (gid core slot) (act g)).ends 0
      | some (k, p, lead) =>
        if op = 2 then
          let s := s.setGroup (gid core slot) (act g)
          let s := match s.groupOf (p.role (!lead)).wg g.gi with
            | some (j, h) => s.setGroup j (act h)
            | none => s
          (s.setPair k { p with dbg := p.dbg.filter fun x => x.1 != g.gi }).ends 0
        else ((s.setPair k { p with dbg := p.dbg ++ [(g.gi, op)] }).askCkpt k).ends 0
/-- A DEBUG_HALT command with a request. -/
def State.debugCmd (s : State) (blk : W64) (op : Nat) (act : Group → Group) : Host.Outcome State Fault Refusal :=
  if field (s.arg 0) 13 2 = op then s.command blk 24 fun s => s.debugGroup op act else .fault .notEnabled
/-- DEBUG_HALT (R486): the group halts at its next offset boundary. -/
def execDebugHalt (blk : W64) (s : State) : Host.Outcome State Fault Refusal :=
  s.debugCmd blk 0 fun g => { g with halted := true, stepReq := false }
/-- DEBUG_HALT with a step (R486): the group finishes an offset and halts again. -/
def execDebugStep (blk : W64) (s : State) : Host.Outcome State Fault Refusal :=
  s.debugCmd blk 1 fun g => { g with halted := true, stepReq := g.atBoundary }
/-- DEBUG_HALT with a resume (R486). -/
def execDebugResume (blk : W64) (s : State) : Host.Outcome State Fault Refusal :=
  s.debugCmd blk 2 fun g => { g with halted := false, stepReq := false }

/-! ### Power (R2, R25, R487–R489) -/

/-- Outstanding requests to a port complete with HOST_ABORT (R421): what waits on the host's answers fails. -/
def State.abortPort (s : State) (port : Nat) : State :=
  if port ≠ 0 then s else
  let reqs := s.atsReqs.map (·.2)
  let s := { s with atsReqs := [] }
  reqs.foldl (fun (s : State) (r : AtsReq) => r.waiters.foldl (fun s x => s.fail1 x r.kind r.va 0x2C 1) s) s
/-- A port goes down. -/
def State.downPort (s : State) (port : Nat) : State :=
  { s with ports := s.ports.modify port fun p => { p with width := 0 } }.abortPort port
/-- The exit from Standby (R489): queues map again and saved workgroups are restored. -/
def State.leaveStandby (s : State) : State :=
  let s := { s with power := .run, wakeHeld := false }
  (s.qSchedule.pitches.map (·.1)).foldl (fun s p => s.place p) s.qSchedule
/-- POWER_SET for Run (R477). -/
def execPowerSetRun (blk : W64) (s : State) : Host.Outcome State Fault Refusal :=
  if (s.arg 0).toNat % 4 ≠ 0 then .fault .notEnabled
  else s.command blk 25 fun s =>
    if s.arg 0 ≠ 0 ∨ s.arg 1 ≠ 0 ∨ s.arg 2 ≠ 0 then s.ends 2 else s.leaveIdle.ends 0
/-- Whether nothing runs any more: packets, resident workgroups, copies (R488). -/
def State.quiet (s : State) : Bool :=
  s.slots.all (fun x => !x.2.running) && s.wgs.all (fun x => x.2.phase != .resident) && s.copies.isEmpty
/-- POWER_SET for Standby: its work (R488). A WAKE held during entry begins the exit. -/
def State.standby (s : State) : State :=
  let go (s : State) : State :=
    if s.quiet then
      let s := ((s.mscForget.downPort 0).downPort 1).ends 0
      let s := { s with power := .standby, window := false }
      if s.wakeHeld then s.leaveStandby else s
    else s
  if s.port.wait = .standby then go s
  else if s.arg 0 ≠ 2 ∨ s.arg 1 ≠ 0 ∨ s.arg 2 ≠ 0 ∨ s.pitches.any (fun x => x.2.tdi == .locked || x.2.tdi == .run) then s.ends 2
  else
    let s := { s with port := { s.port with wait := .standby } }
    let s := (s.slots.filter fun (x : Nat × QSlot) => !x.2.running).foldl (fun (s : State) (x : Nat × QSlot) => s.unmapSlot x.1) s
    let s := (s.wgs.filter fun (x : Nat × Wg) => x.2.phase == .resident).foldl (fun (s : State) (x : Nat × Wg) => s.askPreempt x.1) s
    go s
/-- POWER_SET for Standby (R488). -/
def execPowerSetStandby (blk : W64) (s : State) : Host.Outcome State Fault Refusal :=
  if (s.arg 0).toNat % 4 ≠ 2 then .fault .notEnabled else s.command blk 25 State.standby
/-- WAKE_INPUT (R488, R489): out of Standby without the boot program; held while the device enters Standby. -/
def execWakeInput (s : State) : Host.Outcome State Fault Refusal :=
  if s.power = .standby then .next s.leaveStandby
  else if s.port.wait = .standby then .next { s with wakeHeld := true }
  else .next s
/-- The device after a loss of power: fuses, flash, the ROM and what lies beyond the links are kept, as it stands there (R478,
R487). -/
def State.powerOff (s : State) : State :=
  let s := ((s.msc.map (·.1)).filter fun line => (targetOf (line * 128)).port.isSome).foldl (fun s line => s.mscDrop line fun _ => false) s
  let kept (a : Nat) : Bool := (decide (0x400000000000 ≤ a) && decide (a < 2 ^ 48))
    || (decide (polKey 0 ≤ a) && decide (a < polKey 0x40000)) || (decide (polKey 0x10000000 ≤ a) && decide (a < polKey 0x50000000))
  { State.reset with
    power := .off, mem := s.mem.filter fun c => kept c.1,
    keyHash := s.keyHash, minSvn := s.minSvn, devId := s.devId, msix := s.msix, reply := s.reply,
    stepNo := s.stepNo, drbgNo := s.drbgNo, nextId := s.nextId, inbox := s.inbox }
/-- POWER_LOSS (R25, R487): the device is Off; keys and measurements are lost. -/
def execPowerLoss (s : State) : Host.Outcome State Fault Refusal := .next s.powerOff
/-- POWER_GOOD (R25): the boot program starts from reset. -/
def execPowerGood (s : State) : Host.Outcome State Fault Refusal :=
  if s.power = .off then .next { s with power := .run } else .fault .notEnabled
/-- POWER_MANAGER_CLOCKS (R2): the clocks change, and no instruction's behaviour with them. -/
def execPowerManagerClocks (half : Bool) (s : State) : Host.Outcome State Fault Refusal := .next { s with clkHalf := half }

end Sys2Proof.Machine
end

