-- ==== Sys2Proof/Machine/Links.lean ====
section
/-! DEFINITION. Functions and PASIDs, communicators, ports, and what comes in over the links (18 R373, 20 R396,
21 R411–R421, 27 R471, R472). -/

namespace Sys2Proof.Machine
open Sys2Proof

/-! ### PASID contexts (R414–R417) -/

/-- Whether a pitch is Open: system commands may change its interface (R480, R481). -/
def State.isOpen (s : State) (p : Nat) : Bool :=
  match s.pitches.get? p with
  | some x => x.tdi == .opened
  | none => true
/-- PASID_SET's work (R414, R481). -/
def State.pasidSet (s : State) : State :=
  let a := s.arg 0
  let r := s.arg 1
  let pasid := field a 0 20
  let func := field a 20 6
  let pitch := field a 26 4
  let root := r.toNat
  let old := s.pasids.get? pasid
  let bound := s.vfs.get? func
  if !s.isOpen pitch ∨ (old.map fun c => s.isOpen c.pitch) = some false ∨ (bound.map fun p => s.isOpen p) = some false then
    s.ends 0x1A0
  else if field a 32 31 ≠ 0 ∨ pasid = 0 ∨ 33 ≤ func ∨ (s.pitches.get? pitch).isNone ∨ root % 4096 ≠ 0 ∨ 2 ^ 48 ≤ root
      ∨ (bound.map fun p => p == pitch) = some false ∨ (s.dramSize ≤ root ∧ root ≠ 0) ∨ (root = 0 ∧ old.isNone) then s.ends 2
  else
    let keep := if root = 0 then (old.map (·.root)).getD 0 else root
    let ctx : PasidCtx := ⟨keep, func, pitch, a.getLsbD 30, a.getLsbD 31, false⟩
    let s := { s with pasids := s.pasids.set pasid ctx, vfs := if func = 0 then s.vfs else s.vfs.set func pitch }
    s.ends 0
/-- PASID_SET (R414): creates or replaces a context. -/
def execPasidSet (blk : W64) (s : State) : Host.Outcome State Fault Refusal :=
  if (s.arg 0).getLsbD 63 then .fault .notEnabled else s.command blk 10 State.pasidSet
/-- Mark a PASID closing (R416, R417): its queues start no packet, what waits on a page of it fails with PASID_CLOSING,
and its translations go. -/
def State.closePasid (s : State) (pasid : Nat) : State :=
  let s := { s with pasids := s.pasids.modify pasid fun c => { c with closing := true } }
  let mine := s.faults.filter fun f => f.pasid == pasid
  let s := { s with faults := s.faults.filter fun f => f.pasid != pasid }
  let s := mine.foldl (fun (s : State) (f : PageFault) => s.fail1 f.waiter f.kind f.va 0xA3 0) s
  let asked := s.atsReqs.filter fun (x : Nat × AtsReq) => x.2.pasid == pasid
  let s := asked.foldl (fun (s : State) (x : Nat × AtsReq) =>
    x.2.waiters.foldl (fun (s : State) w => s.fail1 w x.2.kind x.2.va 0xA3 0) s) s
  let drop (r : AtsReq) : AtsReq := if r.pasid = pasid then { r with waiters := [] } else r
  { s with atsReqs := s.atsReqs.mapV drop }.tlbInval pasid none
/-- PASID_SET with CLOSE: its work (R416, R417, R481). -/
def State.pasidClose (s : State) : State :=
  let a := s.arg 0
  let pasid := field a 0 20
  if s.port.wait ≠ .none then s else
  match s.pasids.get? pasid with
  | none => s.ends 2
  | some c =>
    let locked := match s.pitches.get? c.pitch with
      | some p => p.tdi == .locked || p.tdi == .run
      | none => false
    if locked = true then s.ends 0x1A0
    else if field a 32 31 ≠ 0 ∨ pasid = 0 ∨ 33 ≤ field a 20 6 then s.ends 2
    else
      let s := s.closePasid pasid
      { s with port := { s.port with wait := .drain pasid } }
/-- PASID_CLOSE (R417): starts the teardown of a PASID. -/
def execPasidClose (blk : W64) (s : State) : Host.Outcome State Fault Refusal :=
  if !(s.arg 0).getLsbD 63 then .fault .notEnabled else s.command blk 10 State.pasidClose
/-- Whether every request of a PASID has been answered or dropped (R417). -/
def State.drained (s : State) (pasid : Nat) : Bool :=
  let mine (u : Nat) : Bool := match s.wgs.get? u with
    | some w => w.pasid == pasid && w.phase != .saved
    | none => false
  s.accs.all (fun x => !mine x.2.wg || (match x.2.phase with
      | .failed .. => true
      | _ => false))
    && s.copies.all (fun x => !(mine x.2.wg && x.2.phase == .running))
    && s.slots.all (fun x => !(x.2.running && (s.qrec x.2.queue).pasid == pasid))
/-- PASID_DRAIN_ACK (R417): the base die has drained the closing PASID; its context is free. -/
def execPasidDrainAck (s : State) : Host.Outcome State Fault Refusal :=
  match s.port.wait with
  | .drain pasid =>
    if !s.port.busy ∨ !s.drained pasid then .fault .notEnabled
    else
      let s := { s with pasids := s.pasids.del pasid, atsReqs := s.atsReqs.filter fun x => x.2.pasid != pasid }
      .next (s.ends 0)
  | _ => .fault .notEnabled

/-! ### Communicators (R420) -/

/-- Read a number of device memory under a key index. -/
def State.commEntry (s : State) (key a : Nat) : Bool × Nat :=
  let e := s.getKey key a 8
  (e % 2 == 1, e / 256 % 2 ^ 40 * 256)
/-- COMM_CFG's work (R420). Entries are read under the pitch's KEYSLOT. -/
def State.commCfg (s : State) : State :=
  let a := s.arg 0
  let table := (s.arg 1).toNat
  let pitch := field a 12 4
  let n := field a 16 8
  let first := field a 24 8
  match s.pitches.get? pitch with
  | none => s.ends 2
  | some p =>
    if field a 32 32 ≠ 0 ∨ n < 2 ∨ s.dramSize < table + 8 * n then s.ends 2
    else
      let ranks := (List.range n).map fun i => s.commEntry p.keySlot (table + 8 * i)
      let locals := (ranks.filter fun r => !r.1).length
      if n < first + locals then s.ends 2
      else { s with comms := s.comms.set (pitch * 4096 + field a 0 12) ⟨pitch, first, ranks⟩ }.ends 0
/-- COMM_CFG (R420). -/
def execCommCfg (blk : W64) (s : State) : Host.Outcome State Fault Refusal := s.command blk 11 State.commCfg

/-! ### Ports (R413, R421) -/

/-- A port's word of LINK_STAT (R421). -/
def State.linkWord (s : State) (port : Nat) : W64 :=
  let p := s.ports.getD port ⟨0, 0, 0⟩
  BitVec.ofNat 64 (p.width % 32 + p.mode % 4 * 2 ^ 8 + sat16 p.retrains * 2 ^ 16)
/-- LINK_STAT (R421). -/
def execLinkStat (blk : W64) (s : State) : Host.Outcome State Fault Refusal :=
  s.command blk 12 fun s =>
    if 2 ≤ (s.arg 0).toNat then s.ends 2 else s.finish 0 [(1, s.linkWord (s.arg 0).toNat)]
/-- Widths a port trains at (R411). -/
def widths : List Nat := [16, 8, 4, 2, 1]
/-- Modes each port has (R411, R421). -/
def portModes (port : Nat) : List Nat := if port = 0 then [0, 1] else [2, 3]
/-- LINK_TRAINED (R413, R421): a port is up; from port 0's training on the management window answers. -/
def execLinkTrained (port width mode : Nat) (s : State) : Host.Outcome State Fault Refusal :=
  if 2 ≤ port ∨ !widths.contains width ∨ !(portModes port).contains mode ∨ (s.ports.getD port ⟨0, 0, 0⟩).width ≠ 0
      ∨ s.power = .off then .fault .notEnabled
  else
    let retrains := (s.ports.getD port ⟨0, 0, 0⟩).retrains
    .next { s with ports := s.ports.set port ⟨width, mode, retrains⟩, window := s.window || port == 0 }
/-- Count an event of the links in record 16; it has no cause of its own (R421, R448). -/
def State.countLink (s : State) : State :=
  let e := s.errRec deviceRec
  { s with errs := s.errs.set deviceRec { e with link := sat16 (e.link + 1) } }
/-- LINK_RETRAIN (R421): a port narrows; no access is lost. -/
def execLinkRetrain (port width : Nat) (s : State) : Host.Outcome State Fault Refusal :=
  match s.ports.get? port with
  | some p =>
    if !widths.contains width ∨ p.width ≤ width then .fault .notEnabled
    else .next { s with ports := s.ports.set port { p with width, retrains := sat16 (p.retrains + 1) } }.countLink
  | none => .fault .notEnabled
/-- PORT_DOWN (R421): outstanding requests complete with HOST_ABORT. -/
def execPortDown (port : Nat) (s : State) : Host.Outcome State Fault Refusal :=
  match s.ports.get? port with
  | some p => if p.width = 0 then .fault .notEnabled else .next (s.downPort port).countLink
  | none => .fault .notEnabled
/-- The pitches whose interface a function carries: a VF's pitch, and those of its PASIDs (R414). -/
def State.pitchesOf (s : State) (func : Nat) : List Nat :=
  dedup ((s.vfs.get? func).toList ++ (s.pasids.filter fun x => x.2.func == func).map (·.2.pitch))
/-- IDE_INTEGRITY_FAILURE (R419, R480): a stream becomes insecure; its pitch, if Locked or Run, enters Error. -/
def execIdeIntegrityFailure (stream : Nat) (s : State) : Host.Outcome State Fault Refusal :=
  match s.ide.get? stream with
  | none => .fault .notEnabled
  | some x =>
    let s := { s with ide := s.ide.set stream { x with secure := false } }
    .next ((s.pitchesOf x.func).foldl (fun (s : State) p =>
      match s.pitches.get? p with
      | some y => if y.tdi = .locked ∨ y.tdi = .run then s.enterError p else s
      | none => s) s)

/-! ### Accesses of the host and of a peer (R396, R411–R413, R418) -/

/-- The key index a host or peer access of device memory is made under: that of the sector as it stands
(log entry 23). -/
def State.sectorKey (s : State) (a : Nat) : Nat :=
  match s.keyTags.get? (a / 64) with
  | some t => t.idx
  | none => 0
/-- Read device memory for a link; an uncorrectable sector is counted (R445). -/
def State.linkRead (s : State) (a n : Nat) : State × List Byte :=
  let secs := dedup ((List.range n).map fun k => (a + k) / 64)
  let bs := (List.range n).map fun k => s.memByte (s.sectorKey (a + k)) (a + k)
  (secs.foldl (fun (s : State) x => s.countUe (s.sectorKey (64 * x)) (64 * x)) s, bs)
/-- Write device memory for a link. -/
def State.linkWrite (s : State) (a : Nat) (bs : List Byte) : State :=
  let s := (bs.zipIdx).foldl (fun (s : State) (b, k) => s.setMemByte (s.sectorKey (a + k)) (a + k) b) s
  s.clearPoison ((List.range bs.length).map (a + ·))
/-- Base of a function's BAR in this model: function 0 is PF 0; BAR 3 stands for its configuration registers
(log entry 4). -/
def barBase (func bar : Nat) : Nat := 0x300000000000 + func * 0x100000 + bar * 0x40000
/-- What a host read of an aligned 8 bytes of a BAR returns (R413). -/
def State.barRead (s : State) (func bar ofs : Nat) : W64 :=
  if func = 0 ∧ bar = 0 ∧ s.window then
    if ofs = 0x10 then s.port.bootprog else if ofs = 0x18 then (if s.port.ready then 1 else 0) else 0
  else 0
/-- A host write of an aligned 8 bytes of a BAR, or of a configuration register (R413, R418, R419): BAR 3 offset 0
is AtomicOp Requester Enable; offset 8 · (n + 1) configures IDE stream n: bit 0 in use, bit 1 secure, bit 2 the port. -/
def State.barWrite (s : State) (func bar ofs : Nat) (v : W64) : State :=
  if bar = 2 then
    let pitch := if func = 0 then some (ofs / 8192) else s.vfs.get? func
    match pitch with
    | none => s
    | some p =>
      if (func = 0 ∧ (16 * 8192 ≤ ofs ∨ s.vfs.any fun x => x.2 == p)) ∨ (func ≠ 0 ∧ 8192 ≤ ofs) then s
      else s.doorbell (p * 1024 + ofs % 8192 / 8) v
  else if bar = 3 ∧ ofs = 0 then
    { s with atomicReq := if v.getLsbD 0 then func :: s.atomicReq.filter (· ≠ func) else s.atomicReq.filter (· ≠ func) }
  else if bar = 3 ∧ ofs ≤ 64 then
    let n := ofs / 8 - 1
    { s with ide := if v.getLsbD 0 then s.ide.set n ⟨func, if v.getLsbD 2 then 1 else 0, v.getLsbD 1⟩ else s.ide.del n }
  else s
/-- A byte of its own memory as the host or the peer reads it: what the device has not yet written back is not there, but for a
line that back-invalidation keeps coherent (R395, R396). -/
def State.ownByte (s : State) (a : Nat) : Byte := if backInval a then s.byte a else s.farByte a
/-- Whether `n` bytes of memory lie behind a port, on lines that the device keeps coherent of itself (R380, R396). -/
def ownRange (port a n : Nat) : Bool :=
  (targetOf a).port == some port && (targetOf (a + n - 1)).port == some port && (List.range n).all fun k => isSystem (a + k)
/-- HOST_OR_PEER_ACCESS (R396, R412, R413): a read or write of the host or a peer. Device memory is reached over the port as it
stands at the slices; a BAR takes aligned 8-byte accesses of the host alone; its own memory it reaches as it stands there; what
answers at no address is unsupported and returns nothing. A read leaves its bytes in `reply`. -/
def execHostOrPeerAccess (port : Nat) (addr : BitVec 48) (len : Nat) (data : Option (List Byte)) (s : State) :
    Host.Outcome State Fault Refusal :=
  let a := addr.toNat
  if (s.ports.getD port ⟨0, 0, 0⟩).width = 0 ∨ (data.map fun bs => bs.length == len) = some false then .fault .notEnabled
  else if a + len ≤ s.dramSize then
    match data with
    | some bs => .next (s.linkWrite a bs)
    | none => .next { (s.linkRead a len).1 with reply := (s.linkRead a len).2 }
  else if port = 0 ∧ barBase 0 0 ≤ a ∧ a < barBase 33 0 then
    let func := (a - barBase 0 0) / 0x100000
    let bar := a % 0x100000 / 0x40000
    let ofs := a % 0x40000
    match data with
    | some bs => if len = 8 ∧ a % 8 = 0 then .next (s.barWrite func bar ofs (BitVec.ofNat 64 (leNat bs))) else .next s
    | none =>
      .next { s with reply := if len = 8 ∧ a % 8 = 0 then leBytes 8 (s.barRead func bar ofs).toNat else List.replicate len 0 }
  else if (targetOf a).port = some port ∧ (targetOf (a + len - 1)).port = some port then
    match data with
    | some bs =>
      if ownRange port a len then
        .next (((bs.zipIdx).foldl (fun (s : State) (b, k) => s.setFarByte (a + k) b) s).clearPoison ((List.range len).map (a + ·)))
      else .fault .notEnabled
    | none => .next { s with reply := (List.range len).map fun k => s.ownByte (a + k) }
  else .next (if data.isNone then { s with reply := [] } else s)
/-- The value an AtomicOp leaves: 0 FetchAdd, 1 Swap, 2 CAS (R411). -/
def atomicOp (op size : Nat) (m v cmp : Nat) : Nat :=
  if op = 0 then (m + v) % 2 ^ (8 * size) else if op = 1 then v % 2 ^ (8 * size)
  else if m = cmp % 2 ^ (8 * size) then v % 2 ^ (8 * size) else m
/-- HOST_ATOMIC (R418): an AtomicOp of the host on device memory is applied at the slice as a one-element unit; one
on poison is not applied (R390). Its old value is in `reply`. -/
def execHostAtomic (addr : BitVec 48) (op size : Nat) (v cmp : BitVec 128) (s : State) : Host.Outcome State Fault Refusal :=
  let a := addr.toNat
  if (s.ports.getD 0 ⟨0, 0, 0⟩).width = 0 ∨ 3 ≤ op ∨ !(size = 4 || size = 8 || (size = 16 && op = 2)) then .fault .notEnabled
  else if a % size ≠ 0 ∨ s.dramSize < a + size then .next { s with reply := [] }
  else if s.poisoned a then .next { (s.linkRead a size).1 with reply := List.replicate size 0 }
  else
    let old := leNat (s.linkRead a size).2
    .next { s.linkWrite a (leBytes size (atomicOp op size old v.toNat cmp.toNat)) with reply := leBytes size old }
/-- BACK_INVALIDATION (R373): a host write to a line that back-invalidation keeps coherent: every device copy of the
line goes, its dirty bytes written back, before the bytes change and a monitor can see them. -/
def execBackInvalidation (line : BitVec 48) (data : List Byte) (s : State) : Host.Outcome State Fault Refusal :=
  let a := line.toNat
  if !backInval a ∨ 64 < a % 64 + data.length then .fault .notEnabled
  else .next (((s.flushEverywhere a).mscEvict (a / 128)).rawBytes a data)

/-! ### The DOE mailbox (R471, R472) -/

/-- Vendor ID and type of a DOE object. -/
def doeKind (words : List W32) : Nat × Nat :=
  let w := (words.headD 0).toNat
  (w % 2 ^ 16, w / 2 ^ 16 % 256)
/-- The active queue pinned to slot 63, if its pitch runs work. -/
def State.doeQueue (s : State) : Option (Nat × QRec) :=
  s.queues.findBy fun _ r => r.active && r.pin && r.pinSlot == 63 && (match s.pitches.get? r.pitch with
    | some p => p.tdi == .opened || p.tdi == .run
    | none => false)
/-- Discard an object: DOE Error. -/
def State.doeDiscard (s : State) : State := { s with doe := { s.doe with error := true } }
/-- Whether the mailbox accepts no request now: one stands, a response is unread, or others wait (R471). -/
def State.doeBusy (s : State) : Bool := s.doe.busy || s.doe.resp.isSome || !s.doe.waiting.isEmpty
/-- Leave a request in the mailbox (R476). -/
def State.doeWait (s : State) (words : List W32) : State :=
  { s with doe := { s.doe with waiting := s.doe.waiting ++ [words] } }
/-- DOE_REQUEST (R471, R476): an object other than a discovery is written to the next packet of the pinned queue's
ring and TAIL advances, or it is discarded. While a request stands, until its response is read, it waits. -/
def execDoeRequest (words : List W32) (s : State) : Host.Outcome State Fault Refusal :=
  if doeKind words = (1, 0) then .fault .notEnabled
  else if s.doeBusy then .next (s.doeWait words)
  else if doeKind words ≠ (1, 1) ∨ 16 < words.length then .next s.doeDiscard
  else match s.doeQueue with
    | none => .next s.doeDiscard
    | some (q, r) =>
      let bs := (words.map fun w => leBytes 4 w.toNat).flatten
      let at_ := r.slotVa r.tail.toNat
      match s.fwWrite r.pasid at_ (bs ++ List.replicate (64 - bs.length) 0) with
      | (s, false) => .next s
      | (s, true) =>
        let s := { s with doe := { s.doe with busy := true } }
        .next (s.doorbell q ((r.tail + 1).zeroExtend 64))
/-- DOE_DISCOVERY (R471): the mailbox answers a discovery object itself: index 0 is discovery, index 1 CMA/SPDM, and
index 0 follows. -/
def execDoeDiscovery (words : List W32) (s : State) : Host.Outcome State Fault Refusal :=
  if doeKind words ≠ (1, 0) then .fault .notEnabled
  else if s.doeBusy then .next (s.doeWait words)
  else
    let index := (words.getD 2 0).toNat % 256
    let body : W32 := if index = 0 then 0x01000001 else if index = 1 then 0x00010001 else 0x0000FFFF
    .next { s with doe := { s.doe with resp := some [0x00000001, 3, body] } }
/-- The oldest request that waits, accepted once the mailbox is free (R471, R476). -/
def State.doeAccept (s : State) : Option State :=
  match s.doe.waiting with
  | [] => none
  | ws :: rest =>
    if s.doe.busy ∨ s.doe.resp.isSome then none else
    match (if doeKind ws = (1, 0) then execDoeDiscovery ws else execDoeRequest ws)
        { s with doe := { s.doe with waiting := [] } } with
    | .next s' => some { s' with doe := { s'.doe with waiting := rest } }
    | _ => none
/-- DOE_RESPONSE_READ (R471): the host reads the response object, and the mailbox may take a request. -/
def execDoeResponseRead (s : State) : Host.Outcome State Fault Refusal :=
  match s.doe.resp with
  | none => .fault .notEnabled
  | some ws => .next { s with doe := { s.doe with resp := none }, reply := (ws.map fun w => leBytes 4 w.toNat).flatten }
/-- DOE_ABORT (R472): the response object is discarded, and so is one that the running packet will send. -/
def execDoeAbort (s : State) : Host.Outcome State Fault Refusal :=
  .next { s with doe := { s.doe with resp := none, drop := s.doe.busy } }

end Sys2Proof.Machine
end

