-- ==== Sys2Proof/Machine/Errors.lean ====
section
/-! DEFINITION. Error records, fault injection, corrected sectors and failing channels (24 R444–R455). -/

namespace Sys2Proof.Machine
open Sys2Proof

/-- An error record as its 16 words (R448); `n` is its number. -/
def State.errWords (s : State) (n : Nat) : List W64 :=
  let e := s.errRec n
  let w (x : Nat) : W64 := BitVec.ofNat 64 x
  [w (e.ce + e.ue * 2 ^ 16 + e.ueEvict * 2 ^ 32 + e.red * 2 ^ 48),
   w (e.sig + e.quar * 2 ^ 16 + e.stFail * 2 ^ 32 + e.matChk * 2 ^ 48),
   w (e.audit + e.degraded * 2 ^ 16 + e.link * 2 ^ 32),
   w (e.lastCause.toNat + e.core * 2 ^ 8 + e.core2 * 2 ^ 15),
   w e.lastTime,
   w (e.lastPa % 2 ^ 48 + e.key % 2 ^ 6 * 2 ^ 48),
   e.retired.truncate 64, w (e.retired.toNat / 2 ^ 64),
   w (s.retCh.toNat + s.retPipe.toNat * 2 ^ 32),
   w (if n = deviceRec then s.failCh.toNat else 0)] ++ List.replicate 6 0
/-- A record with words 0 to 5 zeroed (R448). -/
def ErrRec.cleared (e : ErrRec) : ErrRec :=
  { e with
    ce := 0, ue := 0, ueEvict := 0, red := 0, sig := 0, quar := 0, stFail := 0, matChk := 0, audit := 0, degraded := 0,
    link := 0, lastCause := 0, core := 0, core2 := 0, lastTime := 0, lastPa := 0, key := 0 }
/-- ERRREC_READ's work (R448): the copy, and the clear in the same step. -/
def State.errrecRead (s : State) : State :=
  let a := s.arg 0
  let n := field a 0 5
  let dst := (s.arg 1).toNat
  if field a 5 3 ≠ 0 ∨ field a 9 55 ≠ 0 ∨ deviceRec < n ∨ dst % 8 ≠ 0 ∨ !inSram dst 128 then s.ends 2
  else
    let s1 := if a.getLsbD 8 then { s with errs := s.errs.set n (s.errRec n).cleared } else s
    (s1.polPut dst (bytesOf (s.errWords n))).ends 0
/-- ERRREC_READ (R448). -/
def execErrrecRead (blk : W64) (s : State) : Host.Outcome State Fault Refusal := s.command blk 16 State.errrecRead

/-- FAULT_INJECT's work (R449, R481, R482). -/
def State.faultInject (s : State) : State :=
  let a := s.arg 0
  let b := s.arg 1
  let core := field a 0 7
  let slot := field a 7 6
  let mode := field a 31 2
  let cancel := a.getLsbD 33
  let query := a.getLsbD 34
  let nth := field b 24 16
  let owner := s.pitches.findBy fun _ p => p.cores.getLsbD core
  let level := match owner with
    | some (n, _) => s.debugLevel n
    | none => if s.dev3 then 3 else 0
  if field a 35 29 ≠ 0 ∨ field b 40 24 ≠ 0 ∨ 96 ≤ core ∨ 48 ≤ slot ∨ mode = 3 ∨ (mode = 0 ∧ nth = 0 ∧ !cancel ∧ !query) then s.ends 2
  else if (owner.map fun x => x.2.tdi == .opened) = some false then s.ends 0x1A0
  else if level < 2 then s.ends 0x1A1
  else
    let x := s.core core
    let j : Inject := ⟨slot, field a 13 8, field a 21 5, field a 26 5, mode, some (field b 0 24), nth⟩
    let inject := if cancel then none else if query then x.inject else some j
    (s.setCore core { x with inject }).finish 0 [(2, BitVec.ofNat 64 (x.firings % 2 ^ 16))]
/-- FAULT_INJECT (R449). -/
def execFaultInject (blk : W64) (s : State) : Host.Outcome State Fault Refusal := s.command blk 17 State.faultInject

/-- ECC_SECTOR_REWRITE (R444): a corrected sector is written back corrected; its owner's CE counts it. No bit that a
program can read changes. -/
def execEccSectorRewrite (sector : Nat) (s : State) : Host.Outcome State Fault Refusal :=
  if s.dramSize ≤ 64 * sector ∨ s.poisoned (64 * sector) then .fault .notEnabled
  else
    let n := match s.keyTags.get? sector with
      | some t => s.keyOwner t.idx
      | none => deviceRec
    let e := s.errRec n
    .next { s with errs := s.errs.set n { e with ce := sat16 (e.ce + 1) } }

/-! ### Evictions and uncorrectable errors (R377, R379, R445, R447; log entries 94 and 99) -/

/-- The sectors of a line in which bytes are dirty. -/
def dirtySectors (line : Nat) (dirty : BitVec 128) : List Nat :=
  (if dirty.extractLsb' 0 64 = 0 then [] else [2 * line]) ++ (if dirty.extractLsb' 64 64 = 0 then [] else [2 * line + 1])
/-- DRAM_UE_EVICT (R447): an uncorrectable error is found in a sector as it is written back. It stands poisoned, its owner's
record counts it, and nothing else happens. -/
def State.evictError (s : State) (key sec : Nat) : State :=
  (s.addPoison sec).chargeSector key (64 * sec) 0x8A fun e => { e with ueEvict := sat16 (e.ueEvict + 1) }
/-- A line leaves an L1 of itself, in order or with an error in a dirty sector. -/
def State.l1Evictions (s : State) : List State :=
  match s.l1[Config.victim s.stepNo s.l1.length % s.l1.length]? with
  | some (k, l) => s.evictL1 k :: (dirtySectors (k % 2 ^ 41) l.dirty).map fun sec => (s.evictL1 k).evictError l.key sec
  | none => []
/-- A combining buffer performs what it holds of a line, of itself: every store reaches its point of coherence (R377, R395). -/
def State.wcDrains (s : State) : List State :=
  match s.wc[Config.victim s.stepNo s.wc.length % s.wc.length]? with
  | some (k, _) => [s.drainWc fun j => j / 128 == k / 128]
  | none => []
/-- A line leaves the memory-side cache of itself, in order or with an error in a dirty sector. -/
def State.mscEvictions (s : State) : List State :=
  match s.msc[Config.victim s.stepNo s.msc.length % s.msc.length]? with
  | some (line, l) => s.mscEvict line :: (dirtySectors line l.dirty).map fun sec => (s.mscEvict line).evictError l.key sec
  | none => []
/-- A sector of DRAM that has been written, and that no cache holds, is no longer correctable: every read of it meets the
error (R381, R445). -/
def State.dramErrors (s : State) : List State :=
  match s.keyTags[Config.victim s.stepNo s.keyTags.length % s.keyTags.length]? with
  | some (sec, _) =>
    if (s.msc.get? (sec / 2)).isSome ∨ s.l1.any (fun x => x.1 % 2 ^ 41 == sec / 2) then [] else [s.addPoison sec]
  | none => []

/-- The leaves of a page table below a table, with the page each maps: page number and address of the leaf (R382). -/
def State.leavesOf (s : State) : Nat → Nat → Nat → List (Nat × Nat × Pte)
  | 0, _, _ => []
  | level + 1, table, va =>
    ((List.range 512).map fun i =>
      let a := table + 8 * i
      let e : Pte := BitVec.ofNat 64 (s.rawRead a 8)
      let v := va + i * 2 ^ levelSize (level + 1)
      if !e.present ∨ e.bad (level + 1) s.dramSize then []
      else if e.leaf then (if level = 0 then [(v, a, e)] else [])
      else State.leavesOf s level e.base v).flatten
/-- Move the 4 KiB pages mapped on a channel to other channels (R455): a frame that several leaves map moves once. -/
def State.emptyChannel (s : State) (ch : Nat) : State :=
  let pages := (s.pasids.map fun (p, ctx) => (s.leavesOf 4 ctx.root 0).map fun x => (p, x)).flatten
  let on := pages.filter fun x => targetOf x.2.2.2.base == .dram && s.channelOf x.2.2.2.base == ch
  (on.foldl (fun (r : State × List (Nat × Nat)) (x : Nat × Nat × Nat × Pte) =>
    let (s, moved) := r
    let (pasid, va, a, e) := x
    match moved.find? fun m => m.1 == e.base with
    | some (_, f) =>
      ((s.tlbInval pasid (some (va / 4096, 1))).rawWrite a 8 ((e &&& 0xFFFF000000000FFF) ||| BitVec.ofNat 64 f).toNat, moved)
    | none =>
      let (f, s) := s.takeFrame
      ((s.migrate pasid (BitVec.ofNat 48 va) (BitVec.ofNat 48 f)).getD s, (e.base, f) :: moved)) (s, [])).1
/-- CHANNEL_FAILING (R455): more than 16 uncorrectable sectors of a channel within 1 s mark it; the firmware moves its
pages and withholds its frames. -/
def execChannelFailing (channel : Nat) (s : State) : Host.Outcome State Fault Refusal :=
  let mine := s.ueLog.filter fun x => s.channelOf (64 * x.1) == channel
  let last := mine.foldl (fun (m : Nat) (x : Nat × Nat) => max m x.2) 0
  let here := mine.filter fun x => decide (last ≤ x.2 + 1000000000)
  if 32 ≤ channel ∨ s.retCh.getLsbD channel ∨ s.failCh.getLsbD channel ∨ here.length ≤ 16 then .fault .notEnabled
  else .next ({ s with failCh := s.failCh ||| (1#32 <<< channel) }.emptyChannel channel)

end Sys2Proof.Machine
end

