-- ==== Sys2Proof/Machine/Display.lean ====
section
/-! DEFINITION. The display engine: surfaces, layers, frame starts, Lantern and failover (22, 23 R426–R443, 24 R456). -/

namespace Sys2Proof.Machine
open Sys2Proof

/-! ### Layer descriptors (R428) -/

/-- ENABLE of a layer descriptor. -/
def lEnable (w : List W64) : Bool := (w.getD 0 0).getLsbD 59
/-- TAG. -/
def lTag (w : List W64) : Nat := field (w.getD 0 0) 56 3
/-- Whether a layer is a safety layer. -/
def lSafe (w : List W64) : Bool := decide (2 ≤ lTag w)
/-- FORMAT. -/
def lFormat (w : List W64) : Nat := field (w.getD 0 0) 48 8
/-- The buffer of render A or B. -/
def lBuf (w : List W64) (b : Bool) : W64 := BitVec.ofNat 64 (field (w.getD b.toNat 0) 0 48)
/-- Position and size. -/
def lX (w : List W64) : Nat := field (w.getD 2 0) 0 16
@[inherit_doc lX] def lY (w : List W64) : Nat := field (w.getD 2 0) 16 16
@[inherit_doc lX] def lW (w : List W64) : Nat := field (w.getD 2 0) 32 16 + 1
@[inherit_doc lX] def lH (w : List W64) : Nat := field (w.getD 2 0) 48 16 + 1
/-- PITCH, BITMAP, NOBITMAP and PASID. -/
def lPitch (w : List W64) : Nat := field (w.getD 3 0) 0 32
@[inherit_doc lPitch] def lBitmap (w : List W64) : Nat := field (w.getD 3 0) 32 6
@[inherit_doc lPitch] def lNoBitmap (w : List W64) : Bool := (w.getD 3 0).getLsbD 38
@[inherit_doc lPitch] def lPasid (w : List W64) : Nat := field (w.getD 3 0) 40 20
/-- The done words of render A or B. -/
def lDone (w : List W64) (b : Bool) : W64 := BitVec.ofNat 64 (field (w.getD (4 + b.toNat) 0) 0 48)
/-- The cores of render A or B. -/
def lCores (w : List W64) (b : Bool) : List Nat :=
  let m := w.getD (6 + b.toNat) 0
  ((List.range 48).filter fun k => m.getLsbD k).map fun k => 48 * field m 48 1 + k
/-- A mask word that names some cores of one die, or of the lowest core's. -/
def maskWord (cores : List Nat) : W64 :=
  let die := (cores.headD 0) / 48
  cores.foldl (fun m c => if c / 48 = die then m ||| (1#64 <<< (c % 48)) else m) (BitVec.ofNat 64 (die * 2 ^ 48))
/-- Tiles in a row, and in all. -/
def lTw (w : List W64) : Nat := lW w / 64
@[inherit_doc lTw] def lTiles (w : List W64) : Nat := lTw w * (lH w / 64)

/-! ### Signatures (R431, R436) -/

/-- The sums of R431 over 32-bit pixels, `n` pixels to go. -/
def sigSums : List Byte → Nat → Nat × Nat → Nat × Nat
  | b0 :: b1 :: b2 :: b3 :: rest, n, (a, b) =>
    let p := leNat [b0, b1, b2, b3]
    sigSums rest (n - 1) ((a + p) % 65521, (b + n * p) % 65521)
  | _, _, r => r
/-- A tile signature (R431). -/
def tileSig (pixels : List Byte) : Nat :=
  let (a, b) := sigSums pixels 4096 (1, 4096 % 65521)
  b * 65536 + a
/-- A Lantern bitmap: width, height, RGBA8 pixels (R435). -/
def State.bitmap (s : State) (n : Nat) : Option (Nat × Nat × List Byte) :=
  let h := lanternHead s.lantern
  if s.lantern.isEmpty ∨ h.nbmp ≤ n then none
  else
    let o := h.dirOfs + 16 * n
    let w := bytesAt s.lantern (o + 4) 2
    let x := bytesAt s.lantern (o + 6) 2
    some (w, x, slice s.lantern (bytesAt s.lantern o 4) (4 * w * x))
/-- The reference signatures of a layer (R423, R436). -/
def State.layerRefs (s : State) (w : List W64) : Option (List Nat) :=
  if !lSafe w ∨ lFormat w ≠ 1 ∨ lNoBitmap w then none else
  match s.bitmap (lBitmap w) with
  | some (bw, bh, px) =>
    if bw ≠ lW w ∨ bh ≠ lH w then none
    else some ((List.range (lTiles w)).map fun t => tileSig (((List.range 64).map fun y =>
      slice px (4 * ((64 * (t / lTw w) + y) * bw + 64 * (t % lTw w))) 256).flatten))
  | none => none

/-! ### State of layers and pipes -/

/-- A layer as LAYER_SET leaves it (R434). -/
def Layer.fresh (words : List W64) (pitch : Nat) : Layer :=
  { words, pitch, next := none, refs := none, mode := if lSafe words then 0 else 3, mismatch := 0, late := 0, lantFrames := 0,
    lastFrame := 0, lastTile := 0, suspect := 0, sigA := 0, sigB := 0, checked := 0, tiles := [], armed := none, only := none,
    heldA := [], heldB := [], waitOn := [] }
/-- A pipe after reset. -/
def Pipe.reset : Pipe :=
  { frame := 0, startAt := 0, tm := none, hud := [], hudNext := none, out := (0, 0), slices := List.replicate 4 (0, 0),
    latSeq := 0, skips := 0, lastSlice := 0, latched := [], mesh := [], stall := false, route := false, routeNext := false,
    showAt := 0, fallback := false, failed := false, dark := 0 }
/-- A pipe. -/
def State.pipe (s : State) (p : Nat) : Pipe := s.pipes.getD p .reset
/-- Set a pipe. -/
def State.setPipe (s : State) (p : Nat) (x : Pipe) : State := { s with pipes := s.pipes.set p x }
/-- Set a layer. -/
def State.setLayer (s : State) (k : Nat) (l : Layer) : State := { s with layers := s.layers.set k l }
/-- The configuration of a surface that has been accepted last (R426). -/
def Surface.conf (x : Surface) : SurfCfg := x.next.getD x.cur
/-- A disabled surface. -/
def SurfCfg.none : SurfCfg := ⟨0, false, 0, 0, 0, 0, false⟩
/-- A tile before anything is known of it. -/
def TileSt.start : TileSt := ⟨false, false, false, false, none, none, false⟩
/-- Whether a tile's signatures match. -/
def TileSt.matched (t : TileSt) : Bool := t.sigA.isSome && t.sigA == t.sigB
/-- Write a layer's status record (R434). -/
def State.layerRec (s : State) (k : Nat) : State :=
  match s.layers.get? k with
  | none => s
  | some l =>
    let w (x : Nat) : W64 := BitVec.ofNat 64 x
    s.polPut (0x081FE000 + 64 * k) (bytesOf [w (l.mode + l.mismatch * 2 ^ 16 + l.late * 2 ^ 32 + l.lantFrames * 2 ^ 48),
      w (l.lastFrame + l.lastTile * 2 ^ 32 + l.suspect * 2 ^ 40), w (l.sigA + l.sigB * 2 ^ 32), w l.checked, 0, 0, 0, 0])
/-- Write a pipe's status record (R443). -/
def State.pipeRec (s : State) (p : Nat) : State :=
  let x := s.pipe p
  let w (x : Nat) : W64 := BitVec.ofNat 64 x
  s.polPut (0x081FF000 + 64 * p) (bytesOf [w x.frame.toNat, x.latSeq, w (x.out.1.toNat + x.out.2.toNat * 2 ^ 32),
    w (x.skips + x.lastSlice * 2 ^ 32 + x.stall.toNat * 2 ^ 34 + x.route.toNat * 2 ^ 35), 0, 0, 0, 0])
/-- A record of a pipe reset to zero (R443). -/
def State.pipeRecZero (s : State) (p : Nat) : State := s.polPut (0x081FF000 + 64 * p) (List.replicate 64 0)
/-- Whether a pipe's latch state is at reset (R441, R443). -/
def Pipe.unlatched (x : Pipe) : Pipe :=
  { x with out := (0, 0), slices := List.replicate 4 (0, 0), latSeq := 0, skips := 0, lastSlice := 0 }
/-- Words of a record in SRAM, if it lies there 8-aligned (R426). -/
def State.displayRecord (s : State) (n : Nat) : Option (List W64) :=
  let a := (s.arg 1).toNat
  if a % 8 = 0 ∧ inSram a n then some (wordsOf (s.polBytes a n)) else none

/-! ### Failover (R456) -/

/-- The lowest-numbered pipe that has no enabled surface. -/
def State.freePipe (s : State) : Option Nat :=
  (List.range 4).find? fun q => !(s.pipe q).failed && !s.surfaces.any fun x =>
    (x.2.cur.enable && x.2.cur.pipe == q) || (x.2.conf.enable && x.2.conf.pipe == q)
/-- The pipe of Lantern's route: its own, or where its surface has gone. -/
def State.lanternPipe (s : State) : Option Nat :=
  let h := lanternHead s.lantern
  if s.lantern.isEmpty ∨ h.routeOfs = 0 then none else some (s.routePipe.getD (bytesAt s.lantern (h.routeOfs + 1) 1))
/-- Move what a failed pipe shows to a free one: surface, head-up record, status record, FRAME and route. -/
def State.movePipe (s : State) (p : Nat) : State :=
  let uses (c : SurfCfg) : Bool := c.enable && c.pipe == p
  if !s.surfaces.any (fun x => uses x.2.cur || uses x.2.conf) then s else
  match s.freePipe with
  | none => s
  | some q =>
    let re (c : SurfCfg) : SurfCfg := if uses c then { c with pipe := q } else c
    let x := s.pipe p
    let route := s.lanternPipe == some p
    let s := { s with surfaces := s.surfaces.mapV fun y => ⟨re y.cur, y.next.map re⟩,
                      routePipe := if route then some q else s.routePipe }
    let s := s.setPipe q { x with failed := false, dark := 2 }
    let s := s.setPipe p { Pipe.reset with failed := true }
    s.polPut (0x081FF000 + 64 * q) (s.polBytes (0x081FF000 + 64 * p) 64)
/-- Move what waits on failed pipes. -/
def State.moveFailed (s : State) : State :=
  (List.range 4).foldl (fun (s : State) p => if (s.pipe p).failed then s.movePipe p else s) s
/-- PIPE_FAILOVER (R456): a pipe fails. Which counter of record 16 counts it, its link's or that of degraded operation, is
free (log entry 24). -/
def execPipeFailover (pipe : Nat) (s : State) : Host.Outcome State Fault Refusal :=
  if 4 ≤ pipe ∨ (s.pipe pipe).failed then .fault .notEnabled
  else
    let e := s.errRec deviceRec
    let e := if Config.freeBool s.stepNo pipe then { e with link := sat16 (e.link + 1) }
      else { e with degraded := sat16 (e.degraded + 1) }
    let s := { s with errs := s.errs.set deviceRec e, retPipe := s.retPipe ||| (1#4 <<< pipe) }
    .next (s.setPipe pipe { s.pipe pipe with failed := true }).moveFailed

/-! ### SURF_SET, LAYER_SET, HUD_SET, LANTERN_SHOW -/

/-- SURF_SET's work (R426, R427). -/
def State.surfSet (s : State) : State :=
  let a := (s.arg 0).toNat
  let n := a % 4
  let pipe := a / 4 % 4
  let enable := a / 16 % 2 == 1
  match s.displayRecord 16 with
  | none => s.ends 2
  | some ws =>
    let w0 := ws.getD 0 0
    let w1 := ws.getD 1 0
    let c : SurfCfg := ⟨pipe, enable, field w0 0 16, field w0 16 16, field w0 32 16, field w1 0 32, w1.getLsbD 32⟩
    let held := enable && s.surfaces.any fun x => x.1 != n && x.2.conf.enable && x.2.conf.pipe == pipe
    if 32 ≤ a ∨ field w0 48 16 ≠ 0 ∨ field w1 33 31 ≠ 0 ∨ c.w < 64 ∨ 7680 < c.w ∨ c.h < 64 ∨ 4320 < c.h ∨ c.w % 4 ≠ 0
        ∨ c.h % 4 ≠ 0 ∨ c.vtotal < c.h + 8 ∨ c.period < 2000000 ∨ 1000000000 < c.period ∨ held = true then s.ends 2
    else
      let old := s.surfaces.getD n ⟨SurfCfg.none, none⟩
      let s := { s with surfaces := s.surfaces.set n { old with next := some c } }
      (s.moveFailed.pipeRecZero pipe).ends 0
/-- SURF_SET (R427): binds or unbinds a surface at the pipe's next frame start. -/
def execSurfSet (blk : W64) (s : State) : Host.Outcome State Fault Refusal := s.command blk 13 State.surfSet

/-- Whether two layers overlap on their surface. -/
def layersMeet (v w : List W64) : Bool :=
  decide (lX v < lX w + lW w) && decide (lX w < lX v + lW v) && decide (lY v < lY w + lH w) && decide (lY w < lY v + lH v)
/-- Whether a descriptor's fields are in range and its reserved bits zero (R428, R429). -/
def layerClean (w : List W64) : Bool :=
  let g (k : Nat) : W64 := w.getD k 0
  field (g 0) 60 4 == 0 && field (g 1) 48 16 == 0 && field (g 3) 39 1 == 0 && field (g 3) 60 4 == 0 && field (g 4) 48 16 == 0
    && field (g 5) 48 16 == 0 && field (g 6) 49 15 == 0 && field (g 7) 49 15 == 0 && decide (lTag w ≤ 4)
    && decide (1 ≤ lFormat w) && decide (lFormat w ≤ 10) && (g 0).toNat % 256 == 0 && lPitch w % 256 == 0
    && (g 4).toNat % 8 == 0 && (g 5).toNat % 8 == 0 && (lSafe w || lBuf w true == 0)
/-- Whether a safety layer's own conditions hold (R429). -/
def State.safetyFits (s : State) (w : List W64) (pitch : Nat) : Bool :=
  let own (c : Nat) : Bool := ((s.pitches.get? pitch).map fun p => p.cores.getLsbD c) == some true
  let a := lCores w false
  let b := lCores w true
  [1, 2, 5].contains (lFormat w) && lW w % 64 == 0 && lH w % 64 == 0 && decide (lTiles w ≤ 256) && lBuf w true != 0
    && !a.isEmpty && !b.isEmpty && a.all own && b.all own && !a.any b.contains
/-- Whether a layer of lower TAG would lie above a safety layer it overlaps (R429). -/
def State.coversSafety (s : State) (k : Nat) (w : List W64) : Bool :=
  lEnable w && s.layers.any fun x =>
    let o := (x.2.next.map (·.1)).getD x.2.words
    x.1 != k && x.1 / 16 == k / 16 && lEnable o && layersMeet w o
      && (if x.1 < k then lSafe o && decide (lTag w < lTag o) else lSafe w && decide (lTag o < lTag w))
/-- LAYER_SET's work (R426, R428, R429, R481). -/
def State.layerSet (s : State) : State :=
  let a := s.arg 0
  let n := field a 0 2
  let k := 16 * n + field a 4 4
  match s.displayRecord 64 with
  | none => s.ends 2
  | some w =>
    let pitch := (s.pasids.get? (lPasid w)).map (·.pitch)
    match pitch, s.surfaces.get? n with
    | some p, some sf =>
      let c := sf.conf
      if !s.isOpen p then s.ends 0x1A0
      else if a &&& 0xF3 ≠ a ∨ !layerClean w ∨ c.w < lX w + lW w ∨ c.h < lY w + lH w ∨ (s.pitches.get? p).isNone
          ∨ (lSafe w && !s.safetyFits w p) ∨ s.coversSafety k w then s.ends 2
      else
        let old := s.layers.getD k { Layer.fresh [] p with mode := 3 }
        ((s.setLayer k { old with next := some (w, p) }).polPut (0x081FE000 + 64 * k) (List.replicate 64 0)).ends 0
    | _, _ => s.ends 2
/-- LAYER_SET (R429): sets a layer at the pipe's next frame start. -/
def execLayerSet (blk : W64) (s : State) : Host.Outcome State Fault Refusal := s.command blk 14 State.layerSet

/-- HUD_SET's work (R440). -/
def State.hudSet (s : State) : State :=
  let p := (s.arg 0).toNat
  match s.displayRecord 128, s.surfaces.findBy fun _ x => x.conf.enable && x.conf.pipe == p with
  | some w, some (_, sf) =>
    let g (k : Nat) : W64 := w.getD k 0
    let lead := field (g 1) 20 12
    if 4 ≤ p ∨ field (g 0) 48 16 ≠ 0 ∨ field (g 1) 33 31 ≠ 0 ∨ field (g 11) 48 16 ≠ 0 ∨ (w.drop 12).any (· != 0)
        ∨ (g 0).toNat % 32 ≠ 0 ∨ (g 11).toNat % 8 ≠ 0 ∨ lead < 64 ∨ sf.conf.vtotal ≤ lead ∨ sf.conf.h % 4 ≠ 0 then s.ends 2
    else ((s.setPipe p { s.pipe p with hudNext := some w }).pipeRecZero p).ends 0
  | _, _ => s.ends 2
/-- HUD_SET (R440): sets a pipe's warp and latch at its next frame start. -/
def execHudSet (blk : W64) (s : State) : Host.Outcome State Fault Refusal := s.command blk 15 State.hudSet

/-- LANTERN_SHOW's work (R18, R437). -/
def State.lanternShow (s : State) : State :=
  match s.lanternPipe with
  | none => s.ends 5
  | some p =>
    if s.arg 0 ≠ BitVec.ofNat 64 p ∨ 2 ≤ (s.arg 1).toNat then s.ends 2
    else
      let show_ := s.arg 1 == 1
      let x := s.pipe p
      (s.setPipe p { x with routeNext := show_, showAt := if show_ then s.time else x.showAt }).ends 0
/-- LANTERN_SHOW (R18, R437): arms or hides the camera route. -/
def execLanternShow (blk : W64) (s : State) : Host.Outcome State Fault Refusal := s.command blk 4 State.lanternShow
/-- CAMERA_FRAME (R437): a complete sensor frame; what it shows is outside the model (log entry 25). -/
def execCameraFrame (s : State) : Host.Outcome State Fault Refusal :=
  .next { s with camFrame := s.camFrame + 1, camTime := s.time }
/-- Whether 100 ms have passed with no complete sensor frame while the route is shown (R437). -/
def State.stalled (s : State) (p : Nat) : Bool :=
  decide (max (if s.camFrame = 0 then 0 else s.camTime) (s.pipe p).showAt + 100000000 ≤ s.time)
/-- LANTERN_STALL (R437): STALL is set in the pipe status record. -/
def execLanternStall (pipe : Nat) (s : State) : Host.Outcome State Fault Refusal :=
  let x := s.pipe pipe
  if !x.route ∨ x.stall ∨ !s.stalled pipe then .fault .notEnabled
  else .next ((s.setPipe pipe { x with stall := true }).pipeRec pipe)

/-! ### Time within a frame (R427) -/

/-- The timing a pipe runs: its enabled surface's, or the route's boot mode (R427, R437). -/
def State.timing (s : State) (p : Nat) : Option (Nat × Nat) :=
  match s.surfaces.findBy fun _ x => x.cur.enable && x.cur.pipe == p with
  | some (_, x) => some (x.cur.period, x.cur.vtotal)
  | none =>
    let x := s.pipe p
    if s.lanternPipe = some p ∧ (x.route ∨ x.routeNext ∨ x.tm.isSome) then
      let o := (lanternHead s.lantern).routeOfs
      let hz := bytesAt s.lantern (o + 0x1E) 2
      some ((1000000000 + hz / 2) / hz, bytesAt s.lantern (o + 0x1C) 2)
    else none
/-- Whether the start of a line of the current frame has come. -/
def Pipe.reached (x : Pipe) (line time : Nat) : Bool :=
  match x.tm with
  | some (per, vt) => decide (x.startAt * vt + line * per ≤ time * vt)
  | none => false
/-- The first line that begins at or after a time. -/
def Pipe.lineAt (x : Pipe) (time : Nat) : Nat :=
  match x.tm with
  | some (per, vt) => ((time - x.startAt) * vt + per - 1) / per
  | none => 0
/-- The layers of a pipe: of the surfaces bound to it, enabled where `on` asks for it. -/
def State.layersOn (s : State) (p : Nat) (on : Bool) : List (Nat × Layer) :=
  s.layers.filter fun x => match s.surfaces.get? (x.1 / 16) with
    | some sf => sf.cur.pipe == p && (!on || (sf.cur.enable && lEnable x.2.words))
    | none => false
/-- Arm substitution of a layer from a line on (R433). -/
def State.arm (s : State) (k line : Nat) : State :=
  { s with layers := s.layers.modify k fun l => { l with armed := some (min line (l.armed.getD line)) } }

/-! ### Quarantine and readmission (R438, R439) -/

/-- Hold the workgroups of some cores, with what is pre-empted with them. -/
def State.holdBack (s : State) (pitch : Nat) (cores : List Nat) : State :=
  let on := s.wgs.filter fun (x : Nat × Wg) => x.2.pitch == pitch && cores.contains x.2.core
    && (x.2.phase == .resident || x.2.phase == .saved)
  let us := dedup ((on.map fun x => s.preemptSet x.1).flatten)
  us.foldl (fun (s : State) u => { s with wgs := s.wgs.modify u fun w => { w with heldBack := true } }) s
/-- The safety cores' actions on the suspect renders of a layer (R438). -/
def State.suspectRenders (s : State) (k : Nat) (l : Layer) (pitch : Nat) (suspects : List Bool) : State :=
  suspects.foldl (fun (s : State) b =>
    match s.layers.get? k with
    | none => s
    | some l' =>
      let held := if b then l'.heldB else l'.heldA
      let cores := (lCores l.words b).filter fun c => !held.contains c
      let s := s.holdBack pitch cores
      let s := cores.foldl (fun (s : State) c => s.quarantine c 0x88) s
      let wait := cores.filter fun c => !(s.core c).dead
      { s with layers := s.layers.modify k fun l =>
        { l with
          mode := 1, waitOn := l.waitOn ++ wait,
          heldA := if b then l.heldA else l.heldA ++ cores, heldB := if b then l.heldB ++ cores else l.heldB } })
    s
/-- The spare for a retired core (R438). -/
def State.spare (s : State) (pitch c : Nat) : Option Nat :=
  let masks := (s.layers.map fun x => if lSafe x.2.words then lCores x.2.words false ++ lCores x.2.words true else []).flatten
  let ok := (List.range 96).filter fun k => s.coreServes pitch k && !masks.contains k
  match ok.find? fun k => k / 48 == c / 48 with
  | some k => some k
  | none => ok.head?
/-- Where the work of a held core of a render resumes: on the core if it passed; for a retired one, on a core that
software has since named in its place, or the spare. -/
def State.resumeCore (s : State) (pitch c : Nat) (mask : List Nat) : Option Nat :=
  if !(s.core c).dead then some c
  else if mask.contains c then s.spare pitch c
  else mask.find? fun k => s.coreServes pitch k
/-- Restore the held workgroups of a core on another. One that does not fit there is placed as others are. -/
def State.resumeOn (s : State) (pitch c k : Nat) : State :=
  let on := s.wgs.filter fun (x : Nat × Wg) => x.2.pitch == pitch && x.2.core == c && x.2.heldBack && x.2.phase == .saved
  on.foldl (fun (s : State) (x : Nat × Wg) =>
    let w := x.2
    let n : Need := ⟨pitch, 1, 1, w.ngroups, w.vregs, w.scrSize, 0, false, false⟩
    let s := { s with wgs := s.wgs.modify x.1 fun w => { w with heldBack := false } }
    match s.coreFit n k with
    | some (slot, scr) => s.restoreWg x.1 k slot scr w.partner w.pslot
    | none => s) s
/-- Resume one render of a layer: the state, and whether a spare was missing. -/
def State.resumeRender (s : State) (k pitch : Nat) (b : Bool) : State × Bool :=
  match s.layers.get? k with
  | none => (s, false)
  | some l =>
    let held := if b then l.heldB else l.heldA
    let plan := held.foldl (fun (r : State × List (Nat × Nat) × Bool) c =>
      let (s, moves, lost) := r
      let mask := ((s.layers.get? k).map fun l => lCores l.words b).getD []
      match s.resumeCore pitch c mask with
      | some d =>
        let w := maskWord (dedup ((mask.filter (· ≠ c)) ++ [d]))
        (if mask.contains c then { s with layers := s.layers.modify k fun l => { l with words := l.words.set (6 + b.toNat) w } } else s,
          moves ++ [(c, d)], lost)
      | none => (s, moves, true)) (s, [], false)
    if plan.2.2 then (s, true)
    else
      let s := plan.2.1.foldl (fun (s : State) (m : Nat × Nat) => s.resumeOn pitch m.1 m.2) plan.1
      let s := { s with layers := s.layers.modify k fun l => if b then { l with heldB := [] } else { l with heldA := [] } }
      -- what was pre-empted only with the held work may go on
      let free (w : Wg) : Wg := if w.heldBack ∧ w.pitch = pitch ∧ !(s.layers.any fun x => (x.2.heldA ++ x.2.heldB).contains w.core)
        then { w with heldBack := false } else w
      ({ s with wgs := s.wgs.mapV free }, false)
/-- The resumption of a layer's renders at a frame start, once every verdict is in (R438), or MODE 2 (R439). -/
def State.resumeLayer (s : State) (k : Nat) : State :=
  match s.layers.get? k with
  | none => s
  | some l =>
    let held := l.heldA ++ l.heldB
    let pitch := l.pitch
    let saved := s.wgs.all fun x => !(x.2.heldBack && x.2.pitch == pitch && held.contains x.2.core) || x.2.phase != .resident
    if held = [] ∨ l.waitOn ≠ [] ∨ l.mode = 2 ∨ !saved then s else
    let (s, lostA) := s.resumeRender k pitch false
    let (s, lostB) := s.resumeRender k pitch true
    if lostA ∧ lostB then s
    else if lostA ∨ lostB then
      let e := s.errRec pitch
      let s := { s with errs := s.errs.set pitch { e with degraded := sat16 (e.degraded + 1) } }
      { s with layers := s.layers.modify k fun l => { l with mode := 2, only := some lostA } }
    else { s with layers := s.layers.modify k fun l => { l with mode := if lSafe l.words then 0 else 3, only := none } }

/-! ### Tiles (R422, R423, R432, R433) -/

/-- Change a tile of a layer. -/
def State.setTile (s : State) (k t : Nat) (f : TileSt → TileSt) : State :=
  { s with layers := s.layers.modify k fun l => { l with tiles := l.tiles.set t (f (l.tiles.getD t .start)) } }
/-- The pipe of a surface. -/
def State.pipeOf (s : State) (surface : Nat) : Nat := ((s.surfaces.get? surface).map fun x => x.cur.pipe).getD 0
/-- Whether the signature unit watches a render of a layer. -/
def Layer.watches (l : Layer) (b : Bool) : Bool :=
  lEnable l.words && lSafe l.words && (if l.mode = 2 then l.only == some b else l.mode != 3)
/-- SIGNATURE_POLL's work for one tile of one render: a done word that holds FRAME makes it ready (R422). -/
def State.pollTile (s : State) (k : Nat) (l : Layer) (frame : Nat) (t : Nat) (b : Bool) : State :=
  let x := l.tiles.getD t .start
  if !l.watches b ∨ (if b then x.readyB else x.readyA) then s else
  match s.fwRead (lPasid l.words) (lDone l.words b + BitVec.ofNat 64 (8 * t)) 8 with
  | .ok s bs =>
    if leNat bs = frame then s.setTile k t fun x => if b then { x with readyB := true } else { x with readyA := true } else s
  | .wait s => s
  | .fail s => s
/-- SIGNATURE_POLL (R422, R432): the pending done words of a surface's safety layers are read. -/
def execSignaturePoll (surface : Nat) (s : State) : Host.Outcome State Fault Refusal :=
  let p := s.pipeOf surface
  if (s.pipe p).tm.isNone then .fault .notEnabled else
  let on := (s.layersOn p true).filter fun (x : Nat × Layer) => x.1 / 16 == surface
  .next (on.foldl (fun (s : State) (x : Nat × Layer) =>
    (List.range (lTiles x.2.words)).foldl (fun (s : State) t =>
      [false, true].foldl (fun (s : State) b => s.pollTile x.1 x.2 (s.pipe p).frame.toNat t b) s) s) s)
/-- The pixels of a tile of a render (R432): a page that cannot be resolved or an uncorrectable read gives none. -/
def State.readTile (s : State) (w : List W64) (b : Bool) (t : Nat) : FwRes (List Byte) :=
  (List.range 64).foldl (fun (r : FwRes (List Byte)) y =>
    match r with
    | .ok s bs =>
      let ofs := (64 * (t / lTw w) + y) * lPitch w + 256 * (t % lTw w)
      (match s.fwPlaces (lPasid w) 0 (lBuf w b + BitVec.ofNat 64 ofs) 256 with
      | .ok s ps => if s.anyPoison ps then .fail (s.afterRead 96 2 [ps]) else .ok s (bs ++ ps.map fun p => s.readPlace 96 2 p)
      | .wait s => .wait s
      | .fail s => .fail s)
    | r => r) (.ok s [])
/-- A mismatch of a tile's signatures (R423, R433, R438). -/
def State.mismatch (s : State) (k t a b : Nat) : State :=
  match s.layers.get? k with
  | none => s
  | some l =>
    let p := s.pipeOf (k / 16)
    let x := s.pipe p
    let pitch := l.pitch
    let wrong (v : Nat) : Bool := match l.refs with
      | some rs => rs.getD t 0 != v
      | none => true
    let suspects := match wrong a, wrong b with
      | true, false => [false]
      | false, true => [true]
      | _, _ => [false, true]
    let code := (if suspects.contains false then 1 else 0) + if suspects.contains true then 2 else 0
    let l' := { l with mismatch := sat16 (l.mismatch + 1), lastFrame := x.frame.toNat, lastTile := t, suspect := code, sigA := a, sigB := b }
    let s := (s.setLayer k l').arm k (x.lineAt s.time)
    let first := (lCores l.words (suspects.headD false)).headD 0x7F
    let second := if suspects.length = 2 then (lCores l.words true).headD 0x7F else 0x7F
    let s := s.charge pitch 0x84 first second fun e => { e with sig := sat16 (e.sig + 1) }
    s.suspectRenders k l pitch suspects
/-- What follows a signature of a tile: the comparison with the other render's (R422), or in MODE 2 with the reference
(R439). -/
def State.compareTile (s : State) (k t : Nat) : State :=
  match s.layers.get? k with
  | none => s
  | some l =>
    let x := l.tiles.getD t .start
    let pipe := s.pipe (s.pipeOf (k / 16))
    if l.mode = 2 then
      let v := if l.only = some true then x.sigB else x.sigA
      match v, l.refs with
      | some v, some rs => if rs.getD t 0 ≠ v then s.arm k (pipe.lineAt s.time) else s
      | _, _ => s
    else match x.sigA, x.sigB with
      | some a, some b =>
        let s := if a ≠ b then s.mismatch k t a b
          else if (List.range (lTiles l.words)).all fun t => (l.tiles.getD t .start).matched then
            s.setLayer k { l with checked := pipe.frame.toNat }
          else s
        s.layerRec k
      | _, _ => s
/-- TILE_SIGNATURE_DONE (R422, R432): the signature of a ready tile of a render is computed and compared. `tile` is
256 · layer + tile number. -/
def execTileSignatureDone (surface tile : Nat) (s : State) : Host.Outcome State Fault Refusal :=
  let k := 16 * surface + tile / 256
  let t := tile % 256
  match s.layers.get? k with
  | none => .fault .notEnabled
  | some l =>
    let x := l.tiles.getD t .start
    let todo (b : Bool) : Bool := l.watches b && (if b then x.readyB && !x.deadB && x.sigB.isNone else x.readyA && !x.deadA && x.sigA.isNone)
    if !(todo false || todo true) then .fault .notEnabled
    else
      let b := !todo false
      match s.readTile l.words b t with
      | .ok s px =>
        let v := tileSig px
        .next ((s.setTile k t fun x => if b then { x with sigB := some v } else { x with sigA := some v }).compareTile k t)
      | .wait s => .next s
      | .fail s => .next (s.setTile k t fun x => if b then { x with deadB := true } else { x with deadA := true })
/-- A tile row's deadline for one layer: tiles without a matching pair are late and arm substitution from a line on
(R433). -/
def State.rowDeadline (s : State) (k : Nat) (l : Layer) (row line : Nat) : State :=
  let bad := ((List.range (lTw l.words)).map fun j => row * lTw l.words + j).filter fun t =>
    let x := l.tiles.getD t .start
    !x.matched && !x.late
  if bad = [] then s
  else
    let s := bad.foldl (fun (s : State) t => s.setTile k t fun x => { x with late := true }) s
    let s := { s with layers := s.layers.modify k fun l => { l with late := sat16 (l.late + bad.length) } }
    (s.arm k line).layerRec k
/-- TILE_DEADLINE (R433): the deadline of tile row `row` of the layers of a pipe, where it has come. -/
def execTileDeadline (pipe row : Nat) (s : State) : Host.Outcome State Fault Refusal :=
  let x := s.pipe pipe
  let due := (s.layersOn pipe true).filter fun (y : Nat × Layer) =>
    (y.2.mode == 0 || y.2.mode == 1) && lSafe y.2.words && decide (64 * row < lH y.2.words)
      && x.reached (lY y.2.words + 64 * row - 64) s.time
  let s' := due.foldl (fun (s : State) (y : Nat × Layer) => s.rowDeadline y.1 y.2 row (lY y.2.words + 64 * row - 64)) s
  if s'.layers = s.layers then .fault .notEnabled else .next s'

/-! ### The head-up pipe (R424, R440–R442) -/

/-- The FP32 code at a byte offset of a record. -/
def recordFloat (w : List W64) (ofs : Nat) : Nat := field (w.getD (ofs / 8) 0) (ofs % 8 * 8) 32
/-- Places of a range as it is mapped now; none if some byte does not translate. -/
def State.mappedPlaces (s : State) (pasid : Nat) (va : W64) (n : Nat) : Option (List Place) :=
  let pitch := ((s.pasids.get? pasid).map (·.pitch)).getD 0
  ((List.range n).foldl (fun (r : Option (List Place)) k =>
    match r with
    | none => none
    | some ps =>
      let a := va + BitVec.ofNat 64 k
      match s.translate 96 pasid pitch 0 a with
      | .ok t => some (.mem (Pte.key t.leaf) (Pte.cache t.leaf) (t.phys a) :: ps)
      | .error _ => none) (some [])).map List.reverse
/-- SHIFT and ROT from a pose (R424): `v` the six codes. -/
def hudOutputs (w : List W64) (v : List Nat) : List Nat :=
  let d := (v.zipIdx).map fun (x, j) => fSub x (recordFloat w (0x40 + 4 * j))
  [0, 1].map fun i => (d.zipIdx).foldl (fun o (x, j) =>
    fRne (((fNum (recordFloat w (0x10 + 4 * (6 * i + j)))).mul (fNum x)).add .near (fNum o))) 0
/-- The line at which a slice latches, and whether its time has come in this frame (R441). -/
def Pipe.latchLine (x : Pipe) (h slice : Nat) : Nat :=
  match x.tm with
  | some (_, vt) => (slice * (h / 4) + vt - field (x.hud.getD 1 0) 20 12) % vt
  | none => 0
/-- HUD_LATCH (R424, R441, R443): at a slice's latch line the pose is read; an odd SEQ, a fault or poison keeps the
values and counts a skip. -/
def execHudLatch (pipe slice : Nat) (s : State) : Host.Outcome State Fault Refusal :=
  let x := s.pipe pipe
  match s.surfaces.findBy fun _ y => y.cur.enable && y.cur.pipe == pipe with
  | none => .fault .notEnabled
  | some (_, sf) =>
    if 4 ≤ slice ∨ !(x.hud.getD 1 0).getLsbD 32 ∨ x.latched.contains slice ∨ !x.reached (x.latchLine sf.cur.h slice) s.time then
      .fault .notEnabled
    else
      let pasid := field (x.hud.getD 1 0) 0 20
      let pose : Option (W64 × List Nat) :=
        match s.mappedPlaces pasid (BitVec.ofNat 64 (field (x.hud.getD 0 0) 0 48)) 32 with
        | none => none
        | some ps =>
          if s.anyPoison ps then none
          else
            let bs := ps.map fun p => s.readPlace 96 2 p
            let seq : W64 := BitVec.ofNat 64 (leNat (bs.take 8))
            if seq.getLsbD 0 then none else some (seq, (List.range 6).map fun j => bytesAt bs (8 + 4 * j) 4)
      let s := match s.mappedPlaces pasid (BitVec.ofNat 64 (field (x.hud.getD 0 0) 0 48)) 32 with
        | some ps => s.afterRead 96 2 [ps]
        | none => s
      let x := { x with latched := slice :: x.latched, lastSlice := slice }
      let x := match pose with
        | none => { x with skips := min 0xFFFFFFFF (x.skips + 1), slices := x.slices.set slice x.out }
        | some (seq, v) =>
          let o := hudOutputs x.hud v
          let out : W32 × W32 := (BitVec.ofNat 32 (o.getD 0 0), BitVec.ofNat 32 (o.getD 1 0))
          { x with latSeq := seq, out, slices := x.slices.set slice out }
      .next ((s.setPipe pipe x).pipeRec pipe)
/-- The mesh of a frame (R442); one that cannot be read holds free values (log entry 12). -/
def State.readMesh (s : State) (w : List W64) : State × List (W32 × W32) :=
  if !(w.getD 1 0).getLsbD 32 then (s, []) else
  let point (bs : List Byte) (k : Nat) : W32 × W32 := (BitVec.ofNat 32 (bytesAt bs (8 * k) 4), BitVec.ofNat 32 (bytesAt bs (8 * k + 4) 4))
  let free := (List.range (8 * 561)).map fun k => Config.freeByte s.stepNo k
  match s.fwRead (field (w.getD 1 0) 0 20) (BitVec.ofNat 64 (field (w.getD 11 0) 0 48)) (8 * 561) with
  | .ok s bs => (s, (List.range 561).map (point bs))
  | .wait s => (s, (List.range 561).map (point free))
  | .fail s => (s, (List.range 561).map (point free))

/-! ### Frame starts (R427, R433, R437, R438) -/

/-- Whether a pipe that does not run has something to run for. -/
def State.wouldRun (s : State) (p : Nat) : Bool :=
  s.surfaces.any (fun x => (x.2.cur.enable && x.2.cur.pipe == p)
      || (match x.2.next with
        | some c => c.enable && c.pipe == p && !x.2.cur.enable
        | none => false))
    || (s.lanternPipe == some p && (s.pipe p).routeNext)
/-- The frame that ends counts its substituted layers (R434). -/
def State.endFrame (s : State) (p : Nat) : State :=
  (s.layersOn p true).foldl (fun (s : State) (x : Nat × Layer) =>
    let l := x.2
    match l.armed with
    | some line =>
      if lSafe l.words ∧ line < lY l.words + lH l.words then s.setLayer x.1 { l with lantFrames := sat16 (l.lantFrames + 1) } else s
    | none => s) s
/-- What has been accepted for a pipe takes effect (R426). -/
def State.applyConfig (s : State) (p : Nat) : State :=
  let mine (x : Surface) : Bool := match x.next with
    | some c => if x.cur.enable then x.cur.pipe == p else c.pipe == p
    | none => false
  let hit := s.surfaces.filter fun (x : Nat × Surface) => mine x.2
  let s := hit.foldl (fun (s : State) (x : Nat × Surface) =>
    let c := x.2.conf
    let s := { s with surfaces := s.surfaces.set x.1 ⟨c, none⟩ }
    s.setPipe c.pipe (s.pipe c.pipe).unlatched) s
  let x := s.pipe p
  let x := match x.hudNext with
    | some w => { x.unlatched with hud := w, hudNext := none }
    | none => x
  let s := s.setPipe p { x with route := x.routeNext }
  let s := (s.layersOn p false).foldl (fun (s : State) (x : Nat × Layer) =>
    match x.2.next with
    | some (w, p) => s.setLayer x.1 { Layer.fresh w p with refs := s.layerRefs w, heldA := x.2.heldA, heldB := x.2.heldB, waitOn := x.2.waitOn }
    | none => s) s
  s.moveFailed
/-- A layer at its pipe's frame start: its renders may resume, its tiles start afresh, and substitution is armed while MODE
is 1 or where a deadline falls at the frame start or before it (R433, R438). -/
def State.layerFrame (s : State) (k : Nat) : State :=
  let s := s.resumeLayer k
  match s.layers.get? k with
  | none => s
  | some l =>
    let l := { l with tiles := [], armed := if l.mode = 1 then some 0 else none }
    let s := s.setLayer k l
    let s := if l.mode = 0 ∨ l.mode = 1 then
        ((List.range (lH l.words / 64)).filter fun r => decide (lY l.words + 64 * r ≤ 64)).foldl
          (fun (s : State) r => s.rowDeadline k ((s.layers.get? k).getD l) r 0) s
      else s
    s.layerRec k
/-- FRAME_START (R427): FRAME advances, accepted configuration takes effect, layers start afresh, the mesh is read, and
the status records are written. Whether composition missed the frame is free (R436, log entry 7). -/
def execFrameStart (pipe : Nat) (s : State) : Host.Outcome State Fault Refusal :=
  let x := s.pipe pipe
  let due := match x.tm with
    | some (per, _) => decide (x.startAt + per ≤ s.time)
    | none => s.wouldRun pipe
  if 4 ≤ pipe ∨ x.failed ∨ !due then .fault .notEnabled
  else
    let startAt := match x.tm with
      | some (per, _) => x.startAt + per
      | none => s.time
    let s := (s.endFrame pipe).applyConfig pipe
    let x := s.pipe pipe
    match s.timing pipe with
    | none => .next ((s.setPipe pipe { x with tm := none, latched := [] }).pipeRec pipe)
    | some tm =>
      let (s, mesh) := s.readMesh x.hud
      let fall := s.surfaces.any fun y => y.2.cur.enable && y.2.cur.pipe == pipe && y.2.cur.lantFall
      let x := { x with frame := x.frame + 1, startAt, tm := some tm, latched := [], mesh, stall := x.route && s.stalled pipe,
                        fallback := fall && Config.freeBool s.stepNo (16 + pipe), dark := x.dark - 1 }
      let s := s.setPipe pipe x
      let s := (s.layersOn pipe true).foldl (fun (s : State) (y : Nat × Layer) => s.layerFrame y.1) s
      .next (s.pipeRec pipe)

end Sys2Proof.Machine
end

