-- ==== Sys2Proof/Machine/FloatOps.lean ====
section
/-! DEFINITION. Groups 2 and 3 and the pair word: floating-point, conversion and block-scale instructions
(08 R194–R206, 05 R123–R126). -/

namespace Sys2Proof.Machine
open Sys2Proof

/-- A scalar word of one operand (R195). -/
def Ctx.float1 (c : Ctx) (s : State) (w : RRR) (f : FMode → Nat → Nat) : Res :=
  let m := FMode.scalar w.m
  c.alu s w.g w.d false fun l => BitVec.ofNat 64 (f m (s.readF c m.fmt w.a l))
/-- A scalar word of two operands (R195). -/
def Ctx.float2 (c : Ctx) (s : State) (w : RRR) (f : FMode → Nat → Nat → Nat) : Res :=
  let m := FMode.scalar w.m
  c.alu s w.g w.d false fun l => BitVec.ofNat 64 (f m (s.readF c m.fmt w.a l) (s.readF c m.fmt w.b l))
/-- A packed word of two operands: both elements on their own (R197). -/
def Ctx.half2 (c : Ctx) (s : State) (w : RRR) (f : FMode → Nat → Nat → Nat) : Res :=
  let m := FMode.packed w.m
  c.alu s w.g w.d false fun l =>
    let a := s.readH c m.fmt w.a l
    let b := s.readH c m.fmt w.b l
    BitVec.ofNat 64 (packed2 fun i => f m (elem16 a i) (elem16 b i))
end Sys2Proof.Machine
namespace Sys2Proof
/-- CC of FCMP and HCMP2 (R194). -/
def RRR.cc (w : RRR) : Nat := (w.m.extractLsb' 5 4).toNat
end Sys2Proof
namespace Sys2Proof.Machine
open Sys2Proof
end Sys2Proof.Machine
namespace Sys2Proof
/-- The FP32 immediate of a group 2 RI word (R119). -/
def RI.immF (w : RI) : Nat := w.imm.toNat * 32
end Sys2Proof
namespace Sys2Proof.Machine
open Sys2Proof
/-- An RI word of a and the immediate in FP32 (R198). -/
def Ctx.floatRi (c : Ctx) (s : State) (w : RI) (f : Nat → Nat → Nat) : Res :=
  c.alu s w.g w.d false fun l => BitVec.ofNat 64 (f (s.readF c fp32 w.a l) w.immF)

/-- FADD (R195). -/
def execFadd (w : RRR) (s : State) : Host.Outcome State Fault Refusal :=
  issue (.fadd w) s fun s c => c.float2 s w fun m a b => FBin.fadd.eval m a b
/-- FSUB (R195). -/
def execFsub (w : RRR) (s : State) : Host.Outcome State Fault Refusal :=
  issue (.fsub w) s fun s c => c.float2 s w fun m a b => FBin.fsub.eval m a b
/-- FMUL (R195). -/
def execFmul (w : RRR) (s : State) : Host.Outcome State Fault Refusal :=
  issue (.fmul w) s fun s c => c.float2 s w fun m a b => FBin.fmul.eval m a b
/-- FFMA: rounded once (R195). -/
def execFfma (w : RRR) (s : State) : Host.Outcome State Fault Refusal :=
  issue (.ffma w) s fun s c =>
    let m := FMode.scalar w.m
    c.alu s w.g w.d false fun l =>
      BitVec.ofNat 64 (ffma m (s.readF c m.fmt w.a l) (s.readF c m.fmt w.b l) (s.readF c m.fmt w.c l))
/-- FMIN (R195). -/
def execFmin (w : RRR) (s : State) : Host.Outcome State Fault Refusal :=
  issue (.fmin w) s fun s c => c.float2 s w fun m a b => FBin.fmin.eval m a b
/-- FMAX (R195). -/
def execFmax (w : RRR) (s : State) : Host.Outcome State Fault Refusal :=
  issue (.fmax w) s fun s c => c.float2 s w fun m a b => FBin.fmax.eval m a b
/-- FCMP (R196). -/
def execFcmp (w : RRR) (s : State) : Host.Outcome State Fault Refusal :=
  issue (.fcmp w) s fun s c =>
    let m := FMode.scalar w.m
    c.aluP s w.g w.d fun l => fcmp m w.cc (s.readF c m.fmt w.a l) (s.readF c m.fmt w.b l)
/-- FCLASS (R195). -/
def execFclass (w : RRR) (s : State) : Host.Outcome State Fault Refusal :=
  issue (.fclass w) s fun s c => c.float1 s w fclass
/-- FRND (R195). -/
def execFrnd (w : RRR) (s : State) : Host.Outcome State Fault Refusal :=
  issue (.frnd w) s fun s c => c.float1 s w FUn.frnd.eval
/-- FRCP (R101). -/
def execFrcp (w : RRR) (s : State) : Host.Outcome State Fault Refusal :=
  issue (.frcp w) s fun s c => c.float1 s w FUn.frcp.eval
/-- FRSQ (R101). -/
def execFrsq (w : RRR) (s : State) : Host.Outcome State Fault Refusal :=
  issue (.frsq w) s fun s c => c.float1 s w FUn.frsq.eval
/-- FSQRT (R101). -/
def execFsqrt (w : RRR) (s : State) : Host.Outcome State Fault Refusal :=
  issue (.fsqrt w) s fun s c => c.float1 s w FUn.fsqrt.eval
/-- FDIV (R101). -/
def execFdiv (w : RRR) (s : State) : Host.Outcome State Fault Refusal :=
  issue (.fdiv w) s fun s c => c.float2 s w fun m a b => FBin.fdiv.eval m a b
/-- FEXP2 (R101). -/
def execFexp2 (w : RRR) (s : State) : Host.Outcome State Fault Refusal :=
  issue (.fexp2 w) s fun s c => c.float1 s w FUn.fexp2.eval
/-- FLOG2 (R101). -/
def execFlog2 (w : RRR) (s : State) : Host.Outcome State Fault Refusal :=
  issue (.flog2 w) s fun s c => c.float1 s w FUn.flog2.eval
/-- FSINR (R101). -/
def execFsinr (w : RRR) (s : State) : Host.Outcome State Fault Refusal :=
  issue (.fsinr w) s fun s c => c.float1 s w FUn.fsinr.eval
/-- FCOSR (R101). -/
def execFcosr (w : RRR) (s : State) : Host.Outcome State Fault Refusal :=
  issue (.fcosr w) s fun s c => c.float1 s w FUn.fcosr.eval
/-- FSCALE: b is an integer and is not converted (R195). -/
def execFscale (w : RRR) (s : State) : Host.Outcome State Fault Refusal :=
  issue (.fscale w) s fun s c =>
    let m := FMode.scalar w.m
    c.alu s w.g w.d false fun l => BitVec.ofNat 64 (fscale m (s.readF c m.fmt w.a l) (s.read32 c w.b l).toInt)
/-- HADD2 (R197). -/
def execHadd2 (w : RRR) (s : State) : Host.Outcome State Fault Refusal :=
  issue (.hadd2 w) s fun s c => c.half2 s w fun m a b => FBin.fadd.eval m a b
/-- HMUL2 (R197). -/
def execHmul2 (w : RRR) (s : State) : Host.Outcome State Fault Refusal :=
  issue (.hmul2 w) s fun s c => c.half2 s w fun m a b => FBin.fmul.eval m a b
/-- HFMA2 (R197). -/
def execHfma2 (w : RRR) (s : State) : Host.Outcome State Fault Refusal :=
  issue (.hfma2 w) s fun s c =>
    let m := FMode.packed w.m
    c.alu s w.g w.d false fun l =>
      let a := s.readH c m.fmt w.a l
      let b := s.readH c m.fmt w.b l
      let x := s.readH c m.fmt w.c l
      BitVec.ofNat 64 (packed2 fun i => ffma m (elem16 a i) (elem16 b i) (elem16 x i))
/-- HMIN2 (R197). -/
def execHmin2 (w : RRR) (s : State) : Host.Outcome State Fault Refusal :=
  issue (.hmin2 w) s fun s c => c.half2 s w fun m a b => FBin.fmin.eval m a b
/-- HMAX2 (R197). -/
def execHmax2 (w : RRR) (s : State) : Host.Outcome State Fault Refusal :=
  issue (.hmax2 w) s fun s c => c.half2 s w fun m a b => FBin.fmax.eval m a b
/-- HCMP2 (R197). -/
def execHcmp2 (w : RRR) (s : State) : Host.Outcome State Fault Refusal :=
  issue (.hcmp2 w) s fun s c => c.half2 s w fun m a b => if fcmp m w.cc a b then 0xFFFF else 0
/-- FADD with an immediate (R198). -/
def execFaddRi (w : RI) (s : State) : Host.Outcome State Fault Refusal :=
  issue (.faddRi w) s fun s c => c.floatRi s w (FBin.fadd.eval .plain)
/-- FMUL with an immediate (R198). -/
def execFmulRi (w : RI) (s : State) : Host.Outcome State Fault Refusal :=
  issue (.fmulRi w) s fun s c => c.floatRi s w (FBin.fmul.eval .plain)
/-- FFMA with an immediate: d is the addend (R198). -/
def execFfmaRi (w : RI) (s : State) : Host.Outcome State Fault Refusal :=
  issue (.ffmaRi w) s fun s c =>
    c.alu s w.g w.d false fun l =>
      BitVec.ofNat 64 (ffma .plain (s.readF c fp32 w.a l) w.immF (s.readF c fp32 w.d l))
/-- FMIN with an immediate (R198). -/
def execFminRi (w : RI) (s : State) : Host.Outcome State Fault Refusal :=
  issue (.fminRi w) s fun s c => c.floatRi s w (FBin.fmin.eval .plain)
/-- FMAX with an immediate (R198). -/
def execFmaxRi (w : RI) (s : State) : Host.Outcome State Fault Refusal :=
  issue (.fmaxRi w) s fun s c => c.floatRi s w (FBin.fmax.eval .plain)
/-- FCMP with an immediate: .eq only (R198). -/
def execFcmpRi (w : RI) (s : State) : Host.Outcome State Fault Refusal :=
  issue (.fcmpRi w) s fun s c => c.aluP s w.g w.d fun l => fcmp .plain 0 (s.readF c fp32 w.a l) w.immF

/-! ### Conversions (R199–R201) -/

/-- The raw bits of CVT's source: an inline integer is the integer, or its exact value in a float type (R116). -/
def State.readCvt (s : State) (c : Ctx) (t : CvtTy) (o : Opnd) (lane : Nat) : W64 :=
  match t, o with
  | .flt f, .imm k => BitVec.ofNat 64 (inlineFloat f (inlineVal k))
  | .flt _, _ => (s.read32 c o lane).zeroExtend 64
  | .int _ w, _ => s.readW c (w == 64) o lane
/-- CVT (R199, R200). -/
def execCvt (w : CVTW) (s : State) : Host.Outcome State Fault Refusal :=
  issue (.cvt w) s fun s c =>
    match CvtTy.ofCode (w.m.extractLsb' 0 4).toNat, CvtTy.ofCode (w.m.extractLsb' 4 4).toNat with
    | some dst, some src =>
      c.alu s w.g w.d (dst.width == 64) fun l =>
        cvt dst src (rndOf (w.cm.extractLsb' 0 3).toNat (s.read32 c w.c l).toNat) (w.cm.getLsbD 3) (w.cm.getLsbD 4)
          (s.readCvt c src w.a l)
    | _, _ => .cause .illMod c.lanes 0 (wordBits (.cvt w))
/-- CVTP (R201). -/
def execCvtp (w : RRR) (s : State) : Host.Outcome State Fault Refusal :=
  issue (.cvtp w) s fun s c =>
    c.alu s w.g w.d false fun l =>
      let z := (s.read32 c w.c l).toNat
      widen' (cvtp (w.m.extractLsb' 4 3).toNat (w.m.extractLsb' 7 2).toNat (rndOf w.m3 z) (rndOf w.m3 (z / 256))
        (w.m.getLsbD 3) (s.read32 c w.d l) (BitVec.ofNat 32 (s.readF c fp32 w.a l)) (BitVec.ofNat 32 (s.readF c fp32 w.b l)))
where
  /-- A 32-bit result that is no signed integer (R186). -/
  widen' (x : W32) : W64 := x.zeroExtend 64

/-! ### Block quantisation (R202–R205) -/

/-- The values of `n` consecutive vector registers in a lane. -/
def Regs.vecRange (r : Regs) (first n lane : Nat) : List W32 := (List.range n).map fun j => r.vec (first + j) lane
/-- QNB8 (R202). -/
def execQnb8 (w : RRR) (s : State) : Host.Outcome State Fault Refusal :=
  issue (.qnb8 w) s fun s c =>
    let vals := (lanesOf (c.part w.g)).map fun l =>
      let z := (s.read32 c w.c l).toNat
      (l, qnb8 (fun j => rndOf w.m3 (z / 2 ^ (8 * (j % 4)))) (c.regs.vecRange w.a.num 8 l))
    .next (s.updRegs c.k fun r => vals.foldl (fun r x =>
      (r.setVec w.d.num x.1 x.2.1).setVec w.b.num x.1 x.2.2) r)
/-- DQNB8 (R202): an inline band scale is converted to BF16 (R116). -/
def execDqnb8 (w : RRR) (s : State) : Host.Outcome State Fault Refusal :=
  issue (.dqnb8 w) s fun s c =>
    let vals := (lanesOf (c.part w.g)).map fun l =>
      (l, s.read32 c w.a l, (s.read32 c w.b l).toNat, s.readF c bf16 w.c l)
    .next (s.updRegs c.k fun r => vals.foldl (fun r x =>
      (List.range 8).foldl (fun r j => r.setVec (w.d.num + j) x.1 (dqnb8 x.2.1 x.2.2.1 x.2.2.2 j)) r) r)
/-- QMX: one block over the lanes of this issue (R203); where b names d the scale stands (log entry 108). -/
def execQmx (w : RRR) (s : State) : Host.Outcome State Fault Refusal :=
  issue (.qmx w) s fun s c =>
    let part := c.part w.g
    if part = 0 then .next s else
    let k := (w.m.extractLsb' 3 2).toNat
    let val (l : Nat) : Num := fp32.decode (c.regs.vec w.a.num l).toNat
    let scale := mxScale k ((lanesOf part).map val)
    let codes := (lanesOf part).map fun l =>
      (l, BitVec.ofNat 32 (mxCode k (rndOf w.m3 (s.read32 c w.c l).toNat) scale (val l)))
    .next (s.updRegs c.k fun r =>
      let r := codes.foldl (fun r x => r.setVec w.d.num x.1 x.2) r
      if w.b.isUni then r.setUni w.b.num (BitVec.ofNat 64 scale)
      else codes.foldl (fun r x => r.setVec w.b.num x.1 (BitVec.ofNat 32 scale)) r)
/-- DQMX (R203). -/
def execDqmx (w : RRR) (s : State) : Host.Outcome State Fault Refusal :=
  issue (.dqmx w) s fun s c =>
    let k := (w.m.extractLsb' 3 2).toNat
    c.alu s w.g w.d false fun l =>
      BitVec.ofNat 64 (fp32.encode .near false
        (mxValue k ((s.read32 c w.b l).toNat % 256) ((s.read32 c w.a l).toNat)))
/-- SMAX (R204): kinds 0 to 4 give a signed exponent, kind 5 a scale code. -/
def execSmax (w : RRR) (s : State) : Host.Outcome State Fault Refusal :=
  issue (.smax w) s fun s c =>
    let kind := w.m3
    c.alu s w.g w.d false fun l =>
      let xs : List W32 := if kind = 0 ∨ kind = 5 then
          (if w.a.isUni then (List.range 8).map fun j => (c.regs.uni (w.a.num + j)).truncate 32
           else c.regs.vecRange w.a.num 8 l)
        else [s.read32 c w.a l]
      let r := smax kind xs
      let b := s.read32 c w.b l
      if !w.m.getLsbD 3 then BitVec.ofInt 64 r
      else if kind = 5 then BitVec.ofInt 64 (max r (b.toNat % 256)) else BitVec.ofInt 64 (max r b.toInt)
/-- CVTFX (R205). -/
def execCvtfx (w : RRR) (s : State) : Host.Outcome State Fault Refusal :=
  issue (.cvtfx w) s fun s c =>
    c.alu s w.g w.d false fun l =>
      BitVec.ofInt 64 (cvtfx (fp32.decode (s.readF c fp32 w.a l)) (s.read32 c w.b l).toInt)
/-- CVTXF (R205). -/
def execCvtxf (w : RRR) (s : State) : Host.Outcome State Fault Refusal :=
  issue (.cvtxf w) s fun s c =>
    c.alu s w.g w.d false fun l =>
      BitVec.ofNat 64 (cvtxf (s.read32 c w.a l).toInt (s.read32 c w.b l).toInt)

/-! ### The pair word (R123–R126, R206) -/

end Sys2Proof.Machine
namespace Sys2Proof
open Machine in
/-- The result of a half on the old values of d and a (R206). -/
def Half.eval (h : Half) (d a : W32) : W32 :=
  let imm : W32 := h.a.signExtend 32
  let fm : FMode := ⟨fp32, rmOf h.m.toNat, h.m.getLsbD 2⟩
  let hm : FMode := ⟨fp16, rmOf h.m.toNat, false⟩
  let f (x : Nat) : W32 := BitVec.ofNat 32 x
  match h.op with
  | .hnop => d
  | .mov => a
  | .iadd => d + a
  | .isub => d - a
  | .and => d &&& a
  | .or => d ||| a
  | .xor => d ^^^ a
  | .shl => aluShl d a
  | .shr => aluShr d a
  | .sar => aluSar d a
  | .imin => aluMin false d a
  | .imax => aluMax false d a
  | .fadd => f (FBin.fadd.eval fm d.toNat a.toNat)
  | .fsub => f (FBin.fsub.eval fm d.toNat a.toNat)
  | .fmul => f (FBin.fmul.eval fm d.toNat a.toNat)
  | .fmin => f (FBin.fmin.eval fm d.toNat a.toNat)
  | .fmax => f (FBin.fmax.eval fm d.toNat a.toNat)
  | .cvtF32S32 => (cvt (.flt fp32) (.int false 32) (rmOf h.m.toNat) false false (a.zeroExtend 64)).truncate 32
  | .cvtS32F32 => (cvt (.int false 32) (.flt fp32) (rmOf h.m.toNat) false false (a.zeroExtend 64)).truncate 32
  | .hadd2 => f (packed2 fun i => FBin.fadd.eval hm (elem16 d.toNat i) (elem16 a.toNat i))
  | .hmul2 => f (packed2 fun i => FBin.fmul.eval hm (elem16 d.toNat i) (elem16 a.toNat i))
  | .movi => imm
  | .iaddi => d + imm
  | .shli => d <<< h.a.toNat
  | .shri => d >>> h.a.toNat
  | .sari => d.sshiftRight h.a.toNat
  | .andi => d &&& imm
end Sys2Proof
namespace Sys2Proof.Machine
open Sys2Proof
/-- A pair word: both halves read before either writes (R125). -/
def execPairWord (h0 h1 : Half) (s : State) : Host.Outcome State Fault Refusal :=
  issue (.pairWord h0 h1) s fun s c =>
    let vals (h : Half) : List (Nat × W32) :=
      if h.op = .hnop then [] else
      (lanesOf (c.halfPart h)).map fun l =>
        (l, h.eval (c.regs.vec h.d.toNat l) (c.regs.vec h.a.toNat l))
    let v0 := vals h0
    let v1 := vals h1
    .next (s.updRegs c.k fun r =>
      let r := v0.foldl (fun r x => r.setVec h0.d.toNat x.1 x.2) r
      v1.foldl (fun r x => r.setVec h1.d.toNat x.1 x.2) r)

end Sys2Proof.Machine
end

