-- ==== Sys2Proof/Machine/Integer.lean ====
section
/-! DEFINITION. Group 1: integer, bit, selection, address and move instructions, and their RI forms (08 R188–R193). -/

namespace Sys2Proof.Machine
open Sys2Proof

/-- A 64-bit result of a function on operands of the operation's width, extended by R186: sign for a signed result,
zeros otherwise. -/
def widen (signed_ : Bool) {w : Nat} (x : BitVec w) : W64 := if signed_ then x.signExtend 64 else x.zeroExtend 64

/-- A two-source word at its width (R188). -/
def Ctx.int2 (c : Ctx) (s : State) (w : RRR) (f : {n : Nat} → BitVec n → BitVec n → BitVec n) : Res :=
  c.alu s w.g w.d w.wide fun l =>
    if w.wide then f (s.read64 c w.a l) (s.read64 c w.b l)
    else widen false (f (s.read32 c w.a l) (s.read32 c w.b l))
/-- A one-source word at its width (R188). -/
def Ctx.int1 (c : Ctx) (s : State) (w : RRR) (f : {n : Nat} → BitVec n → BitVec n) : Res :=
  c.alu s w.g w.d w.wide fun l =>
    if w.wide then f (s.read64 c w.a l) else widen false (f (s.read32 c w.a l))
/-- A three-source word at its width (R188). -/
def Ctx.int3 (c : Ctx) (s : State) (w : RRR) (f : {n : Nat} → BitVec n → BitVec n → BitVec n → BitVec n) : Res :=
  c.alu s w.g w.d w.wide fun l =>
    if w.wide then f (s.read64 c w.a l) (s.read64 c w.b l) (s.read64 c w.c l)
    else widen false (f (s.read32 c w.a l) (s.read32 c w.b l) (s.read32 c w.c l))
end Sys2Proof.Machine
namespace Sys2Proof
/-- The immediate of a group 1 RI word (R112, R119). -/
def RI.imm64 (w : RI) : W64 :=
  match w.ext with
  | some x => x ++ w.imm
  | none => w.imm.signExtend 64
end Sys2Proof
namespace Sys2Proof.Machine
open Sys2Proof
/-- An RI word with a and the immediate at its width: 64 bits with a uniform d (R193). -/
def Ctx.intRi (c : Ctx) (s : State) (w : RI) (f : {n : Nat} → BitVec n → BitVec n → BitVec n) : Res :=
  c.alu s w.g w.d w.d.isUni fun l =>
    if w.d.isUni then f (s.read64 c w.a l) (w.imm64)
    else widen false (f (s.read32 c w.a l) (w.imm64.truncate 32))

/-- IADD (R189). -/
def execIadd (w : RRR) (s : State) : Host.Outcome State Fault Refusal :=
  issue (.iadd w) s fun s c => c.int2 s w fun a b => aluAdd w.uns (w.opx == 1) a b
/-- ISUB (R189). -/
def execIsub (w : RRR) (s : State) : Host.Outcome State Fault Refusal :=
  issue (.isub w) s fun s c => c.int2 s w fun a b => aluSub w.uns (w.opx == 1) a b
/-- IMUL (R189). -/
def execImul (w : RRR) (s : State) : Host.Outcome State Fault Refusal :=
  issue (.imul w) s fun s c => c.int2 s w fun a b => a * b
/-- IMULH (R189). -/
def execImulh (w : RRR) (s : State) : Host.Outcome State Fault Refusal :=
  issue (.imulh w) s fun s c => c.int2 s w fun a b => aluMulh w.uns a b
/-- IMAD (R189). -/
def execImad (w : RRR) (s : State) : Host.Outcome State Fault Refusal :=
  issue (.imad w) s fun s c => c.int3 s w fun a b x => a * b + x
/-- IMADW (R189). -/
def execImadw (w : RRR) (s : State) : Host.Outcome State Fault Refusal :=
  issue (.imadw w) s fun s c =>
    c.alu s w.g w.d true fun l =>
      ext64 w.uns (s.read32 c w.a l) * ext64 w.uns (s.read32 c w.b l) + s.read64 c w.c l

/-- IDIV and IREM: a zero divisor in any participating lane traps, precise (R190). -/
def Ctx.divide (c : Ctx) (s : State) (w : RRR) (f : {n : Nat} → BitVec n → BitVec n → BitVec n) : Res :=
  let z := (lanesOf (c.part w.g)).filter fun l => s.readW c w.wide w.b l == 0
  if z ≠ [] then .cause .idivZero (z.foldl (fun m l => m ||| (1#32 <<< l)) 0) 0 0
  else c.int2 s w f
/-- IDIV (R190). -/
def execIdiv (w : RRR) (s : State) : Host.Outcome State Fault Refusal :=
  issue (.idiv w) s fun s c => c.divide s w fun a b => aluDiv w.uns a b
/-- IREM (R190). -/
def execIrem (w : RRR) (s : State) : Host.Outcome State Fault Refusal :=
  issue (.irem w) s fun s c => c.divide s w fun a b => aluRem w.uns a b
/-- IMIN (R189). -/
def execImin (w : RRR) (s : State) : Host.Outcome State Fault Refusal :=
  issue (.imin w) s fun s c => c.int2 s w fun a b => aluMin w.uns a b
/-- IMAX (R189). -/
def execImax (w : RRR) (s : State) : Host.Outcome State Fault Refusal :=
  issue (.imax w) s fun s c => c.int2 s w fun a b => aluMax w.uns a b
/-- IABS (R189). -/
def execIabs (w : RRR) (s : State) : Host.Outcome State Fault Refusal :=
  issue (.iabs w) s fun s c => c.int1 s w fun a => aluAbs (w.opx == 1) a
/-- INEG (R189). -/
def execIneg (w : RRR) (s : State) : Host.Outcome State Fault Refusal :=
  issue (.ineg w) s fun s c => c.int1 s w fun a => aluNeg (w.opx == 1) a
/-- ICMP (R189). -/
def execIcmp (w : RRR) (s : State) : Host.Outcome State Fault Refusal :=
  issue (.icmp w) s fun s c =>
    c.aluP s w.g w.d fun l =>
      if w.w then intCond w.uns w.opx (s.read64 c w.a l) (s.read64 c w.b l)
      else intCond w.uns w.opx (s.read32 c w.a l) (s.read32 c w.b l)
/-- IADDC: the carry goes in and out through the predicate c (R189). -/
def execIaddc (w : RRR) (s : State) : Host.Outcome State Fault Refusal :=
  issue (.iaddc w) s fun s c =>
    let sum (l : Nat) : W64 × Bool :=
      let k := c.readP w.c l
      let inv {n : Nat} (x : BitVec n) : BitVec n := if w.opx == 1 then ~~~x else x
      if w.w then addCarry (s.read64 c w.a l) (inv (s.read64 c w.b l)) k
      else
        let r := addCarry (s.read32 c w.a l) (inv (s.read32 c w.b l)) k
        (widen false r.1, r.2)
    let part := c.part w.g
    let vals := (lanesOf part).map fun l => (l, sum l)
    .next (s.updRegs c.k fun r => vals.foldl (fun r x =>
      (r.setDst w.d w.w x.1 x.2.1).setPredLane w.c.num x.1 x.2.2) r)

/-- AND (R191). -/
def execAnd (w : RRR) (s : State) : Host.Outcome State Fault Refusal :=
  issue (.and w) s fun s c => c.int2 s w fun a b => a &&& b
/-- OR (R191). -/
def execOr (w : RRR) (s : State) : Host.Outcome State Fault Refusal :=
  issue (.or w) s fun s c => c.int2 s w fun a b => a ||| b
/-- XOR (R191). -/
def execXor (w : RRR) (s : State) : Host.Outcome State Fault Refusal :=
  issue (.xor w) s fun s c => c.int2 s w fun a b => a ^^^ b
/-- ANDN (R191). -/
def execAndn (w : RRR) (s : State) : Host.Outcome State Fault Refusal :=
  issue (.andn w) s fun s c => c.int2 s w fun a b => a &&& ~~~b
/-- NOT (R191). -/
def execNot (w : RRR) (s : State) : Host.Outcome State Fault Refusal :=
  issue (.not w) s fun s c => c.int1 s w fun a => ~~~a
/-- SHL (R191). -/
def execShl (w : RRR) (s : State) : Host.Outcome State Fault Refusal :=
  issue (.shl w) s fun s c => c.int2 s w fun a b => aluShl a b
/-- SHR (R191). -/
def execShr (w : RRR) (s : State) : Host.Outcome State Fault Refusal :=
  issue (.shr w) s fun s c => c.int2 s w fun a b => aluShr a b
/-- SAR (R191). -/
def execSar (w : RRR) (s : State) : Host.Outcome State Fault Refusal :=
  issue (.sar w) s fun s c => c.int2 s w fun a b => aluSar a b
/-- ROL (R191). -/
def execRol (w : RRR) (s : State) : Host.Outcome State Fault Refusal :=
  issue (.rol w) s fun s c => c.int2 s w fun a b => aluRol a b
/-- BFX (R191): a 32-bit result in a vector register is whole, so its extension is only felt inside the width. -/
def execBfx (w : RRR) (s : State) : Host.Outcome State Fault Refusal :=
  issue (.bfx w) s fun s c => c.int3 s w fun a b x => aluBfx w.uns a (shiftCount b) (shiftCount x)
/-- BFI (R191). -/
def execBfi (w : RRR) (s : State) : Host.Outcome State Fault Refusal :=
  issue (.bfi w) s fun s c => c.int3 s w fun a b x => aluBfi a b (shiftCount x) (x.toNat / 256 % 256)
/-- POPC (R191). -/
def execPopc (w : RRR) (s : State) : Host.Outcome State Fault Refusal :=
  issue (.popc w) s fun s c => c.int1 s w fun a => aluPopc a
/-- CLZ (R191). -/
def execClz (w : RRR) (s : State) : Host.Outcome State Fault Refusal :=
  issue (.clz w) s fun s c => c.int1 s w fun a => aluClz a
/-- CTZ (R191). -/
def execCtz (w : RRR) (s : State) : Host.Outcome State Fault Refusal :=
  issue (.ctz w) s fun s c => c.int1 s w fun a => aluCtz a
/-- BREV (R191). -/
def execBrev (w : RRR) (s : State) : Host.Outcome State Fault Refusal :=
  issue (.brev w) s fun s c => c.int1 s w fun a => aluBrev a

/-- PERMB (R192): 32 bits only; its result is not a signed integer (R186). -/
def execPermb (w : RRR) (s : State) : Host.Outcome State Fault Refusal :=
  issue (.permb w) s fun s c =>
    c.alu s w.g w.d false fun l => widen false (aluPermb (s.read32 c w.a l) (s.read32 c w.b l) (s.read32 c w.c l))
/-- SEL (R192). -/
def execSel (w : RRR) (s : State) : Host.Outcome State Fault Refusal :=
  issue (.sel w) s fun s c =>
    c.alu s w.g w.d w.w fun l => s.readW c w.w (if c.readP w.c l then w.a else w.b) l
/-- LEA (R192). -/
def execLea (w : RRR) (s : State) : Host.Outcome State Fault Refusal :=
  issue (.lea w) s fun s c =>
    c.alu s w.g w.d true fun l => s.read64 c w.a l + (ext64 w.uns (s.read32 c w.b l) <<< w.opx)

/-- A move to EXEC or CHKINT: once, if a lane takes part (R55, R64, R144, R184). EXEC takes effect from the next
offset; only the running path changes, so parked and exited lanes stay out. -/
def Ctx.movSpecial (c : Ctx) (s : State) (g : Guard) (d : Opnd) (v : Nat → W64) : Res :=
  match lanesOf (c.part g) with
  | [] => .next s
  | l :: _ =>
    match d with
    | .sr .exec =>
      let e : Mask := (v l).truncate 32 &&& c.g.live &&& ~~~(s.park c.w c.g)
      .next (s.updGroup c.k fun g => { g with execNext := e })
    | _ => .next (s.updGroup c.k fun g => { g with chk := g.chk.writeClear (v l) })
/-- MOV (R184, R192). -/
def execMov (w : RRR) (s : State) : Host.Outcome State Fault Refusal :=
  issue (.mov w) s fun s c =>
    match w.d with
    | .sr .chkint => c.movSpecial s w.g w.d fun l => s.read64 c w.a l
    | .sr _ => c.movSpecial s w.g w.d fun l => (s.read32 c w.a l).zeroExtend 64
    | _ => c.alu s w.g w.d w.wide fun l => s.readW c w.wide w.a l
/-- MOVI (R112, R192). -/
def execMovi (w : RI) (s : State) : Host.Outcome State Fault Refusal :=
  issue (.movi w) s fun s c => c.alu s w.g w.d false fun _ => w.imm64
/-- DOT4 (R192): 32 bits only; a signed result is sign-extended in a uniform register (R186). -/
def execDot4 (w : RRR) (s : State) : Host.Outcome State Fault Refusal :=
  issue (.dot4 w) s fun s c =>
    c.alu s w.g w.d false fun l =>
      widen (!w.uns) (aluDot4 w.uns (w.opx == 1) (s.read32 c w.a l) (s.read32 c w.b l) (s.read32 c w.c l))

/-! ### RI forms (R193) -/

/-- IADD with an immediate (R193). -/
def execIaddRi (w : RI) (s : State) : Host.Outcome State Fault Refusal :=
  issue (.iaddRi w) s fun s c => c.intRi s w fun a b => a + b
/-- ISUB with an immediate (R193). -/
def execIsubRi (w : RI) (s : State) : Host.Outcome State Fault Refusal :=
  issue (.isubRi w) s fun s c => c.intRi s w fun a b => a - b
/-- IMUL with an immediate (R193). -/
def execImulRi (w : RI) (s : State) : Host.Outcome State Fault Refusal :=
  issue (.imulRi w) s fun s c => c.intRi s w fun a b => a * b
/-- IMIN with an immediate, signed (R193). -/
def execIminRi (w : RI) (s : State) : Host.Outcome State Fault Refusal :=
  issue (.iminRi w) s fun s c => c.intRi s w fun a b => aluMin false a b
/-- IMAX with an immediate, signed (R193). -/
def execImaxRi (w : RI) (s : State) : Host.Outcome State Fault Refusal :=
  issue (.imaxRi w) s fun s c => c.intRi s w fun a b => aluMax false a b
/-- ICMP with an immediate: .eq only, 32 bits (R193). -/
def execIcmpRi (w : RI) (s : State) : Host.Outcome State Fault Refusal :=
  issue (.icmpRi w) s fun s c => c.aluP s w.g w.d fun l => s.read32 c w.a l == w.imm64.truncate 32
/-- AND with an immediate (R193). -/
def execAndRi (w : RI) (s : State) : Host.Outcome State Fault Refusal :=
  issue (.andRi w) s fun s c => c.intRi s w fun a b => a &&& b
/-- OR with an immediate (R193). -/
def execOrRi (w : RI) (s : State) : Host.Outcome State Fault Refusal :=
  issue (.orRi w) s fun s c => c.intRi s w fun a b => a ||| b
/-- XOR with an immediate (R193). -/
def execXorRi (w : RI) (s : State) : Host.Outcome State Fault Refusal :=
  issue (.xorRi w) s fun s c => c.intRi s w fun a b => a ^^^ b
/-- SHL with an immediate count, bits [7:0] (R193). -/
def execShlRi (w : RI) (s : State) : Host.Outcome State Fault Refusal :=
  issue (.shlRi w) s fun s c => c.intRi s w fun a b => aluShl a b
/-- SHR with an immediate count (R193). -/
def execShrRi (w : RI) (s : State) : Host.Outcome State Fault Refusal :=
  issue (.shrRi w) s fun s c => c.intRi s w fun a b => aluShr a b
/-- SAR with an immediate count (R193). -/
def execSarRi (w : RI) (s : State) : Host.Outcome State Fault Refusal :=
  issue (.sarRi w) s fun s c => c.intRi s w fun a b => aluSar a b
/-- ROL with an immediate count (R193). -/
def execRolRi (w : RI) (s : State) : Host.Outcome State Fault Refusal :=
  issue (.rolRi w) s fun s c => c.intRi s w fun a b => aluRol a b
/-- LEA with an immediate: the whole 64-bit immediate, unshifted (R193). -/
def execLeaRi (w : RI) (s : State) : Host.Outcome State Fault Refusal :=
  issue (.leaRi w) s fun s c => c.alu s w.g w.d true fun l => s.read64 c w.a l + w.imm64
/-- MOV with an immediate, also to EXEC and CHKINT (R184, R193). -/
def execMovRi (w : RI) (s : State) : Host.Outcome State Fault Refusal :=
  issue (.movRi w) s fun s c =>
    match w.d with
    | .sr _ => c.movSpecial s w.g w.d fun _ => w.imm64
    | _ => c.alu s w.g w.d false fun _ => w.imm64

end Sys2Proof.Machine
end

