-- ==== Sys2Proof/Machine/Raster.lean ====
section
/-! DEFINITION. Work graphs, their dispatcher, and the rasteriser (26 R459–R469). -/

namespace Sys2Proof.Machine
open Sys2Proof

/-! ### GRAPH_SET (R459, R460) -/

/-- Record buffer, LOG2N and RSZ of a node give the bytes its buffer takes (R461). -/
def nodeRange (n : List W64) : Nat × Nat :=
  let w := n.getD 2 0
  (field w 0 48, 0x100 + 64 * (field w 52 4 + 1) * 2 ^ field w 48 4)
/-- Whether a node descriptor's fields are in order (R460). -/
def nodeClean (n : List W64) : Bool :=
  let g (k : Nat) : W64 := n.getD k 0
  let mesh := (g 4).getLsbD 48
  field (g 0) 48 16 == 0 && field (g 0) 0 6 == 0 && field (g 1) 48 16 == 0 && field (g 2) 56 8 == 0 && field (g 2) 0 12 == 0
    && decide (4 ≤ field (g 2) 48 4) && field (g 3) 57 7 == 0 && field (g 3) 0 7 == 0 && field (g 3) 55 2 != 3
    && field (g 4) 50 14 == 0 && mesh == (field (g 4) 0 48 != 0) && (mesh || !(g 4).getLsbD 49) && field (g 5) 8 56 == 0
    && g 6 == 0 && g 7 == 0
/-- The PASID in which a pitch's graphs are read: the lowest-numbered of its contexts (log entry 26). -/
def State.graphPasid (s : State) (pitch : Nat) : Nat :=
  ((s.pasids.findBy fun _ c => c.pitch == pitch && !c.closing).map (·.1)).getD 0
/-- Read the kernel descriptors of some nodes: whether each is one that a node may have (R460). -/
def State.nodesFit (s : State) (pasid : Nat) (nodes : List (List W64)) : FwRes Bool :=
  nodes.foldl (fun (r : FwRes Bool) n =>
    match r with
    | .ok s true =>
      (match s.fwRead pasid (BitVec.ofNat 64 (field (n.getD 0 0) 0 48)) 64 with
      | .ok s bs =>
        .ok s (match kdescOf (wordsOf bs) with
          | some d => d.w == 1 && d.h == 1 && d.nsched == 0 && (n.getD 4 0).getLsbD 48 == (d.maxVtx != 0)
          | none => false)
      | .wait s => .wait s
      | .fail s => .ok s false)
    | r => r) (.ok s true)
/-- Whether a record buffer is shared by two nodes, of these or of another enabled graph of the pitch (R459). -/
def State.buffersShared (s : State) (graph pitch : Nat) (nodes : List (List W64)) : Bool :=
  let others := (s.graphs.map fun x => if x.1 ≠ graph ∧ x.2.enabled ∧ x.2.pitch = pitch then x.2.nodes else []).flatten
  let meets (a b : List W64) : Bool := rangesMeet (nodeRange a).1 (nodeRange a).2 (nodeRange b).1 (nodeRange b).2
  (nodes.zipIdx).any fun (a, i) => others.any (meets a) || (nodes.zipIdx).any fun (b, j) => decide (i < j) && meets a b
/-- A counter of a record buffer; 0 where it cannot be read. -/
def State.recCounter (s : State) (pasid : Nat) (n : List W64) (ofs : Nat) : State × Nat :=
  match s.fwRead pasid (BitVec.ofNat 64 ((nodeRange n).1 + ofs)) 8 with
  | .ok s bs => (s, leNat bs)
  | .wait s | .fail s => (s, 0)
/-- GRAPH_SET's work (R459, R460, R481). The dispatcher goes on from the counts the buffers hold. -/
def State.graphSet (s : State) : State :=
  let a := s.arg 0
  let at_ := (s.arg 1).toNat
  let graph := field a 0 4
  let count := field a 8 5 + 1
  let pitch := field a 16 4
  let enable := a.getLsbD 4
  let nodes := (List.range count).map fun i => wordsOf (s.polBytes (at_ + 64 * i) 64)
  let old := (s.graphs.get? graph).map (·.pitch)
  if !s.isOpen pitch ∨ (old.map s.isOpen) = some false then s.ends 0x1A0
  else if field a 5 3 ≠ 0 ∨ field a 13 3 ≠ 0 ∨ field a 20 44 ≠ 0 ∨ at_ % 8 ≠ 0 ∨ !inSram at_ (64 * count)
      ∨ (s.pitches.get? pitch).isNone ∨ !nodes.all nodeClean ∨ (enable && s.buffersShared graph pitch nodes) then s.ends 2
  else
    let pasid := s.graphPasid pitch
    match s.nodesFit pasid nodes with
    | .wait s => s
    | .fail s | .ok s false => s.ends 2
    | .ok s true =>
      let (s, g) := (nodes.zipIdx).foldl (fun (x : State × Graph) (n, i) =>
        let (s, d) := x.1.recCounter pasid n 0x80
        let (s, c) := s.recCounter pasid n 0x40
        (s, { x.2 with dispatched := x.2.dispatched.set i d, consumed := x.2.consumed.set i c }))
        (s, ⟨enable, pitch, nodes, [], []⟩)
      -- launches of the graph that are over count no more
      let isOver (l : Launch) : Bool := match l.node with
        | some (q, n, f, c) => q == graph && l.done && (l.stopped || decide (f + c ≤ g.consumed.getD n 0) || decide (g.dispatched.getD n 0 ≤ f))
        | none => false
      let retire (l : Launch) : Launch := if isOver l then { l with node := l.node.map fun x => (x.1 + 2 ^ 20, x.2) } else l
      { s with graphs := s.graphs.set graph g, launches := s.launches.mapV retire }.ends 0
/-- GRAPH_SET (R459). -/
def execGraphSet (blk : W64) (s : State) : Host.Outcome State Fault Refusal := s.command blk 18 State.graphSet

/-! ### The dispatcher (R463) -/

/-- How many records from `r` on are published, up to `n` of them. -/
def State.published (s : State) (pasid : Nat) (buf : W64) : Nat → Nat → State × Nat
  | 0, _ => (s, 0)
  | n + 1, r =>
    match s.fwRead pasid (BitVec.ofNat 64 (recSlot buf r)) 8 with
    | .ok s bs =>
      if leNat bs = r + 1 then
        let x := State.published s pasid buf n (r + 1)
        (x.1, x.2 + 1)
      else (s, 0)
    | .wait s | .fail s => (s, 0)
/-- RECORD_DISPATCH (R463): published records of a node, up to BATCH, become one launch. -/
def execRecordDispatch (pitch graph node : Nat) (s : State) : Host.Outcome State Fault Refusal :=
  match s.graphs.get? graph, s.pitches.get? pitch with
  | some g, some p =>
    let n := g.nodes.getD node []
    let stopped := s.launches.any fun x => x.2.stopped && (x.2.node.map fun y => (y.1, y.2.1)) == some (graph, node)
    if !g.enabled ∨ g.pitch ≠ pitch ∨ n = [] ∨ stopped = true ∨ s.boot.pc ≠ serviceLoop ∨ p.removing ∨ s.port.wait = .standby
        ∨ !(p.tdi = .opened ∨ p.tdi = .run) then .fault .notEnabled
    else
      let d := g.dispatched.getD node 0
      let pasid := s.graphPasid pitch
      let (s, k) := s.published pasid (n.getD 2 0) (max 1 (field (n.getD 5 0) 0 8)) d
      if k = 0 then .next s
      else
        let w3 := n.getD 3 0
        let req : List W64 :=
          [n.getD 0 0, n.getD 1 0, n.getD 2 0, BitVec.ofNat 64 (k + 2 ^ 16 + 2 ^ 32),
           BitVec.ofNat 64 (field w3 48 7 + field w3 55 2 * 2 ^ 15), BitVec.ofNat 64 (field w3 0 48), 0, 0]
        let (s, ok) := s.fwWrite pasid (BitVec.ofNat 64 ((nodeRange n).1 + 0x80)) (leBytes 8 (d + k))
        if !ok then .next s
        else .next { s with graphs := s.graphs.set graph { g with dispatched := g.dispatched.set node (d + k) },
                            requests := s.requests ++ [⟨none, pitch, pasid, req, some (graph, node, d, k)⟩] }
  | _, _ => .fault .notEnabled

/-! ### The rasteriser (R465–R468) -/

/-- A raster target. -/
structure RTarget where
  vbase : Nat
  w : Nat
  h : Nat
  pitch : Nat
  xscale : Nat
  xofs : Nat
  yscale : Nat
  yofs : Nat
  replace : Bool
  cull : Nat
  deriving DecidableEq, Repr
/-- A raster target from its words; none where it breaks R465. -/
def rtargetOf (ws : List W64) : Option RTarget :=
  let g (k : Nat) : W64 := ws.getD k 0
  let t : RTarget := ⟨(g 0).toNat, field (g 1) 0 16, field (g 1) 16 16, field (g 1) 32 32, field (g 2) 0 32, field (g 2) 32 32,
    field (g 3) 0 32, field (g 3) 32 32, (g 4).getLsbD 0, field (g 4) 1 2⟩
  if 2 ^ 48 ≤ t.vbase ∨ t.vbase % 8 ≠ 0 ∨ t.w < 1 ∨ 16384 < t.w ∨ t.h < 1 ∨ 16384 < t.h ∨ t.pitch % 8 ≠ 0 ∨ t.cull = 3
      ∨ 8 ≤ (g 4).toNat ∨ g 5 ≠ 0 ∨ g 6 ≠ 0 ∨ g 7 ≠ 0 then none
  else some t
/-- A vertex in the rasteriser: X and Y in 256ths of a pixel, and zd; none culls its primitives (R466). -/
def RTarget.vertex (t : RTarget) (x y z w : Nat) : Option (Int × Int × Nat) :=
  if !(fLt 0 w && fLe 0 z && fLe z w) then none
  else
    let sx := fAdd (fMul (fDiv x w) t.xscale) t.xofs
    let sy := fAdd (fMul (fDiv y w) t.yscale) t.yofs
    let fix (a : Nat) : Option Int :=
      if (fNum a).isNan then none
      else
        let v := ((fNum a).mul (ratio 256 1)).toIntSat .near (-(2 ^ 40)) (2 ^ 40)
        if v ≤ -(2 ^ 31) ∨ 2 ^ 31 ≤ v then none else some v
    match fix sx, fix sy with
    | some vx, some vy => some (vx, vy, fDiv z w)
    | _, _ => none
/-- The edge function from a to b at a point, and whether a point on it is inside (top or left edges, R466). -/
def edgeAt (a b : Int × Int) (px py : Int) : Int × Bool :=
  let dx := b.1 - a.1
  let dy := b.2 - a.2
  (dx * (py - a.2) - (px - a.1) * dy, decide (0 < dy) || (dy == 0 && decide (dx < 0)))
/-- The entries a primitive writes, in rows: pixel column and row, entry (R466). -/
def RTarget.primitive (t : RTarget) (v0 v1 v2 : Int × Int × Nat) (id : Nat) : List (Nat × Nat × Nat) :=
  let e := (v1.1 - v0.1) * (v2.2.1 - v0.2.1) - (v2.1 - v0.1) * (v1.2.1 - v0.2.1)
  if e = 0 ∨ (t.cull = 1 ∧ e < 0) ∨ (t.cull = 2 ∧ 0 < e) then [] else
  let (v1, v2) := if e < 0 then (v2, v1) else (v1, v2)
  let area := e.natAbs
  let p (v : Int × Int × Nat) : Int × Int := (v.1, v.2.1)
  let lo (a b c : Int) : Nat := (max 0 ((min a (min b c) - 128) / 256)).toNat
  let hi (a b c : Int) (n : Nat) : Nat := min n ((max (max a (max b c)) 0).toNat / 256 + 1)
  let x0 := lo v0.1 v1.1 v2.1
  let y0 := lo v0.2.1 v1.2.1 v2.2.1
  ((List.range (hi v0.2.1 v1.2.1 v2.2.1 t.h - y0)).map fun j =>
    (List.range (hi v0.1 v1.1 v2.1 t.w - x0)).filterMap fun i =>
      let px : Int := 256 * ((x0 + i : Nat) : Int) + 128
      let py : Int := 256 * ((y0 + j : Nat) : Int) + 128
      let e0 := edgeAt (p v1) (p v2) px py
      let e1 := edgeAt (p v2) (p v0) px py
      let e2 := edgeAt (p v0) (p v1) px py
      let ok (x : Int × Bool) : Bool := decide (0 < x.1) || (x.1 == 0 && x.2)
      if ok e0 && ok e1 && ok e2 then
        let term (x : Int × Bool) (v : Int × Int × Nat) : Num := (ratio x.1 area).mul (fNum v.2.2)
        let sum := ((term e0 v0).add .near (term e1 v1)).add .near (term e2 v2)
        let d := if sum.isZero then 0 else fRne sum
        some (x0 + i, y0 + j, d * 2 ^ 32 + id)
      else none).flatten
/-- The entries of an output: its primitives in ascending index, those culled left out (R297, R466). -/
def RTarget.entries (t : RTarget) (w : Wg) (nv np : Nat) : List (Nat × Nat × Nat) :=
  let word (k : Nat) : Nat := (w.mesh.getD k 0).toNat
  let vertex (v : Nat) : Option (Int × Int × Nat) :=
    if nv ≤ v then none else t.vertex (word (vtxKey v 0)) (word (vtxKey v 1)) (word (vtxKey v 2)) (word (vtxKey v 3))
  ((List.range np).map fun q =>
    match vertex (word (primKey q 0)), vertex (word (primKey q 1)), vertex (word (primKey q 2)) with
    | some a, some b, some c => t.primitive a b c (word (primKey q 3))
    | _, _, _ => []).flatten
/-- Whether the link or the doorbell region keeps an entry from being written as a VISMAX unit (R218). -/
def vismaxOk (ps : List Place) : Bool :=
  ps.all fun p => match p with
    | .mem _ _ a => (targetOf a).port.isNone && targetOf a != .doorbell
    | _ => true
/-- Write the entries (R467): VISMAX units or plain stores at dev scope. One whose page cannot be reached is lost (log
entry 27); false while the host's answer is awaited. -/
def State.putEntries (s : State) (pasid : Nat) (t : RTarget) : List (Nat × Nat × Nat) → State × Bool
  | [] => (s, true)
  | (px, py, v) :: rest =>
    match s.fwPlaces pasid (if t.replace then 1 else 2) (BitVec.ofNat 64 (t.vbase + py * t.pitch + 8 * px)) 8 with
    | .wait s => (s, false)
    | .fail s => State.putEntries s pasid t rest
    | .ok s ps =>
      let s := if t.replace then s.storeEl 96 2 ps v
        else if vismaxOk ps then (s.applyEl 8 6 ps (BitVec.ofNat 64 v) 0).1 else s
      State.putEntries s pasid t rest
/-- Graph, node and record number of a mesh workgroup of a node (R463). -/
def State.meshRecord (s : State) (w : Wg) : Option (Nat × Nat × Nat) :=
  match s.launches.get? w.launch with
  | some l => l.node.map fun x => (x.1, x.2.1, x.2.2.1 + w.nbhid)
  | none => none
/-- Whether record r of a node has had its output rasterised or has ended without one (R467). -/
def State.recDrawn (s : State) (graph node r : Nat) : Bool :=
  s.recOver graph node r || s.wgs.any fun x => s.meshRecord x.2 == some (graph, node, r) && x.2.role != 3
    && (x.2.rastered || (x.2.committed.isNone && (x.2.phase == .ended || x.2.phase == .recorded)))
/-- The outputs the rasteriser may take now (R466, R467): handed over and, in an ordered node, next in order. -/
def State.outputs (s : State) : List (Nat × Wg) :=
  s.wgs.filter fun (x : Nat × Wg) => x.2.committed.isSome && !x.2.rastered && x.2.role != 3 && x.2.phase != .recorded
    && (match s.meshRecord x.2 with
      | some (g, n, r) =>
        let ordered := ((s.graphs.get? g).map fun y => ((y.nodes.getD n []).getD 4 0).getLsbD 49).getD false
        let from_ := ((s.graphs.get? g).map fun y => y.consumed.getD n 0).getD 0
        !ordered || (List.range (r - from_)).all fun j => s.recDrawn g n (from_ + j)
      | none => false)
/-- Mark an output as rasterised. -/
def State.drawn (s : State) (u : Nat) (bad : Bool) : State :=
  { s with wgs := s.wgs.modify u fun w =>
    if bad then { w with rastered := true, failed := true, cause := 0xA7 } else { w with rastered := true } }
/-- RASTERISE_OUTPUT (R465–R468): an output handed over is rasterised; which of several is free (log entry 7). -/
def execRasteriseOutput (s : State) : Host.Outcome State Fault Refusal :=
  let xs := s.outputs
  let pick := if xs.length ≤ 1 then 0 else Config.arbiter (s.stepNo + 2 ^ 40) xs.length % xs.length
  match xs[pick]? with
  | none => .fault .notEnabled
  | some (u, w) =>
    match s.meshRecord w with
    | none => .fault .notEnabled
    | some (g, n, _) =>
      let target := ((s.graphs.get? g).map fun y => field ((y.nodes.getD n []).getD 4 0) 0 48).getD 0
      if target % 64 ≠ 0 then .next (s.drawn u true) else
      match s.fwPlaces w.pasid 0 (BitVec.ofNat 64 target) 64 with
      | .wait x => .next x
      | .fail x => .next (x.drawn u true)
      | .ok x ps =>
        let local_ := ps.all fun p => match p with
          | .mem _ _ a => targetOf a == .dram
          | _ => false
        match rtargetOf (wordsOf (ps.map fun p => x.readPlace 96 2 p)) with
        | some t =>
          if !local_ then .next (x.drawn u true)
          else
            let (nv, np) := w.committed.getD (0, 0)
            (match x.putEntries w.pasid t (t.entries w nv np) with
            | (y, true) => .next (y.drawn u false)
            | (y, false) => .next { s with atsReqs := y.atsReqs, nextId := y.nextId })
        | none => .next (x.drawn u true)

end Sys2Proof.Machine
end

