-- ==== Sys2Proof/Machine/Dispatch.lean ====
section
/-! DEFINITION. What each instruction and step does: one direct call of its meaning. -/

namespace Sys2Proof.Machine
open Sys2Proof

/-- The meaning of an instruction or step. -/
def exec (i : Instr) (s : State) : Host.Outcome State Fault Refusal :=
  match i with
  | .nop w => Sys2Proof.Machine.execNop w s
  | .pnop => Sys2Proof.Machine.execPnop s
  | .bra w => Sys2Proof.Machine.execBra w s
  | .brc w => Sys2Proof.Machine.execBrc w s
  | .bri w => Sys2Proof.Machine.execBri w s
  | .call w => Sys2Proof.Machine.execCall w s
  | .ret w => Sys2Proof.Machine.execRet w s
  | .exit w => Sys2Proof.Machine.execExit w s
  | .pset w => Sys2Proof.Machine.execPset w s
  | .pseti w => Sys2Proof.Machine.execPseti w s
  | .vote w => Sys2Proof.Machine.execVote w s
  | .lshf w => Sys2Proof.Machine.execLshf w s
  | .lred w => Sys2Proof.Machine.execLred w s
  | .plog w => Sys2Proof.Machine.execPlog w s
  | .pmov w => Sys2Proof.Machine.execPmov w s
  | .trap w => Sys2Proof.Machine.execTrap w s
  | .tret w => Sys2Proof.Machine.execTret w s
  | .csrr w => Sys2Proof.Machine.execCsrr w s
  | .csrw w => Sys2Proof.Machine.execCsrw w s
  | .clock w => Sys2Proof.Machine.execClock w s
  | .clockUntilExpiry core slot => Sys2Proof.Machine.execClockUntilExpiry core slot s
  | .chkerr w => Sys2Proof.Machine.execChkerr w s
  | .phase w => Sys2Proof.Machine.execPhase w s
  | .ckpt w => Sys2Proof.Machine.execCkpt w s
  | .prefc w => Sys2Proof.Machine.execPrefc w s
  | .iadd w => Sys2Proof.Machine.execIadd w s
  | .isub w => Sys2Proof.Machine.execIsub w s
  | .imul w => Sys2Proof.Machine.execImul w s
  | .imulh w => Sys2Proof.Machine.execImulh w s
  | .imad w => Sys2Proof.Machine.execImad w s
  | .imadw w => Sys2Proof.Machine.execImadw w s
  | .idiv w => Sys2Proof.Machine.execIdiv w s
  | .irem w => Sys2Proof.Machine.execIrem w s
  | .imin w => Sys2Proof.Machine.execImin w s
  | .imax w => Sys2Proof.Machine.execImax w s
  | .iabs w => Sys2Proof.Machine.execIabs w s
  | .ineg w => Sys2Proof.Machine.execIneg w s
  | .icmp w => Sys2Proof.Machine.execIcmp w s
  | .iaddc w => Sys2Proof.Machine.execIaddc w s
  | .and w => Sys2Proof.Machine.execAnd w s
  | .or w => Sys2Proof.Machine.execOr w s
  | .xor w => Sys2Proof.Machine.execXor w s
  | .andn w => Sys2Proof.Machine.execAndn w s
  | .not w => Sys2Proof.Machine.execNot w s
  | .shl w => Sys2Proof.Machine.execShl w s
  | .shr w => Sys2Proof.Machine.execShr w s
  | .sar w => Sys2Proof.Machine.execSar w s
  | .rol w => Sys2Proof.Machine.execRol w s
  | .bfx w => Sys2Proof.Machine.execBfx w s
  | .bfi w => Sys2Proof.Machine.execBfi w s
  | .popc w => Sys2Proof.Machine.execPopc w s
  | .clz w => Sys2Proof.Machine.execClz w s
  | .ctz w => Sys2Proof.Machine.execCtz w s
  | .brev w => Sys2Proof.Machine.execBrev w s
  | .permb w => Sys2Proof.Machine.execPermb w s
  | .sel w => Sys2Proof.Machine.execSel w s
  | .lea w => Sys2Proof.Machine.execLea w s
  | .mov w => Sys2Proof.Machine.execMov w s
  | .movi w => Sys2Proof.Machine.execMovi w s
  | .dot4 w => Sys2Proof.Machine.execDot4 w s
  | .iaddRi w => Sys2Proof.Machine.execIaddRi w s
  | .isubRi w => Sys2Proof.Machine.execIsubRi w s
  | .imulRi w => Sys2Proof.Machine.execImulRi w s
  | .iminRi w => Sys2Proof.Machine.execIminRi w s
  | .imaxRi w => Sys2Proof.Machine.execImaxRi w s
  | .icmpRi w => Sys2Proof.Machine.execIcmpRi w s
  | .andRi w => Sys2Proof.Machine.execAndRi w s
  | .orRi w => Sys2Proof.Machine.execOrRi w s
  | .xorRi w => Sys2Proof.Machine.execXorRi w s
  | .shlRi w => Sys2Proof.Machine.execShlRi w s
  | .shrRi w => Sys2Proof.Machine.execShrRi w s
  | .sarRi w => Sys2Proof.Machine.execSarRi w s
  | .rolRi w => Sys2Proof.Machine.execRolRi w s
  | .leaRi w => Sys2Proof.Machine.execLeaRi w s
  | .movRi w => Sys2Proof.Machine.execMovRi w s
  | .fadd w => Sys2Proof.Machine.execFadd w s
  | .fsub w => Sys2Proof.Machine.execFsub w s
  | .fmul w => Sys2Proof.Machine.execFmul w s
  | .ffma w => Sys2Proof.Machine.execFfma w s
  | .fmin w => Sys2Proof.Machine.execFmin w s
  | .fmax w => Sys2Proof.Machine.execFmax w s
  | .fcmp w => Sys2Proof.Machine.execFcmp w s
  | .fclass w => Sys2Proof.Machine.execFclass w s
  | .frnd w => Sys2Proof.Machine.execFrnd w s
  | .frcp w => Sys2Proof.Machine.execFrcp w s
  | .frsq w => Sys2Proof.Machine.execFrsq w s
  | .fsqrt w => Sys2Proof.Machine.execFsqrt w s
  | .fdiv w => Sys2Proof.Machine.execFdiv w s
  | .fexp2 w => Sys2Proof.Machine.execFexp2 w s
  | .flog2 w => Sys2Proof.Machine.execFlog2 w s
  | .fsinr w => Sys2Proof.Machine.execFsinr w s
  | .fcosr w => Sys2Proof.Machine.execFcosr w s
  | .fscale w => Sys2Proof.Machine.execFscale w s
  | .hadd2 w => Sys2Proof.Machine.execHadd2 w s
  | .hmul2 w => Sys2Proof.Machine.execHmul2 w s
  | .hfma2 w => Sys2Proof.Machine.execHfma2 w s
  | .hmin2 w => Sys2Proof.Machine.execHmin2 w s
  | .hmax2 w => Sys2Proof.Machine.execHmax2 w s
  | .hcmp2 w => Sys2Proof.Machine.execHcmp2 w s
  | .faddRi w => Sys2Proof.Machine.execFaddRi w s
  | .fmulRi w => Sys2Proof.Machine.execFmulRi w s
  | .ffmaRi w => Sys2Proof.Machine.execFfmaRi w s
  | .fminRi w => Sys2Proof.Machine.execFminRi w s
  | .fmaxRi w => Sys2Proof.Machine.execFmaxRi w s
  | .fcmpRi w => Sys2Proof.Machine.execFcmpRi w s
  | .cvt w => Sys2Proof.Machine.execCvt w s
  | .cvtp w => Sys2Proof.Machine.execCvtp w s
  | .qnb8 w => Sys2Proof.Machine.execQnb8 w s
  | .dqnb8 w => Sys2Proof.Machine.execDqnb8 w s
  | .qmx w => Sys2Proof.Machine.execQmx w s
  | .dqmx w => Sys2Proof.Machine.execDqmx w s
  | .smax w => Sys2Proof.Machine.execSmax w s
  | .cvtfx w => Sys2Proof.Machine.execCvtfx w s
  | .cvtxf w => Sys2Proof.Machine.execCvtxf w s
  | .pairWord h0 h1 => Sys2Proof.Machine.execPairWord h0 h1 s
  | .ld w => Sys2Proof.Machine.execLd w s
  | .ldu w => Sys2Proof.Machine.execLdu w s
  | .st w => Sys2Proof.Machine.execSt w s
  | .stu w => Sys2Proof.Machine.execStu w s
  | .upd w => Sys2Proof.Machine.execUpd w s
  | .updr w => Sys2Proof.Machine.execUpdr w s
  | .ucas w => Sys2Proof.Machine.execUcas w s
  | .vismax w => Sys2Proof.Machine.execVismax w s
  | .fence w => Sys2Proof.Machine.execFence w s
  | .rfence w => Sys2Proof.Machine.execRfence w s
  | .pref w => Sys2Proof.Machine.execPref w s
  | .discard w => Sys2Proof.Machine.execDiscard w s
  | .cpy w => Sys2Proof.Machine.execCpy w s
  | .cpyg w => Sys2Proof.Machine.execCpyg w s
  | .cpys w => Sys2Proof.Machine.execCpys w s
  | .cpyt w => Sys2Proof.Machine.execCpyt w s
  | .qfence w => Sys2Proof.Machine.execQfence w s
  | .coll w => Sys2Proof.Machine.execColl w s
  | .binit w => Sys2Proof.Machine.execBinit w s
  | .arrive w => Sys2Proof.Machine.execArrive w s
  | .expect w => Sys2Proof.Machine.execExpect w s
  | .waitp w => Sys2Proof.Machine.execWaitp w s
  | .bpoll w => Sys2Proof.Machine.execBpoll w s
  | .mona w => Sys2Proof.Machine.execMona w s
  | .monaCancel w => Sys2Proof.Machine.execMonaCancel w s
  | .bld w => Sys2Proof.Machine.execBld w s
  | .mma w => Sys2Proof.Machine.execMma w s
  | .mmap w => Sys2Proof.Machine.execMmap w s
  | .msa w => Sys2Proof.Machine.execMsa w s
  | .mzero w => Sys2Proof.Machine.execMzero w s
  | .mdr w => Sys2Proof.Machine.execMdr w s
  | .mmov w => Sys2Proof.Machine.execMmov w s
  | .mmt w => Sys2Proof.Machine.execMmt w s
  | .mres w => Sys2Proof.Machine.execMres w s
  | .mchk w => Sys2Proof.Machine.execMchk w s
  | .mstat w => Sys2Proof.Machine.execMstat w s
  | .tex w => Sys2Proof.Machine.execTex w s
  | .tld w => Sys2Proof.Machine.execTld w s
  | .tgath w => Sys2Proof.Machine.execTgath w s
  | .tdim w => Sys2Proof.Machine.execTdim w s
  | .ist w => Sys2Proof.Machine.execIst w s
  | .hgf w => Sys2Proof.Machine.execHgf w s
  | .hgs w => Sys2Proof.Machine.execHgs w s
  | .rbox w => Sys2Proof.Machine.execRbox w s
  | .rtri w => Sys2Proof.Machine.execRtri w s
  | .mvtx w => Sys2Proof.Machine.execMvtx w s
  | .mprim w => Sys2Proof.Machine.execMprim w s
  | .mcommit w => Sys2Proof.Machine.execMcommit w s
  | .qbLdb d a w o => Sys2Proof.Machine.execQbLdb d a w o s
  | .qbLdh d a w o => Sys2Proof.Machine.execQbLdh d a w o s
  | .qbLdw d a w o => Sys2Proof.Machine.execQbLdw d a w o s
  | .qbLdd d a w o => Sys2Proof.Machine.execQbLdd d a w o s
  | .qbStb d a w o => Sys2Proof.Machine.execQbStb d a w o s
  | .qbSth d a w o => Sys2Proof.Machine.execQbSth d a w o s
  | .qbStw d a w o => Sys2Proof.Machine.execQbStw d a w o s
  | .qbStd d a w o => Sys2Proof.Machine.execQbStd d a w o s
  | .qbAdd d a b => Sys2Proof.Machine.execQbAdd d a b s
  | .qbSub d a b => Sys2Proof.Machine.execQbSub d a b s
  | .qbAnd d a b => Sys2Proof.Machine.execQbAnd d a b s
  | .qbOr d a b => Sys2Proof.Machine.execQbOr d a b s
  | .qbXor d a b => Sys2Proof.Machine.execQbXor d a b s
  | .qbShl d a b => Sys2Proof.Machine.execQbShl d a b s
  | .qbShr d a b => Sys2Proof.Machine.execQbShr d a b s
  | .qbMul d a b => Sys2Proof.Machine.execQbMul d a b s
  | .qbAddi d a imm => Sys2Proof.Machine.execQbAddi d a imm s
  | .qbAndi d a imm => Sys2Proof.Machine.execQbAndi d a imm s
  | .qbOri d a imm => Sys2Proof.Machine.execQbOri d a imm s
  | .qbXori d a imm => Sys2Proof.Machine.execQbXori d a imm s
  | .qbShli d a sh => Sys2Proof.Machine.execQbShli d a sh s
  | .qbShri d a sh => Sys2Proof.Machine.execQbShri d a sh s
  | .qbMovi d imm => Sys2Proof.Machine.execQbMovi d imm s
  | .qbShlor d imm => Sys2Proof.Machine.execQbShlor d imm s
  | .qbCeq d a b => Sys2Proof.Machine.execQbCeq d a b s
  | .qbCne d a b => Sys2Proof.Machine.execQbCne d a b s
  | .qbCltu d a b => Sys2Proof.Machine.execQbCltu d a b s
  | .qbClts d a b => Sys2Proof.Machine.execQbClts d a b s
  | .qbBz a imm => Sys2Proof.Machine.execQbBz a imm s
  | .qbBnz a imm => Sys2Proof.Machine.execQbBnz a imm s
  | .qbJmp imm => Sys2Proof.Machine.execQbJmp imm s
  | .qbLoop a n l => Sys2Proof.Machine.execQbLoop a n l s
  | .qbLidx d => Sys2Proof.Machine.execQbLidx d s
  | .launch d => Sys2Proof.Machine.execLaunch d s
  | .signal d => Sys2Proof.Machine.execSignal d s
  | .hash d => Sys2Proof.Machine.execHash d s
  | .sign d => Sys2Proof.Machine.execSign d s
  | .random d => Sys2Proof.Machine.execRandom d s
  | .doesend d => Sys2Proof.Machine.execDoesend d s
  | .measread d => Sys2Proof.Machine.execMeasread d s
  | .emit a w o => Sys2Proof.Machine.execEmit a w o s
  | .halt => Sys2Proof.Machine.execHalt s
  | .fault imm => Sys2Proof.Machine.execFault imm s
  | .packetStart hw => Sys2Proof.Machine.execPacketStart hw s
  | .doorbellWrite addr value => Sys2Proof.Machine.execDoorbellWrite addr value s
  | .manifestVerify blk => Sys2Proof.Machine.execManifestVerify blk s
  | .measExtend blk => Sys2Proof.Machine.execMeasExtend blk s
  | .lanternLoad blk => Sys2Proof.Machine.execLanternLoad blk s
  | .lanternShow blk => Sys2Proof.Machine.execLanternShow blk s
  | .dramTrain blk => Sys2Proof.Machine.execDramTrain blk s
  | .pitchCfg blk => Sys2Proof.Machine.execPitchCfg blk s
  | .pitchRemove blk => Sys2Proof.Machine.execPitchRemove blk s
  | .pitchCoreCleared => Sys2Proof.Machine.execPitchCoreCleared s
  | .qprogLoad blk => Sys2Proof.Machine.execQprogLoad blk s
  | .imageMap blk => Sys2Proof.Machine.execImageMap blk s
  | .tlbInval blk => Sys2Proof.Machine.execTlbInval blk s
  | .pasidSet blk => Sys2Proof.Machine.execPasidSet blk s
  | .pasidClose blk => Sys2Proof.Machine.execPasidClose blk s
  | .pasidDrainAck => Sys2Proof.Machine.execPasidDrainAck s
  | .commCfg blk => Sys2Proof.Machine.execCommCfg blk s
  | .linkStat blk => Sys2Proof.Machine.execLinkStat blk s
  | .surfSet blk => Sys2Proof.Machine.execSurfSet blk s
  | .layerSet blk => Sys2Proof.Machine.execLayerSet blk s
  | .hudSet blk => Sys2Proof.Machine.execHudSet blk s
  | .errrecRead blk => Sys2Proof.Machine.execErrrecRead blk s
  | .faultInject blk => Sys2Proof.Machine.execFaultInject blk s
  | .graphSet blk => Sys2Proof.Machine.execGraphSet blk s
  | .keyGrant blk => Sys2Proof.Machine.execKeyGrant blk s
  | .tdiStateLock blk => Sys2Proof.Machine.execTdiStateLock blk s
  | .tdiStateStart blk => Sys2Proof.Machine.execTdiStateStart blk s
  | .tdiStateStop blk => Sys2Proof.Machine.execTdiStateStop blk s
  | .tdiStateError blk => Sys2Proof.Machine.execTdiStateError blk s
  | .debugSet blk => Sys2Proof.Machine.execDebugSet blk s
  | .debugChallenge blk => Sys2Proof.Machine.execDebugChallenge blk s
  | .debugToken blk => Sys2Proof.Machine.execDebugToken blk s
  | .debugHalt blk => Sys2Proof.Machine.execDebugHalt blk s
  | .debugStep blk => Sys2Proof.Machine.execDebugStep blk s
  | .debugResume blk => Sys2Proof.Machine.execDebugResume blk s
  | .powerSetRun blk => Sys2Proof.Machine.execPowerSetRun blk s
  | .powerSetStandby blk => Sys2Proof.Machine.execPowerSetStandby blk s
  | .svnRaise blk => Sys2Proof.Machine.execSvnRaise blk s
  | .scpstatWrite value => Sys2Proof.Machine.execScpstatWrite value s
  | .hostrdyWrite value => Sys2Proof.Machine.execHostrdyWrite value s
  | .registerWrite addr size value => Sys2Proof.Machine.execRegisterWrite addr size value s
  | .bindRecord core entry => Sys2Proof.Machine.execBindRecord core entry s
  | .slotStatusWrite core => Sys2Proof.Machine.execSlotStatusWrite core s
  | .launchRequest => Sys2Proof.Machine.execLaunchRequest s
  | .wgsliceExpiry wg => Sys2Proof.Machine.execWgsliceExpiry wg s
  | .preemptWorkgroup wg => Sys2Proof.Machine.execPreemptWorkgroup wg s
  | .groupSlotRelease core slot => Sys2Proof.Machine.execGroupSlotRelease core slot s
  | .completionRecord wg => Sys2Proof.Machine.execCompletionRecord wg s
  | .recordDispatch pitch graph node => Sys2Proof.Machine.execRecordDispatch pitch graph node s
  | .rasteriseOutput => Sys2Proof.Machine.execRasteriseOutput s
  | .loadReturn acc => Sys2Proof.Machine.execLoadReturn acc s
  | .updateUnitApply acc => Sys2Proof.Machine.execUpdateUnitApply acc s
  | .translationFault acc => Sys2Proof.Machine.execTranslationFault acc s
  | .pageFaultService leaf => Sys2Proof.Machine.execPageFaultService leaf s
  | .operandLogReplay acc => Sys2Proof.Machine.execOperandLogReplay acc s
  | .pageMigration pasid va frame => Sys2Proof.Machine.execPageMigration pasid va frame s
  | .copyStart cp => Sys2Proof.Machine.execCopyStart cp s
  | .copyComplete cp => Sys2Proof.Machine.execCopyComplete cp s
  | .matrixCommandStart core => Sys2Proof.Machine.execMatrixCommandStart core s
  | .matrixCommandComplete core => Sys2Proof.Machine.execMatrixCommandComplete core s
  | .monitorFire mon => Sys2Proof.Machine.execMonitorFire mon s
  | .monitorTimeout mon => Sys2Proof.Machine.execMonitorTimeout mon s
  | .coreGate core => Sys2Proof.Machine.execCoreGate core s
  | .coreWakeComplete core => Sys2Proof.Machine.execCoreWakeComplete core s
  | .idleEntry => Sys2Proof.Machine.execIdleEntry s
  | .compareEntry pair => Sys2Proof.Machine.execCompareEntry pair s
  | .redSlackTimeout pair => Sys2Proof.Machine.execRedSlackTimeout pair s
  | .checkpoint pair => Sys2Proof.Machine.execCheckpoint pair s
  | .auditVerdict audit => Sys2Proof.Machine.execAuditVerdict audit s
  | .selftestDone core pass => Sys2Proof.Machine.execSelftestDone core pass s
  | .frameStart pipe => Sys2Proof.Machine.execFrameStart pipe s
  | .signaturePoll surface => Sys2Proof.Machine.execSignaturePoll surface s
  | .tileSignatureDone surface tile => Sys2Proof.Machine.execTileSignatureDone surface tile s
  | .tileDeadline pipe row => Sys2Proof.Machine.execTileDeadline pipe row s
  | .hudLatch pipe slice => Sys2Proof.Machine.execHudLatch pipe slice s
  | .cameraFrame => Sys2Proof.Machine.execCameraFrame s
  | .lanternStall pipe => Sys2Proof.Machine.execLanternStall pipe s
  | .pipeFailover pipe => Sys2Proof.Machine.execPipeFailover pipe s
  | .eccSectorRewrite sector => Sys2Proof.Machine.execEccSectorRewrite sector s
  | .channelFailing channel => Sys2Proof.Machine.execChannelFailing channel s
  | .linkTrained port width mode => Sys2Proof.Machine.execLinkTrained port width mode s
  | .linkRetrain port width => Sys2Proof.Machine.execLinkRetrain port width s
  | .portDown port => Sys2Proof.Machine.execPortDown port s
  | .ideIntegrityFailure stream => Sys2Proof.Machine.execIdeIntegrityFailure stream s
  | .atsInvalidateRequest pasid va len => Sys2Proof.Machine.execAtsInvalidateRequest pasid va len s
  | .atsTranslationCompletion req entry => Sys2Proof.Machine.execAtsTranslationCompletion req entry s
  | .pageRequestResponse req ok => Sys2Proof.Machine.execPageRequestResponse req ok s
  | .hostAtomic addr op size v cmp => Sys2Proof.Machine.execHostAtomic addr op size v cmp s
  | .doeRequest words => Sys2Proof.Machine.execDoeRequest words s
  | .doeDiscovery words => Sys2Proof.Machine.execDoeDiscovery words s
  | .doeResponseRead => Sys2Proof.Machine.execDoeResponseRead s
  | .doeAbort => Sys2Proof.Machine.execDoeAbort s
  | .powerGood => Sys2Proof.Machine.execPowerGood s
  | .powerLoss => Sys2Proof.Machine.execPowerLoss s
  | .wakeInput => Sys2Proof.Machine.execWakeInput s
  | .powerManagerClocks half => Sys2Proof.Machine.execPowerManagerClocks half s
  | .backInvalidation line data => Sys2Proof.Machine.execBackInvalidation line data s
  | .hostOrPeerAccess port addr len data => Sys2Proof.Machine.execHostOrPeerAccess port addr len data s
  | .servedTimeWindow => Sys2Proof.Machine.execServedTimeWindow s

end Sys2Proof.Machine
end

