-- ==== Sys2Proof/Machine/Sched.lean ====
section
/-! DEFINITION. What the machine may do next: the word each pipe issues, the packets, the command of the port, the boot
program, and the steps that the engines, the firmware and the display take by themselves (03 R57–R67, 14 R316–R327;
log entries 2, 6 and 7). -/

namespace Sys2Proof.Machine
open Sys2Proof

/-- The state a step yields, if it yields one. -/
def given (o : Host.Outcome State Fault Refusal) : List State :=
  match o with
  | .next s => [s]
  | _ => []
/-- The state a step yields, if it changes what it is to change or asks the host something. -/
def State.moves {α : Type} [DecidableEq α] (s : State) (f : State → α) (o : Host.Outcome State Fault Refusal) : List State :=
  match o with
  | .next s' => if f s' = f s ∧ s'.atsReqs.length = s.atsReqs.length ∧ s'.faults.length = s.faults.length then [] else [s']
  | _ => []

/-! ### The issue of a group (R57, R58, R61, R66, R67) -/

/-- The words of planes at the group's offset, ascending, or how a fetch ends. -/
def Ctx.fetchAll (c : Ctx) (s : State) (planes : List Nat) : Except Res (List (Nat × W64)) :=
  planes.foldl (fun (r : Except Res (List (Nat × W64))) p =>
    match r with
    | .error e => .error e
    | .ok ws => match c.fetchWord s p c.g.ofs.toNat with
      | .error e => .error e
      | .ok x => .ok (ws ++ [(p, x)])) (.ok [])
/-- The planes of a set, ascending. -/
def planesOf (m : BitVec 8) : List Nat := (List.range 8).filter fun p => m.getLsbD p
/-- Decode a fetched word with the word behind it, where its kind takes one (R112); its cause otherwise. -/
def Ctx.decodeAt (c : Ctx) (s : State) (plane : Nat) (x : W64) : Except Res (Except Cause Instr) :=
  let o := c.g.ofs.toNat + 1
  if x.extractLsb' 62 2 = 0 ∧ takesExt (x.extractLsb' 52 10).toNat ∧ o < c.w.desc.len then
    match c.fetchWord s plane o with
    | .error e => .error e
    | .ok y => .ok (decodeWord x (some y))
  else .ok (decodeWord x none)
/-- Issue a fetched word for a plane of the group in a slot. A word captured as a follow-on counts as PNOP, and a copy
whose follow-on is not there raises ILL_MOD before ILL_OPERAND (R129, R228). -/
def State.issueWord (s : State) (c : Ctx) (plane : Nat) (x : W64) (congruent : Bool) : Host.Outcome State Fault Refusal :=
  let at_ : State := { s with focus := .group c.core c.slot plane }
  if c.g.captured.getLsbD plane then exec .pnop at_ else
  match c.decodeAt s plane x with
  | .error r => .next (c.finish s .pnop true r)
  | .ok (.error cause) =>
    let c := { c with plane }
    let fo := decide ((x.extractLsb' 52 12).toNat ∈ [0x280, 0x281, 0x282, 0x283]) && x.getLsbD 3 && c.noFollowOn s plane
    let cause := if cause = .illOperand ∧ fo then .illMod else cause
    .next (c.raise s congruent false cause.code (if congruent then c.g.exec else c.g.active plane) 0 x)
  | .ok (.ok i) => exec i at_
/-- Issue the next word of the group in a slot, whose offset has begun: every occupied plane's word is fetched, also where a
handler's return names only some planes; if one is congruent all must be the same, and it issues once; else the lowest
plane left issues (R58, R61, R67, R163). -/
def State.issueAt (s : State) (core slot : Nat) : Host.Outcome State Fault Refusal :=
  match s.groups.get? (gid core slot) with
  | none => .fault .noIssuer
  | some g0 =>
    let todo := g0.todo.getD 0
    match s.ctxOf core slot (lowPlane todo) true with
    | none => .fault .noIssuer
    | some c =>
      match c.g.wait with
      | .failed cause addr extra => .next (c.raise s true false cause c.g.exec addr extra)
      | _ =>
        if todo = 0 then .next (s.advance c.k) else
        match c.fetchAll s (planesOf c.g.pmask) with
        | .error r => .next (c.finish s .pnop true r)
        | .ok ws =>
          let low := (ws.headD (0, 0)).2
          if ws.any fun x => congruentBits x.2 then
            let diff := ws.foldl (fun (m : BitVec 8) x => if x.2 = low then m else m ||| (1#8 <<< x.1)) 0
            if diff ≠ 0 then .next (c.raise s true false Cause.planeSplit.code c.g.exec 0 (diff.zeroExtend 64))
            else s.issueWord c c.plane low true
          else s.issueWord c c.plane ((ws.lookup c.plane).getD 0) false
/-- Whether an access in flight of a group touches its own spill area, which holds the stacks: the group then waits, as its
accesses to one byte keep its program order (R142, R397). -/
def State.spillBusy (s : State) (g : Group) : Bool :=
  match s.wgs.get? g.wg with
  | some w => (s.accsOf g.wg g.gi).any fun x => !x.2.inLog &&
      x.2.els.any fun (_, a, n) => meets a n (spillBase + BitVec.ofNat 64 (g.gi * w.spillBytes)) w.spillBytes
  | none => false
/-- Whether a group may issue as far as its core, its neighbourhood, its pair, its spill area and a debug halt go (R70, R142,
R181, R325, R343, R486). -/
def State.mayIssue (s : State) (core : Nat) (g : Group) : Bool :=
  !g.ended && !(s.core core).gated && (match s.wgs.get? g.wg with
    | some w => w.phase == .resident && ((s.nbhs.get? w.nbh).map (·.started)).getD false
    | none => false)
    && (match g.wait with
      | .none | .waitp .. | .mstat _ | .failed .. => true
      | _ => false)
    && !(g.heldTrap && s.mayDefer g.wg g.gi) && !s.pairHolds g && !(g.halted && !g.stepReq && g.atBoundary)
    && !(g.stop && g.atBoundary) && !s.spillBusy g
/-- What a group's issue changes, one thing or another. -/
structure Progress where
  ofs : BitVec 24
  cj : BitVec 24
  depth : Nat
  calls : Nat
  todo : Option (BitVec 8)
  wait : Wait
  ended : Bool
  heldTrap : Bool
  claim : Option Nat
  ckpt : Bool
  mustRoll : Bool
  deriving DecidableEq, Repr
/-- How far a group has come. -/
def State.progress (s : State) (k : Nat) : Option Progress :=
  (s.groups.get? k).map fun g =>
    { ofs := g.ofs, cj := g.cj, depth := g.depth, calls := g.callDepth, todo := g.todo, wait := g.wait, ended := g.ended, heldTrap := g.heldTrap,
      claim := (s.wgs.get? g.wg).bind (·.claim),
      ckpt := match s.pairOf g.wg with
        | some (_, p, _) => p.ckpt
        | none => false
      mustRoll := match s.pairOf g.wg with
        | some (_, p, _) => p.mustRoll.isSome
        | none => false }
/-- A step that issued for a halted group uses up its single step (R486). -/
def State.stepped (s : State) (k : Nat) : State :=
  s.updGroup k fun g => { g with stepReq := false }
/-- The next word of a group, if it can issue: its offset begins, or its word issues, traps, waits or ends (R58). -/
def State.groupStep (s : State) (core slot : Nat) : Option State :=
  let k := gid core slot
  match s.groups.get? k with
  | none => none
  | some g =>
    match s.wgs.get? g.wg with
    | none => none
    | some w =>
      if !s.mayIssue core g then none else
      match s.beginOffset k w g with
      | (s', none) => if s'.progress k = s.progress k then none else some s'
      | (s1, some _) =>
        match s1.issueAt core slot with
        | .next s' => if s'.progress k = s1.progress k then none else some (if g.stepReq then s'.stepped k else s')
        | _ => none
/-- Insert a slot by wait stamp, ties to the lower slot (R317). -/
def insertStamp (x : Nat × Nat) : List (Nat × Nat) → List (Nat × Nat)
  | [] => [x]
  | y :: ys => if x.1 < y.1 ∨ (x.1 = y.1 ∧ x.2 < y.2) then x :: y :: ys else y :: insertStamp x ys
/-- The slots of a pipe of a core, those with the smallest wait stamp first (R316, R317). -/
def State.pipeOrder (s : State) (core pipe : Nat) : List Nat :=
  ((s.groups.filter fun x => x.1 / 64 == core && x.1 % 4 == pipe).foldl (fun l x => insertStamp (x.2.stamp, x.1 % 64) l) []).map (·.2)
/-- What a pipe issues: the word of its ready group with the smallest stamp (R317). -/
def State.pipeStep (s : State) (core pipe : Nat) : Option State := (s.pipeOrder core pipe).findSome? fun slot => s.groupStep core slot
/-- Cores that hold groups. -/
def State.busyCores (s : State) : List Nat := dedup (s.groups.map fun x => x.1 / 64)
/-- What the pipes may issue. -/
def State.groupSteps (s : State) : List State :=
  (s.busyCores.map fun c => [0, 1, 2, 3].filterMap fun p => s.pipeStep c p).flatten

/-! ### Packets (R301, R302, R316) -/

/-- The next word of a running packet. -/
def State.packetStep (s : State) (hw : Nat) (q : QSlot) : List State :=
  if !q.running ∨ q.waiting then [] else
  match decodeQueue (q.prog.words.getD q.pc 0) with
  | some i => given (exec i { s with focus := .queue hw })
  | none => []
/-- What the hardware queue slots may do: start a packet, execute a word of one, or let go of a queue that is not ready (R355). -/
def State.queueSteps (s : State) : List State :=
  (s.slots.map fun (x : Nat × QSlot) => if x.2.running then s.packetStep x.1 x.2 else given (execPacketStart x.1 s)).flatten
    ++ (if s.slots.any fun x => s.qStale x.2 then [s.qSchedule] else [])

/-! ### The system command port and the boot program (R13, R15, R22) -/

/-- The step of the command that the port runs, by its opcode and request (R17, R477). -/
def State.commandStep (s : State) : Host.Outcome State Fault Refusal :=
  let b : W64 := s.port.running.zeroExtend 64
  match s.port.opcode.toNat with
  | 1 => execManifestVerify b s
  | 2 => execMeasExtend b s
  | 3 => execLanternLoad b s
  | 4 => execLanternShow b s
  | 5 => execDramTrain b s
  | 6 => if s.removes then execPitchRemove b s else execPitchCfg b s
  | 7 => execQprogLoad b s
  | 8 => execImageMap b s
  | 9 => execTlbInval b s
  | 10 => if (s.arg 0).getLsbD 63 then execPasidClose b s else execPasidSet b s
  | 11 => execCommCfg b s
  | 12 => execLinkStat b s
  | 13 => execSurfSet b s
  | 14 => execLayerSet b s
  | 15 => execHudSet b s
  | 16 => execErrrecRead b s
  | 17 => execFaultInject b s
  | 18 => execGraphSet b s
  | 19 => execKeyGrant b s
  | 20 =>
    (match field (s.arg 0) 4 3 with
    | 0 => execTdiStateLock b s
    | 1 => execTdiStateStart b s
    | 2 => execTdiStateStop b s
    | _ => execTdiStateError b s)
  | 21 => execDebugSet b s
  | 22 => execDebugChallenge b s
  | 23 => execDebugToken b s
  | 24 =>
    (match field (s.arg 0) 13 2 with
    | 0 => execDebugHalt b s
    | 1 => execDebugStep b s
    | _ => execDebugResume b s)
  | 25 => if (s.arg 0).toNat % 4 = 0 then execPowerSetRun b s else execPowerSetStandby b s
  | 26 => execSvnRaise b s
  | _ => .fault .notEnabled
/-- What the port may do: run its command, or end one that waits. -/
def State.portSteps (s : State) : List State :=
  if !s.port.busy then [] else
  s.moves (fun s => s.port) s.commandStep ++ given (execPitchCoreCleared s) ++ given (execPasidDrainAck s)
/-- The boot program's next step. -/
def State.bootSteps (s : State) : List State := if s.boot.pc = serviceLoop then [] else (s.bootNext 64).toList

/-! ### Accesses, engines, pairs and cores -/

/-- What the accesses in flight and in the operand logs may do (R209, R214, R322, R324). -/
def State.accessSteps (s : State) : List State :=
  (s.accs.map fun x => given (execLoadReturn x.1 s) ++ given (execUpdateUnitApply x.1 s) ++ given (execTranslationFault x.1 s)
    ++ given (execOperandLogReplay x.1 s)).flatten
/-- What the caches and the DRAM may do of themselves (R377, R379, R445, R447). -/
def State.memorySteps (s : State) : List State := s.l1Evictions ++ s.wcDrains ++ s.mscEvictions ++ s.dramErrors
/-- What the copy engines may do (R225). -/
def State.copySteps (s : State) : List State :=
  (s.copies.map fun x => given (execCopyStart x.1 s) ++ given (execCopyComplete x.1 s)).flatten
/-- What the matrix engines and the monitors may do (R238, R239, R245). -/
def State.engineSteps (s : State) : List State :=
  (s.cores.map fun x => given (execMatrixCommandStart x.1 s) ++ (s.matrixStep x.1).toList ++ given (execMatrixCommandComplete x.1 s)).flatten
    ++ (s.monitors.map fun x => given (execMonitorFire x.1 s) ++ given (execMonitorTimeout x.1 s)).flatten
/-- What the pairs and the auditor may do (R330, R341, R343, R452). -/
def State.pairSteps (s : State) : List State :=
  let f (s : State) : List (Nat × Nat × Bool × Bool × Bool) := s.pairs.map fun x =>
    (x.2.lead.entries.length, x.2.sweep.entries.length, x.2.mustRoll.isSome, x.2.rolled, x.2.failed)
  (s.pairs.map fun x => s.moves f (execCompareEntry x.1 s) ++ given (execRedSlackTimeout x.1 s) ++ given (execCheckpoint x.1 s)
      ++ (s.sweepTakes x.1).toList).flatten
    ++ (s.replays.map fun x => s.moves (fun s => s.replays) (execAuditVerdict x.1 s)).flatten
/-- Whether a group of a core could issue. -/
def State.coreReady (s : State) (core : Nat) : Bool :=
  [0, 1, 2, 3].any fun p => (s.pipeOrder core p).any fun slot => (s.groupStep core slot).isSome
/-- What the cores and the resident groups may do besides issuing: a hold ends, a stopped group ends, an ended one gives up
its slot, a core gates or wakes, a quarantined one ends its test with a free verdict (R153, R165, R325, R326, R363, R450). -/
def State.coreSteps (s : State) : List State :=
  (s.groups.map fun x => given (execClockUntilExpiry (x.1 / 64) (x.1 % 64) s)
      ++ (if x.2.stop && !x.2.ended && x.2.atBoundary then [s.endGroup x.1] else [])
      ++ (if x.2.ended then given (execGroupSlotRelease (x.1 / 64) (x.1 % 64) s) else [])).flatten
    ++ (s.cores.map fun x => (if decide (64 ≤ x.2.idle) && !s.coreReady x.1 then given (execCoreGate x.1 s) else [])
      ++ given (execCoreWakeComplete x.1 s)
      ++ (if x.2.outOfService && !x.2.dead && (s.groupsOn x.1).isEmpty then
          given (execSelftestDone x.1 (Config.freeBool s.stepNo x.1) s) else [])).flatten
    ++ (if s.boot.pc = serviceLoop then given (execIdleEntry s) else [])
    ++ (if s.windowAt + 8000000 ≤ s.time then given (execServedTimeWindow s) else [])

/-! ### Dispatch and the firmware -/

/-- What dispatch and the completion of work may do (R21, R362). -/
def State.dispatchSteps (s : State) : List State :=
  (match s.binds with
    | [] => []
    | b :: _ => given (execBindRecord b.1 b.2 s))
    ++ (s.wgs.map fun x => if x.2.phase = .ended then
        s.moves (fun s => (s.wgs.get? x.1).map (·.phase)) (execCompletionRecord x.1 s) else []).flatten
/-- What the policy firmware's service loop may do (R25, R172, R357, R365, R455, R463, R466). -/
def State.firmwareSteps (s : State) : List State :=
  if s.boot.pc ≠ serviceLoop then [] else
  -- the policy cores that wait in park are woken (R25)
  (if s.boot.parked = 0 then [] else [{ s with boot := { s.boot with parked := 0 } }]) ++
  (match s.faults with
    | [] => []
    | f :: _ => given (execPageFaultService (Config.firmwareLeaf f.pasid (f.va.truncate 48)) s))
    ++ (if s.requests.isEmpty then [] else s.moves (fun s => s.requests.length) (execLaunchRequest s))
    ++ (s.wgs.map fun x => if x.2.preempt then given (execPreemptWorkgroup x.1 s) else given (execWgsliceExpiry x.1 s)).flatten
    ++ (s.pitches.map fun x => match s.victim x.1 with
        | some u => given (execPreemptWorkgroup u s)
        | none => []).flatten
    ++ (s.graphs.map fun x => ((List.range x.2.nodes.length).map fun n =>
        s.moves (fun s => s.nextId) (execRecordDispatch x.2.pitch x.1 n s)).flatten).flatten
    ++ (if s.graphs.isEmpty then [] else s.moves (fun s => s.wgs.map fun x => x.2.rastered) (execRasteriseOutput s))
    ++ (if s.ueLog.length ≤ 16 then [] else ((List.range 32).map fun ch => given (execChannelFailing ch s)).flatten)

/-! ### The display -/

/-- What the display and its signature unit may do (R422, R427, R433, R437, R441). -/
def State.displaySteps (s : State) : List State :=
  ([0, 1, 2, 3].map fun p => given (execFrameStart p s)).flatten
    ++ (s.pipes.map fun x => given (execLanternStall x.1 s)
      ++ ([0, 1, 2, 3].map fun k => given (execHudLatch x.1 k s)).flatten).flatten
    ++ (s.surfaces.map fun x => s.moves (fun s => s.layers) (execSignaturePoll x.1 s)).flatten
    ++ (s.layers.map fun x =>
        (x.2.tiles.map fun t => s.moves (fun s => s.layers) (execTileSignatureDone (x.1 / 16) (256 * (x.1 % 16) + t.1) s)).flatten
        ++ ((List.range (lH x.2.words / 64)).map fun r => given (execTileDeadline (s.pipeOf (x.1 / 16)) r s)).flatten).flatten

/-! ### The choice of a step -/

/-- Everything the machine may do next besides issuing words. -/
def State.deviceSteps (s : State) : List State :=
  s.portSteps ++ s.bootSteps ++ s.memorySteps ++ s.accessSteps ++ s.copySteps ++ s.engineSteps ++ s.pairSteps ++ s.coreSteps ++ s.dispatchSteps
    ++ s.firmwareSteps ++ s.displaySteps ++ s.doeAccept.toList
/-- Everything the machine may do next: nothing while it is Off, only the display in Standby (R487). -/
def State.candidates (s : State) : List State :=
  match s.power with
  | .off => []
  | .standby => s.displaySteps
  | _ => s.groupSteps ++ s.queueSteps ++ s.deviceSteps
/-- The step that is taken among several: a free choice (log entry 7). -/
def State.choose (s : State) (xs : List State) : State :=
  match xs with
  | [] => s
  | [x] => x
  | _ => xs.getD (Config.arbiter s.stepNo xs.length % xs.length) s

/-! ### Time and what follows of itself -/

/-- A core's clock over a step (R56, R325, R327, R483). -/
def CoreSt.tick (x : CoreSt) (cycles ns : Nat) (logFull : Bool) : CoreSt :=
  if x.gated ∧ !x.waking then { x with gatedNs := x.gatedNs + ns }
  else { x with cycle := x.cycle + cycles, idle := x.idle + cycles, logStall := if logFull then x.logStall + cycles else x.logStall }
/-- The clocks over a step: how long it takes is free (log entry 2). -/
def State.clocks (s : State) (n : Nat) : State :=
  { s with
    stepNo := n + 1, time := s.time + Config.stepNs n,
    cores := s.cores.map fun (x : Nat × CoreSt) =>
      (x.1, x.2.tick (Config.stepCycles n x.1) (Config.stepNs n) (decide (64 ≤ s.logCount x.1))) }
/-- The slots of a core whose groups could issue if its clocks ran. -/
def State.readySlots (s : State) (core : Nat) : BitVec 64 :=
  let s := s.setCore core { s.core core with gated := false }
  (s.groups.filter fun x => x.1 / 64 == core).foldl (fun (m : BitVec 64) x =>
    if (s.groupStep core (x.1 % 64)).isSome then m ||| (1#64 <<< (x.1 % 64)) else m) 0
/-- A gated core whose groups have become ready without an event of a name of its own wakes, or records it (R326, R327). -/
def State.wakeReady (s : State) : State :=
  (s.busyCores.filter fun c => (s.core c).gated || (s.core c).waking).foldl (fun (s : State) c =>
    let now := s.readySlots c
    let x := s.core c
    let s := if now &&& ~~~x.ready ≠ 0 ∧ !x.woken then s.wake c Machine.wakeReady else s
    s.setCore c { s.core c with ready := now, woken := false }) s
/-- What follows of itself after a step: PHASE holds that are over are released, pitches finish ending their work, ready
groups wake their cores, and no word is in issue (R167, R326, R480). -/
def State.settle (s : State) : State :=
  let s := (s.nbhs.map (·.1)).foldl (fun (s : State) k => s.phaseRelease k) s
  let s := ((s.pitches.filter fun x => x.2.removing).map (·.1)).foldl (fun (s : State) p => s.settleEnd p) s
  { s.wakeReady with focus := .none }
/-- What surrounds every step. -/
def State.tick (s : State) (n : Nat) : State := s.settle.clocks n

end Sys2Proof.Machine
end

