-- ==== Sys2Proof/Machine/Fetch.lean ====
section
/-! DEFINITION. A machine set up so that its next step fetches and runs one given instruction: a queue word as the only
word of a packet in queue slot 0, a core word as the first word of a one-group workgroup on core 0 (log entry 28: what a
loader, the firmware and the host would have done before). -/

namespace Sys2Proof.Machine
open Sys2Proof

/-- The pitch that holds every core. -/
def loadPitch : Pitch :=
  { cores := BitVec.allOnes 96, ways := 1, share := 0, engSlots := 0, keySlot := 0, prioLo := 0, prioHi := 127, saveBase := 0x100000,
    saveLen := 0x1000000, tdi := .opened, debug := 0, granted := [], reserved := [], removing := false }
/-- Its PASID 0, with a page of data at 0 and a page of code at 0x1000. -/
def loadPasid : PasidCtx := { root := 0x1000, func := 0, pitch := 0, ats := false, pri := false, closing := false }
/-- The page tables of that PASID. -/
def loadTables (s : State) : State :=
  ((((s.rawWrite 0x1000 8 0x2001).rawWrite 0x2000 8 0x3001).rawWrite 0x3000 8 0x4001).rawWrite 0x4000 8 0x500B).rawWrite 0x4008 8 0x600F
/-- The kernel's descriptor. -/
def loadDesc : KDesc :=
  { entry := 0, trapEnt := 0xFFFFFF, planes := 1, codeOfs := 0, len := 512, vregs := 256, sregs := 64, preds := 48, barriers := 64,
    scratch := 1024, stack := 16, groups := 1, w := 1, h := 1, nsched := 0, redundant := false, auditable := false, auditk := 0,
    scheds := [], maxVtx := 256, maxPrim := 512 }
/-- Its launch. -/
def loadLaunch : Launch :=
  { Launch.make [0, 0x1000, 0, 0x100010001, 0, 0, 0, 0] 0 0 loadDesc 0x7000 none with pending := [] }
/-- Its workgroup. -/
def loadWg (time : Nat) : Wg :=
  { Wg.make loadLaunch 3 2 0 0 0x100000 time
      { wgid := 0, slot := 0, ngroups := 1, pitch := 0, prio := 0, scrBase := 0, scrSize := 1028, vregs := 256, sregs := 64,
        preds := 48, nbhid := 0, partner := 0x7F, pslot := 0, role := 0, launch := 0x7000, clean := true } with
    codeBase := 0x1000 }
/-- A packet of one word, with fourteen windows of 4 KiB. -/
def loadPacket (time : Nat) (w : W32) : QSlot :=
  { QSlot.fresh 0 time with running := true, prog := ⟨List.replicate 14 (12, true), [w]⟩ }
/-- The queue of that packet. -/
def loadQueue : QRec := { QRec.reset with log2n := 3, active := true, tail := 1 }
/-- A state with nothing in it to run, the boot program past its end, and the pitch and its PASID configured. -/
def State.cleared (s : State) : State :=
  let s := loadTables { s with keyTags := [], scrTags := [], poison := [], l1 := [], wc := [], msc := [], retCh := 0, failCh := 0 }
  { s with
    groups := [], cores := [], wgs := [], nbhs := [], launches := [], nextId := 4, accs := [], faults := [], copies := [],
    monitors := [], l1Tlb := [], baseTlb := [], lastPage := [], atsReqs := [], pairs := [], pitches := [(0, loadPitch)],
    pasids := [(0, loadPasid)], queues := [], slots := [], requests := [], binds := [], graphs := [], replays := [],
    surfaces := [], layers := [], pipes := [], lantern := [], routePipe := none, ueLog := [], windowAt := s.time,
    port := { s.port with busy := false, wait := .none },
    boot := { s.boot with pc := serviceLoop, halted := false, parked := 0 }, power := .run, inbox := [], focus := .none }
/-- Place an instruction of `nbits` bits where the next step fetches it. -/
def State.placeWord (s : State) (nbits w : Nat) : State :=
  let s := s.cleared
  if nbits ≤ 32 then
    { s with queues := [(0, loadQueue)], slots := [(0, loadPacket s.time (BitVec.ofNat 32 w))] }
  else
    let s := (s.rawWrite 0x6000 8 (w % 2 ^ 64)).rawWrite 0x6008 8 (w / 2 ^ 64 % 2 ^ 64)
    let g := Group.start 1 (loadWg s.time) 0 s.stepNo
    { s with groups := [(0, g)], cores := [(0, { CoreSt.reset with gated := false })], wgs := [(1, loadWg s.time)],
             nbhs := [(2, { launch := 3, nbhid := 0, members := [1], started := true, released := s.time, schedIndex := 0, phaseNo := 0 })],
             launches := [(3, loadLaunch)] }

end Sys2Proof.Machine
end

