-- ==== Sys2Proof/Machine/Step.lean ====
section
/-! DEFINITION. One step of the machine, and the state whose next step runs a given instruction. -/

namespace Sys2Proof.Machine
open Sys2Proof

/-- One step: what the outside posted first, else one of the machine's own steps, then the clocks (log entries 2, 4, 7). -/
def step (s : State) : Host.Outcome State Fault Refusal :=
  match s.inbox with
  | i :: rest =>
    match exec i { s with inbox := rest } with
    | .next s' => .next (s'.tick s.stepNo)
    | r => r
  | [] => .next ((s.choose s.candidates).tick s.stepNo)
/-- The state with an instruction of `nbits` bits stored where the next step fetches it. -/
def State.withFetchWord (s : State) (nbits w : Nat) : State := s.placeWord nbits w

end Sys2Proof.Machine
end

