-- ==== Sys2Proof/Safety.lean ====
section
/-! DEFINITION. The terms in which claims speak of states: canonical memory, boundaries of issue, whole packets, when a
word issues, and what a word that has issued leaves as it was. -/

namespace Sys2Proof

/-- The canonical form of the memory: addresses strictly rising, no entry equal to what an unlisted address reads as. -/
def Memory.wf (m : List Host.Cell) : Bool := Tab.sorted m && m.all fun c => c.2 != 0

namespace Machine

/-- What every state between two steps meets: no word is in the course of issue, and memory is in its canonical form. -/
def State.calm (s : State) : Bool := s.focus == .none && Memory.wf s.mem
/-- The packet machine's own bounds: b0 holds nothing (R299), no packet has run more than 512 words (R312) or made
more than eight EMITs (R307). -/
def QSlot.bounded (q : QSlot) : Bool := (q.regs.get? 0).isNone && decide (q.count ≤ 512) && decide (q.emits ≤ 8)
/-- Every queue slot keeps those bounds. -/
def State.packetsBounded (s : State) : Bool := s.slots.all fun x => x.2.bounded
/-- The tables of queue slots, groups, workgroups and surfaces have strictly rising keys: one entry for each number. -/
def State.orderly (s : State) : Bool :=
  Tab.sorted s.slots && Tab.sorted s.groups && Tab.sorted s.wgs && Tab.sorted s.surfaces
/-- What every state between two steps meets. -/
def State.inv (s : State) : Bool := s.calm && s.orderly && s.packetsBounded
/-- The reading of one byte of memory, as a program with the key that wrote it would see it. -/
def State.peek (s : State) (a : Nat) : Byte := s.byte a

/-! ### A word of a group -/

/-- The registers of a group as its words see them. -/
def State.regsOf (s : State) (k : Nat) : Regs := ((s.groups.get? k).map (·.regs)).getD ⟨[], [], []⟩

/-- The word `i` is the focused plane's, and nothing holds it or turns it into a trap: its encoding and registers are
legal (R51, R129), none of its registers is pending (R319), and the group has no redundant partner and no injected fault
(R347, R449). -/
structure State.Reaches (s : State) (i : Instr) (c : Ctx) : Prop where
  here : s.ctx? i.congruent = some c
  legal : c.wordCause s i = none
  ready : (wordSpans i).any c.g.isPending = false
  alone : s.pairOf c.g.wg = none
  sound : (s.core c.core).inject = none
/-- So, and there is an offset behind the word's, so that going straight on is no OFFSET_RANGE (R60). -/
structure State.Issues (s : State) (i : Instr) (c : Ctx) : Prop extends State.Reaches s i c where
  onward : c.g.ofs.toNat + 1 < c.w.desc.len

/-- A group behind the word of one plane: the last plane of the offset takes it to the next offset, where what was
written to EXEC and PLANE takes effect (R58, R60, R64). -/
def Group.past (g : Group) (plane : Nat) : Group :=
  let left := (g.todo.getD 0) &&& ~~~(1#8 <<< plane)
  if left = 0 then
    { g with ofs := g.ofs + 1, exec := g.execNext, planes := g.planesNext, todo := none, captured := g.capturedNext,
             capturedNext := 0 }
  else { g with todo := some left }
/-- A group behind a congruent word, which issues once for all planes (R62). -/
def Group.onward (g : Group) : Group :=
  { g with ofs := g.ofs + 1, exec := g.execNext, planes := g.planesNext, todo := none, captured := g.capturedNext,
           capturedNext := 0 }
/-- A group that has issued a word in this step (R317); a PNOP takes no issue (R59). -/
def Group.issued (g : Group) (i : Instr) (stepNo : Nat) : Group :=
  { g with heldTrap := false, stamp := if isPnop i then g.stamp else stepNo }
/-- A group behind the word `i`. -/
def Group.behind (g : Group) (i : Instr) (plane stepNo : Nat) : Group :=
  if i.congruent then (g.issued i stepNo).onward else (g.issued i stepNo).past plane
/-- A group moved to an offset: the offset has not begun, and nothing is due at the next one (R58, R147). -/
def Group.startAt (g : Group) (o : Int) : Group :=
  { g with ofs := BitVec.ofInt 24 o, todo := none, execNext := g.exec, captured := 0, capturedNext := 0 }
/-- A core that has issued a word of a slot: FIRSTSLOT is the lowest slot of the first cycle that issues after a wake (R327,
R483). -/
def CoreSt.counts (x : CoreSt) (i : Instr) (slot : Nat) : CoreSt :=
  let first : Bool := x.waking || x.firstAt == some x.cycle && decide (slot < (x.wakeReason.extractLsb' 16 6).toNat)
  if isPnop i then x else
    { x with issued := x.issued + 1, idle := 0, waking := false, firstAt := if x.waking then some x.cycle else x.firstAt,
             wakeReason := if first then (x.wakeReason &&& 0xFFFFFFFFFFC0FFFF) ||| (BitVec.ofNat 64 slot <<< 16)
               else x.wakeReason }

/-- `t` is `s` with nothing changed but the issuing group, which stands at `g`, and its core's issue counters: no byte of
memory, no other group, no workgroup, no engine, no record. -/
structure State.OnlyGroup (s t : State) (i : Instr) (c : Ctx) (g : Group) : Prop where
  rest : t = { s with groups := t.groups, cores := t.cores }
  group : t.groups.get? c.k = some g
  others : ∀ k, k ≠ c.k → t.groups.get? k = s.groups.get? k
  core : t.core c.core = (s.core c.core).counts i c.slot
  cores : ∀ n, n ≠ c.core → t.core n = s.core n

/-- The vector and uniform registers of `r'` are those of `r` with the lanes of `part` of a vector register or pair, or a
uniform register, holding the values `f` (R184, R186); a uniform destination is written if any lane takes part. -/
structure Regs.Gets (r r' : Regs) (d : Opnd) (wide : Bool) (part : Mask) (f : Nat → W64) : Prop where
  vec : ∀ n l, l < 32 → r'.vec n l =
    if d.isVec ∧ n = d.num ∧ part.getLsbD l then (f l).truncate 32
    else if wide ∧ d.isVec ∧ n = d.num + 1 ∧ part.getLsbD l then (f l).extractLsb' 32 32
    else r.vec n l
  uni : ∀ n, r'.uni n = if d.isUni ∧ n = d.num ∧ part ≠ 0 then f 0 else r.uni n
/-- So, and no predicate changes. -/
structure Regs.Result (r r' : Regs) (d : Opnd) (wide : Bool) (part : Mask) (f : Nat → W64) : Prop
    extends Regs.Gets r r' d wide part f where
  pred : ∀ n, r'.pred n = r.pred n

/-- `r'` is `r` with the lanes of `part` of a predicate holding the truth values `f`. -/
structure Regs.Truth (r r' : Regs) (n : Nat) (part : Mask) (f : Nat → Bool) : Prop where
  lanes : ∀ l, l < 32 → (r'.pred n).getLsbD l = if part.getLsbD l then f l else (r.pred n).getLsbD l
  preds : ∀ m, m ≠ n → r'.pred m = r.pred m

/-- The word completes with the registers of its group becoming `r` and nothing else changing. -/
def State.Leaves (s : State) (i : Instr) (c : Ctx) (p : Regs → Prop) : Prop :=
  ∃ r t, exec i s = .next t ∧ p r ∧ s.OnlyGroup t i c (({ c.g with regs := r }).behind i c.plane s.stepNo)
/-- Where `p` holds of its operands, the word gives a vector or uniform destination the values `f`, and nothing else
changes. -/
def State.ComputesIf (s : State) (i : Instr) (g : Guard) (d : Opnd) (wide : Bool) (p : Ctx → Prop) (f : Ctx → Nat → W64) : Prop :=
  ∀ c, s.Issues i c → p c → s.Leaves i c fun r => c.g.regs.Result r d wide (c.part g) (f c)
/-- The word gives a vector or uniform destination the values `f`, and nothing else changes. -/
def State.Computes (s : State) (i : Instr) (g : Guard) (d : Opnd) (wide : Bool) (f : Ctx → Nat → W64) : Prop :=
  s.ComputesIf i g d wide (fun _ => True) f
/-- The word gives a predicate the truth values `f`, and nothing else changes. -/
def State.Decides (s : State) (i : Instr) (g : Guard) (d : Opnd) (f : Ctx → Nat → Bool) : Prop :=
  ∀ c, s.Issues i c → s.Leaves i c fun r => c.g.regs.Truth r d.num (c.part g) (f c) ∧
    (∀ n l, r.vec n l = c.g.regs.vec n l) ∧ ∀ n, r.uni n = c.g.regs.uni n
/-- The word completes, and its group goes on behind it, changed as `p` says, and nothing else changes. -/
def State.Changes (s : State) (i : Instr) (c : Ctx) (p : Group → Prop) : Prop :=
  ∃ g t, exec i s = .next t ∧ p g ∧ s.OnlyGroup t i c (g.behind i c.plane s.stepNo)
/-- The word completes without an effect: its group goes on behind it. -/
def State.Passes (s : State) (i : Instr) (c : Ctx) : Prop := s.Changes i c (· = c.g)
/-- The word completes with its group standing where `g` does; nothing else changes. -/
def State.Moves (s : State) (i : Instr) (c : Ctx) (g : Group) : Prop :=
  ∃ t, exec i s = .next t ∧ s.OnlyGroup t i c (g.issued i s.stepNo)
/-- The word completes: its effect is `s'`, in which its group then goes on behind it. -/
def State.Completes (s : State) (i : Instr) (c : Ctx) (s' : State) : Prop :=
  ∃ g t, s'.groups.get? c.k = some g ∧ exec i s = .next t ∧ s'.OnlyGroup t i c (g.behind i c.plane s'.stepNo)
/-- The word has issued and holds its group where it stands, in `s'` (R325). -/
def State.Holds (s : State) (i : Instr) (c : Ctx) (s' : State) : Prop :=
  ∃ g t, s'.groups.get? c.k = some g ∧ exec i s = .next t ∧ s'.OnlyGroup t i c (g.issued i s'.stepNo)
/-- The word completes, its own workgroup changed as `p` says, and nothing else changes. -/
def State.ChangesWg (s : State) (i : Instr) (c : Ctx) (p : Wg → Prop) : Prop :=
  ∃ w t, exec i s = .next t ∧ p w ∧ t = { s with groups := t.groups, cores := t.cores, wgs := t.wgs } ∧
    t.groups.get? c.k = some (c.g.behind i c.plane s.stepNo) ∧ (∀ k, k ≠ c.k → t.groups.get? k = s.groups.get? k) ∧
    t.core c.core = (s.core c.core).counts i c.slot ∧ (∀ n, n ≠ c.core → t.core n = s.core n) ∧
    t.wgs.get? c.g.wg = some w ∧ ∀ u, u ≠ c.g.wg → t.wgs.get? u = s.wgs.get? u
/-- The word is not ready: it does not issue, and nothing changes (R316). -/
def State.Waits (s : State) (i : Instr) : Prop := exec i s = .next s
/-- The word raises a precise cause instead of its effect: what that does is `Ctx.raise`'s. -/
def State.Raises (s : State) (i : Instr) (c : Ctx) (cause : Cause) (lanes : Mask) (addr extra : W64) : Prop :=
  exec i s = .next (c.raise s i.congruent false cause.code lanes addr extra)

/-- `t` is `s` with the issuing group standing at `g`, its core's counters advanced, and `n` bytes of its spill area from
`ofs` on written under the pitch's key (R142, R376): as that key reads them, no other byte of the scratchpad changes, and
no byte of memory outside the rows written does. -/
structure State.OnlySpill (s t : State) (i : Instr) (c : Ctx) (g : Group) (ofs n : Nat) : Prop where
  rest : t = { s with groups := t.groups, cores := t.cores, mem := t.mem, scrTags := t.scrTags, pairs := t.pairs,
                      monitors := t.monitors }
  group : t.groups.get? c.k = some g
  others : ∀ k, k ≠ c.k → t.groups.get? k = s.groups.get? k
  core : t.core c.core = (s.core c.core).counts i c.slot
  cores : ∀ m, m ≠ c.core → t.core m = s.core m
  area : ∀ o, (∀ j < n, o ≠ c.w.spillOfs c.g.gi + ofs + j) →
    t.scrByte c.w.core (s.pitchKey c.w.pitch) o = s.scrByte c.w.core (s.pitchKey c.w.pitch) o
  bytes : ∀ a, (∀ j < n, a / 256 ≠ scrKey c.w.core (c.w.spillOfs c.g.gi + ofs + j) / 256) → t.byte a = s.byte a
/-- What a divergent branch does, given a target for each lane and the join (R148): a target outside the plane traps;
one target moves the group; several leave the lowest running, and push the join, unless it is the running one, and the
other paths, highest target first, but for paths that begin at the join. `u` is `s` with what the word's reads leave behind. -/
structure State.Diverges (s u : State) (i : Instr) (c : Ctx) (target : Nat → Int) (j : Int) : Prop where
  range : ∀ l0 < 32, c.lanes.getLsbD l0 = true → c.inPlane (target l0) = false →
    (∀ l < 32, c.lanes.getLsbD l = true → c.inPlane (target l) = false → target l0 ≤ target l) →
    s.Raises i c .offsetRange c.lanes 0 (BitVec.ofInt 64 (target l0))
  one : ∀ t, c.lanes ≠ 0 → c.inPlane t = true → (∀ l < 32, c.lanes.getLsbD l = true → target l = t) →
    ∃ t', exec i s = .next t' ∧ u.OnlyGroup t' i c ((c.g.startAt t).issued i s.stepNo)
  many : ∀ (t0 : Int) (rest : List Int) (mask : Int → Mask), (t0 :: rest).Pairwise (· < ·) → rest ≠ [] →
    (∀ t, t ∈ t0 :: rest ↔ ∃ l < 32, c.lanes.getLsbD l = true ∧ target l = t) → (∀ t ∈ t0 :: rest, c.inPlane t = true) →
    (∀ t, ∀ l < 32, (mask t).getLsbD l = (c.lanes.getLsbD l && decide (target l = t))) →
    let j24 : BitVec 24 := BitVec.ofInt 24 j
    let join : List DivEntry := if c.g.cj = j24 ∧ c.inPlane j then [] else [⟨j24, c.g.exec, c.g.cj⟩]
    let new : List DivEntry := ((rest.filter (· ≠ j)).map fun t => ⟨BitVec.ofInt 24 t, mask t, j24⟩) ++ join
    let n := c.g.depth + new.length
    if 16 < n ∧ c.w.spillBytes < 16 * (n - 16) + c.g.frameBytes then
      s.Raises i c .stackOvf c.lanes 0 (BitVec.ofNat 64 (c.w.spillBytes + (16 * (n - 16) + c.g.frameBytes) * 2 ^ 32))
    else
      (c.g.hw.length + new.length ≤ 16 →
        ∃ t, exec i s = .next t ∧ u.OnlyGroup t i c
          (({ c.g with exec := mask t0, cj := j24, hw := new ++ c.g.hw, depth := n }.startAt t0).issued i s.stepNo)) ∧
      (c.g.hw.length = min 16 c.g.depth → ∃ t, exec i s = .next t ∧
        u.OnlySpill t i c
          (({ c.g with exec := mask t0, cj := j24, hw := (new ++ c.g.hw).take 16, depth := n }.startAt t0).issued i s.stepNo)
          (16 * (c.g.depth - 16)) (16 * (n - 16) - 16 * (c.g.depth - 16)) ∧
        ∀ k, c.g.depth - 16 ≤ k → k < n - 16 →
          (new ++ c.g.hw)[n - 1 - k]? = some (.ofBits (t.spillRead c.w c.g.gi (16 * k) 16)))

/-! ### Memory words (R207–R209, R322, R323, R400) -/

/-- The course of a memory word with elements `els`: none, and it has no effect; a group at its limit, behind an acquire,
behind accesses that overlap, or, for a release, behind any access, waits; an address cause of the word is precise, the
lowest code of its lanes; else its effect is `done`. -/
structure State.MemCourse (s : State) (i : Instr) (c : Ctx) (kind : Nat) (align release : Bool) (all : Option Mask)
    (els : List (Nat × W64 × Nat)) (done : State) : Prop where
  none : s.Issues i c → els = [] → s.Passes i c
  blocked : s.Reaches i c → els ≠ [] → s.memBlocked c.g.wg c.g.gi = true → s.Waits i
  bad : ∀ cause lanes addr extra, s.Reaches i c → els ≠ [] → s.memBlocked c.g.wg c.g.gi = false →
    s.memCause c.w kind align all els = some (cause, lanes, addr, extra) → s.Raises i c cause lanes addr extra
  overlap : s.Reaches i c → els ≠ [] → s.memBlocked c.g.wg c.g.gi = false → s.memCause c.w kind align all els = .none →
    s.overlaps c.g.wg c.g.gi els = true ∨ release = true ∧ s.accsOf c.g.wg c.g.gi ≠ [] → s.Waits i
  done : s.Issues i c → els ≠ [] → s.memBlocked c.g.wg c.g.gi = false → s.memCause c.w kind align all els = .none →
    s.overlaps c.g.wg c.g.gi els = false → (release = true → s.accsOf c.g.wg c.g.gi = []) → s.Completes i c done

/-! ### Queue words (R301, R306, R354) -/

/-- The focused queue slot runs a packet and is free to execute a word of it: no budget spent (R312), no page missing
(R305), no verdict outstanding (R308); each slot stands once in the table. -/
structure State.InPacket (s : State) (c : QCtx) : Prop where
  focus : s.focus = .queue c.hw
  slot : s.slots.get? c.hw = some c.q
  record : c.qr = s.qrec c.q.queue
  running : c.q.running = true
  budget : c.q.count < 512
  alive : c.q.dead = none
  sorted : Tab.sorted s.slots = true
  free : c.q.waiting = false
/-- A queue word is executed: `t` is `s'` but for the slot, which stands at `pc` with its loops, one word more counted and
what `mark` changes; register `d` holds `v` (b0 discards), and no other register changes. -/
def State.QLeaves (s' t : State) (c : QCtx) (mark : QSlot → QSlot) (d : BitVec 4) (v : W64) (pc : Nat) (loops : List QLoop) : Prop :=
  t = { s' with slots := t.slots } ∧ (∀ h, h ≠ c.hw → t.slots.get? h = s'.slots.get? h) ∧
  ∃ q, t.slots.get? c.hw = some q ∧
    q = { mark c.q with regs := q.regs, pc, loops, last := c.q.pc, count := c.q.count + 1 } ∧
    ∀ r, q.reg r = if r = d ∧ d ≠ 0 then v else c.q.reg r
/-- The word completes with the effect `s'`, register `d` holding `v`, and goes on as R306's finish says. -/
def State.QPuts (s : State) (i : Instr) (c : QCtx) (s' : State) (d : BitVec 4) (v : W64) : Prop :=
  ∃ t, exec i s = .next t ∧ s'.QLeaves t c id d v (finishWord c.q.pc c.q.loops).1 (finishWord c.q.pc c.q.loops).2
/-- The word completes with nothing written, and goes on at `pc` with those loops. -/
def State.QGoes (s : State) (i : Instr) (c : QCtx) (pc : Nat) (loops : List QLoop) : Prop :=
  ∃ t, exec i s = .next t ∧ s.QLeaves t c id 0 0 pc loops
/-- The word ends its packet (R302, R312, R354): the queue's record takes the outcome and HEAD + 1, no other queue's
changes, what the slices hold of system pages is written back, nothing but slots and served times changes beside it, and no packet
of the old queue runs on in the slot. -/
def State.QEnds (s : State) (i : Instr) (c : QCtx) (outcome : Nat) (cause : BitVec 8) (fcode : BitVec 18) (last : Nat) : Prop :=
  ∃ t, exec i s = .next t ∧ t = { s.mscClean with slots := t.slots, queues := t.queues, served := t.served, doe := t.doe } ∧
    (∃ stamp, t.qrec c.q.queue = { c.qr with
      outcome, cause, fcode, lastWord := last, head := c.qr.head + 1, stamp,
      failCnt := if outcome = 2 then min 0xFFFFFFFF (c.qr.failCnt + 1) else c.qr.failCnt }) ∧
    (∀ q, q ≠ c.q.queue → t.qrec q = s.qrec q) ∧ (∀ q, t.slots.get? c.hw = some q → q.running = false) ∧
    (c.hw ≠ 63 → t.doe = s.doe)
/-- Where an access stops: a page that cannot be resolved or poison fails the packet at its word, and a missing page makes
it wait (R305). -/
def State.QStops (s : State) (i : Instr) (c : QCtx) (e : QStop) : Prop :=
  match e with
  | .fail cause => s.QEnds i c 2 cause 0 c.q.pc
  | .wait s' => exec i s = .next s'

/-! ### Integers (R188, R189) -/

/-- The width of an integer operation. -/
def widthOf (wide : Bool) : Nat := if wide then 64 else 32
/-- MIN of the type of a width. -/
def minOf (w : Nat) (uns : Bool) : Int := if uns then 0 else -2 ^ (w - 1)
/-- MAX of the type of a width. -/
def maxOf (w : Nat) (uns : Bool) : Int := if uns then 2 ^ w - 1 else 2 ^ (w - 1) - 1
/-- An exact result clamped to MIN…MAX with .sat. -/
def clamped (w : Nat) (uns sat : Bool) (x : Int) : Int := if sat then max (minOf w uns) (min (maxOf w uns) x) else x
/-- The bits of an operand at the operation's width. -/
def State.bitsOf (s : State) (c : Ctx) (wide : Bool) (o : Opnd) (l : Nat) : Nat :=
  if wide then (s.read64 c o l).toNat else (s.read32 c o l).toNat
/-- The integer an operand stands for, read signed or unsigned at the operation's width. -/
def State.intOf (s : State) (c : Ctx) (wide uns : Bool) (o : Opnd) (l : Nat) : Int :=
  let x := s.bitsOf c wide o l
  if uns ∨ x < 2 ^ (widthOf wide - 1) then x else x - 2 ^ widthOf wide

/-- A word of two integer operands, whose result is `f` of them modulo 2^w. -/
def State.Integer2 (s : State) (i : Instr) (w : RRR) (f : Int → Int → Int) : Prop :=
  s.Computes i w.g w.d w.wide fun c l =>
    BitVec.ofInt 64 (f (s.intOf c w.wide w.uns w.a l) (s.intOf c w.wide w.uns w.b l))
/-- A word of one integer operand. -/
def State.Integer1 (s : State) (i : Instr) (w : RRR) (f : Int → Int) : Prop :=
  s.Computes i w.g w.d w.wide fun c l => BitVec.ofInt 64 (f (s.intOf c w.wide w.uns w.a l))
/-- An RI word of one integer operand and the immediate, read signed. -/
def State.IntegerRi (s : State) (i : Instr) (w : RI) (f : Int → Int → Int) : Prop :=
  s.Computes i w.g w.d w.d.isUni fun c l =>
    BitVec.ofInt 64 (f (s.intOf c w.d.isUni false w.a l)
      (if w.d.isUni then w.imm64.toInt else (w.imm64.truncate 32 : W32).toInt))
/-- A word of two operands of raw bits; `f` takes the width first (R191). -/
def State.Bits2 (s : State) (i : Instr) (w : RRR) (f : Nat → Nat → Nat → Nat) : Prop :=
  s.Computes i w.g w.d w.wide fun c l =>
    BitVec.ofNat 64 (f (widthOf w.wide) (s.bitsOf c w.wide w.a l) (s.bitsOf c w.wide w.b l))
/-- A word of one operand of raw bits. -/
def State.Bits1 (s : State) (i : Instr) (w : RRR) (f : Nat → Nat → Nat) : Prop :=
  s.Computes i w.g w.d w.wide fun c l => BitVec.ofNat 64 (f (widthOf w.wide) (s.bitsOf c w.wide w.a l))
/-- An RI word of one operand of raw bits and the immediate. -/
def State.BitsRi (s : State) (i : Instr) (w : RI) (f : Nat → Nat → Nat → Nat) : Prop :=
  s.Computes i w.g w.d w.d.isUni fun c l =>
    BitVec.ofNat 64 (f (widthOf w.d.isUni) (s.bitsOf c w.d.isUni w.a l)
      (if w.d.isUni then w.imm64.toNat else w.imm64.toNat % 2 ^ 32))

/-! ### Floating point (R194, R195) -/

/-- The value of a floating-point operand in a mode: its code decoded, a subnormal flushed under .ftz (R99). -/
def State.numOf (s : State) (c : Ctx) (m : FMode) (o : Opnd) (l : Nat) : Num := m.read (s.readF c m.fmt o l)
/-- A scalar word of one operand: the exact result `f`, rounded once into the mode's format. -/
def State.Float1 (s : State) (i : Instr) (w : RRR) (f : RMode → Num → Num) : Prop :=
  let m := FMode.scalar w.m
  s.Computes i w.g w.d false fun c l => BitVec.ofNat 64 (m.write (f m.round (s.numOf c m w.a l)))
/-- A scalar word of two operands. -/
def State.Float2 (s : State) (i : Instr) (w : RRR) (f : RMode → Num → Num → Num) : Prop :=
  let m := FMode.scalar w.m
  s.Computes i w.g w.d false fun c l => BitVec.ofNat 64 (m.write (f m.round (s.numOf c m w.a l) (s.numOf c m w.b l)))
/-- An RI word of one operand and the FP32 immediate, to nearest with no flush (R198). -/
def State.FloatRi (s : State) (i : Instr) (w : RI) (f : Num → Num → Num) : Prop :=
  s.Computes i w.g w.d false fun c l =>
    BitVec.ofNat 64 (fp32.encode .near false (f (s.numOf c .plain w.a l) (fp32.decode w.immF)))
/-- Element `i` of a packed operand. -/
def State.elemOf (s : State) (c : Ctx) (m : FMode) (o : Opnd) (l i : Nat) : Num := m.fmt.decode (elem16 (s.readH c m.fmt o l) i)
/-- A packed word of two operands: both elements on their own, rounded once (R197). -/
def State.Packed2 (s : State) (i : Instr) (w : RRR) (f : RMode → Num → Num → Num) : Prop :=
  let m := FMode.packed w.m
  let e (c : Ctx) (l i : Nat) : Nat := m.fmt.encode m.round false (f m.round (s.elemOf c m w.a l i) (s.elemOf c m w.b l i))
  s.Computes i w.g w.d false fun c l => BitVec.ofNat 64 (e c l 0 + 2 ^ 16 * e c l 1)
/-- The magnitude of a finite code, as a fraction. -/
def magnitudeOf (f : Fmt) (code : Nat) : Nat × Nat :=
  match f.decode code with
  | .fin _ n d => (n, d)
  | _ => (0, 1)

/-- The value of lane `l` after the first `k` rounds of a reduction (R157). -/
def reduced (op : W32 → W32 → W32) (y : Nat → W32) : Nat → Nat → W32
  | 0, l => y l
  | k + 1, l => op (reduced op y k l) (reduced op y k (l + 2 ^ k))

end Machine
end Sys2Proof
end

