-- ==== Sys2Proof/Certificates/Slice0/Obligations.lean ====
section
/-! DEFINITION. What this package states about the model, for the provers. Each statement's docstring names the rules of
spec/ it formalises; the vocabulary (`State.Issues`, `State.Computes`, …) is that of Sys2Proof/Safety.lean. -/

open Sys2Proof Sys2Proof.Machine

/-! ### Integer words (08) -/

/-- R189, R193: sums, products, orders and magnitudes are the exact integers of the operands, clamped with .sat and else
modulo 2^w, in every lane that takes part; IMULH is the high half of the exact product. -/
def Obligations.IntegerResults : Prop := ∀ (s : State) (w : RRR) (v : RI),
  s.Integer2 (.iadd w) w (fun a b => clamped (widthOf w.wide) w.uns (w.opx == 1) (a + b)) ∧
  s.Integer2 (.isub w) w (fun a b => clamped (widthOf w.wide) w.uns (w.opx == 1) (a - b)) ∧
  s.Integer2 (.imul w) w (fun a b => a * b) ∧
  s.Integer2 (.imulh w) w (fun a b => a * b / 2 ^ widthOf w.wide) ∧
  s.Integer2 (.imin w) w min ∧
  s.Integer2 (.imax w) w max ∧
  s.Integer1 (.iabs w) w (fun a => clamped (widthOf w.wide) false (w.opx == 1) a.natAbs) ∧
  s.Integer1 (.ineg w) w (fun a => clamped (widthOf w.wide) false (w.opx == 1) (-a)) ∧
  s.Computes (.imad w) w.g w.d w.wide (fun c l => BitVec.ofInt 64
    (s.intOf c w.wide w.uns w.a l * s.intOf c w.wide w.uns w.b l + s.intOf c w.wide w.uns w.c l)) ∧
  s.Computes (.imadw w) w.g w.d true (fun c l => BitVec.ofInt 64
    (s.intOf c false w.uns w.a l * s.intOf c false w.uns w.b l + s.intOf c true true w.c l)) ∧
  s.IntegerRi (.iaddRi v) v (· + ·) ∧ s.IntegerRi (.isubRi v) v (· - ·) ∧ s.IntegerRi (.imulRi v) v (· * ·) ∧
  s.IntegerRi (.iminRi v) v min ∧ s.IntegerRi (.imaxRi v) v max

/-- R190: with no zero divisor in a lane that takes part, IDIV and IREM give the quotient truncated towards zero and its
remainder (the one overflow wraps to MIN and 0); else they trap IDIV_ZERO with those lanes, and write no lane.
R189, R193: ICMP's predicate is the comparison its OPX names, of the operands read signed or unsigned; its RI form
compares .eq only.
R189: IADDC adds a, b or its complement, and the carry in P[c], and leaves the sum in d and the carry out in P[c],
in the lanes that take part. -/
def Obligations.DivisionCompareCarry : Prop :=
  (∀ (s : State) (w : RRR),
  let zero (c : Ctx) (l : Nat) : Prop := (c.part w.g).getLsbD l ∧ s.bitsOf c w.wide w.b l = 0
  s.ComputesIf (.idiv w) w.g w.d w.wide (fun c => ∀ l < 32, ¬ zero c l)
    (fun c l => BitVec.ofInt 64 (Int.tdiv (s.intOf c w.wide w.uns w.a l) (s.intOf c w.wide w.uns w.b l))) ∧
  s.ComputesIf (.irem w) w.g w.d w.wide (fun c => ∀ l < 32, ¬ zero c l)
    (fun c l => BitVec.ofInt 64 (Int.tmod (s.intOf c w.wide w.uns w.a l) (s.intOf c w.wide w.uns w.b l))) ∧
  ∀ i, (i = .idiv w ∨ i = .irem w) → ∀ c, s.Reaches i c → (∃ l < 32, zero c l) →
    ∃ m : Mask, s.Raises i c .idivZero m 0 0 ∧ ∀ l < 32, m.getLsbD l = true ↔ zero c l) ∧
  (∀ (s : State) (w : RRR) (v : RI),
  s.Decides (.icmp w) w.g w.d (fun c l =>
    let a := s.intOf c w.w w.uns w.a l
    let b := s.intOf c w.w w.uns w.b l
    match w.opx with
    | 0 => decide (a = b)
    | 1 => decide (a ≠ b)
    | 2 => decide (a < b)
    | 3 => decide (a ≤ b)
    | 4 => decide (a > b)
    | _ => decide (a ≥ b)) ∧
  s.Decides (.icmpRi v) v.g v.d (fun c l => decide (s.bitsOf c false v.a l = v.imm64.toNat % 2 ^ 32))) ∧
  (∀ (s : State) (w : RRR) (c : Ctx), s.Issues (.iaddc w) c →
  let total (l : Nat) : Nat := s.bitsOf c w.w w.a l +
    (if w.opx = 1 then 2 ^ widthOf w.w - 1 - s.bitsOf c w.w w.b l else s.bitsOf c w.w w.b l) +
    ((c.regs.pred w.c.num).getLsbD l).toNat
  s.Leaves (.iaddc w) c fun r =>
    c.g.regs.Truth r w.c.num (c.part w.g) (fun l => decide (2 ^ widthOf w.w ≤ total l)) ∧
    (∀ n l, l < 32 → r.vec n l =
      if n = w.d.num ∧ (c.part w.g).getLsbD l then BitVec.ofNat 32 (total l)
      else if w.w ∧ n = w.d.num + 1 ∧ (c.part w.g).getLsbD l then BitVec.ofNat 32 (total l / 2 ^ 32)
      else c.g.regs.vec n l) ∧
    ∀ n, r.uni n = c.g.regs.uni n)

/-- R191, R193: the bit words as functions of the operands' bits and the width W: the logic words, shifts and rotates by
bits [7:0] of the count, the bit-field words, and the counts of bits.
R191: with pos and len from bits [7:0] (BFX) or c's bits [7:0] and [15:8] (BFI) and len′ = min(len, w − pos): BFX is
the field, extended as N says; BFI is b with the field replaced; an empty field gives 0, or b. -/
def Obligations.BitResults : Prop :=
  (∀ (s : State) (w : RRR) (v : RI),
  let shl (W a b : Nat) : Nat := a * 2 ^ (b % 256) % 2 ^ W
  let shr (_ a b : Nat) : Nat := a / 2 ^ (b % 256)
  let rol (W a b : Nat) : Nat := a * 2 ^ (b % 256 % W) % 2 ^ W + a / 2 ^ (W - b % 256 % W)
  let sar (a b : Int) : Int := a / 2 ^ (b % 256).toNat
  s.Bits2 (.and w) w (fun _ a b => a &&& b) ∧ s.Bits2 (.or w) w (fun _ a b => a ||| b) ∧
  s.Bits2 (.xor w) w (fun _ a b => a ^^^ b) ∧ s.Bits2 (.andn w) w (fun W a b => a &&& (2 ^ W - 1 - b)) ∧
  s.Bits1 (.not w) w (fun W a => 2 ^ W - 1 - a) ∧
  s.Bits2 (.shl w) w shl ∧ s.Bits2 (.shr w) w shr ∧ s.Integer2 (.sar w) w sar ∧ s.Bits2 (.rol w) w rol ∧
  s.Bits1 (.popc w) w (fun W a => ((List.range W).filter fun i => a.testBit i).length) ∧
  s.Bits1 (.clz w) w (fun W a => if a = 0 then W else W - 1 - a.log2) ∧
  s.Bits1 (.ctz w) w (fun W a => ((List.range W).find? fun i => a.testBit i).getD W) ∧
  s.Bits1 (.brev w) w (fun W a => ((List.range W).map fun i => if a.testBit i then 2 ^ (W - 1 - i) else 0).sum) ∧
  s.BitsRi (.andRi v) v (fun _ a b => a &&& b) ∧ s.BitsRi (.orRi v) v (fun _ a b => a ||| b) ∧
  s.BitsRi (.xorRi v) v (fun _ a b => a ^^^ b) ∧
  s.BitsRi (.shlRi v) v shl ∧ s.BitsRi (.shrRi v) v shr ∧ s.IntegerRi (.sarRi v) v sar ∧ s.BitsRi (.rolRi v) v rol) ∧
  (∀ (s : State) (w : RRR),
  let W := widthOf w.wide
  s.Computes (.bfx w) w.g w.d w.wide (fun c l =>
    let pos := s.bitsOf c w.wide w.b l % 256
    let n := min (s.bitsOf c w.wide w.c l % 256) (W - pos)
    let x := s.bitsOf c w.wide w.a l / 2 ^ pos % 2 ^ n
    BitVec.ofInt 64 (if n = 0 then 0 else if w.uns ∨ x < 2 ^ (n - 1) then x else x - 2 ^ n)) ∧
  s.Computes (.bfi w) w.g w.d w.wide (fun c l =>
    let a := s.bitsOf c w.wide w.a l
    let b := s.bitsOf c w.wide w.b l
    let pos := s.bitsOf c w.wide w.c l % 256
    let n := min (s.bitsOf c w.wide w.c l / 256 % 256) (W - pos)
    BitVec.ofNat 64 (if n = 0 then b else b - b / 2 ^ pos % 2 ^ n * 2 ^ pos + a % 2 ^ n * 2 ^ pos)))

/-- R192, R193: PERMB, SEL, LEA, MOV and MOVI to a vector or uniform register, and DOT4, whose result is extended as a
signed or unsigned 32-bit integer (R186).
R55, R64, R144, R184: MOV to EXEC takes value AND LIVE AND NOT PARK at the next offset, once, if a lane takes part, a
vector source giving its lowest lane's value; MOV to CHKINT clears what the value names, and FIRSTVA with POISON.
Beside the rules it rests on readings and choices of the model: log entry 41. -/
def Obligations.SelectionAndMoves : Prop :=
  (∀ (s : State) (w : RRR) (v : RI),
  s.Computes (.permb w) w.g w.d false (fun c l =>
    let bytes := s.bitsOf c false w.a l + 2 ^ 32 * s.bitsOf c false w.b l
    BitVec.ofNat 64 (((List.range 4).map fun k =>
      let n := s.bitsOf c false w.c l / 16 ^ k % 16
      let x := bytes / 256 ^ (n % 8) % 256
      (if n < 8 then x else if x < 128 then 0 else 255) * 256 ^ k).sum)) ∧
  s.Computes (.sel w) w.g w.d w.w (fun c l =>
    BitVec.ofNat 64 (s.bitsOf c w.w (if (c.regs.pred w.c.num).getLsbD l then w.a else w.b) l)) ∧
  s.Computes (.lea w) w.g w.d true (fun c l =>
    BitVec.ofInt 64 (s.bitsOf c true w.a l + s.intOf c false w.uns w.b l * 2 ^ w.opx)) ∧
  s.Computes (.leaRi v) v.g v.d true (fun c l => BitVec.ofInt 64 (s.bitsOf c true v.a l + v.imm64.toInt)) ∧
  (w.d.isSReg = false → s.Computes (.mov w) w.g w.d w.wide (fun c l => BitVec.ofNat 64 (s.bitsOf c w.wide w.a l))) ∧
  s.Computes (.movi v) v.g v.d false (fun _ _ => v.imm64) ∧
  (v.d.isSReg = false → s.Computes (.movRi v) v.g v.d false (fun _ _ => v.imm64)) ∧
  s.Computes (.dot4 w) w.g w.d false (fun c l =>
    let byte (o : Opnd) (k : Nat) : Int :=
      let x : Nat := s.bitsOf c false o l / 256 ^ k % 256
      if w.uns ∨ x < 128 then x else x - 256
    let x := s.intOf c false w.uns w.c l + ((List.range 4).map fun k => byte w.a k * byte w.b k).sum
    let y : Int := clamped 32 w.uns (w.opx == 1) x % 2 ^ 32
    BitVec.ofInt 64 (if w.uns ∨ y < 2 ^ 31 then y else y - 2 ^ 32))) ∧
  (∀ (s : State) (w : RRR) (v : RI) (c : Ctx),
  let toExec (part : Mask) (x : W64) : Group :=
    { c.g with execNext := if part = 0 then c.g.execNext else x.truncate 32 &&& c.g.live &&& ~~~(s.park c.w c.g) }
  let toChk (part : Mask) (x : W64) : Group :=
    let p := c.g.chk.poison && !(x.getLsbD 0 && part != 0)
    { c.g with chk :=
        { poison := p, multi := c.g.chk.multi && !(x.getLsbD 1 && part != 0),
          firstVa := if p ∨ part = 0 then c.g.chk.firstVa else 0, word := if p ∨ part = 0 then c.g.chk.word else 0 } }
  let moves (i : Instr) (d : Opnd) (part : Mask) (x x32 : W64) : Prop :=
    s.Issues i c → d.isSReg = true → ∃ t, exec i s = .next t ∧
      s.OnlyGroup t i c ((if d = .sr .exec then toExec part x32 else toChk part x).behind i c.plane s.stepNo)
  moves (.mov w) w.d (c.part w.g) (s.read64 c w.a ((lanesOf (c.part w.g)).headD 0))
    ((s.read32 c w.a ((lanesOf (c.part w.g)).headD 0)).zeroExtend 64) ∧
  moves (.movRi v) v.d (c.part v.g) v.imm64 v.imm64)

/-! ### Planes, predicates and lanes (06) -/

/-- R158, R159: PLOG's predicate is the bit of MOD that its sources choose; PMOV copies between predicates and registers
in its four forms, and .ps writes its uniform register whenever it issues.
R155: VOTE's ballot, any, all and equality over the lanes of EXEC whose guard is true, in every plane. -/
def Obligations.PredicateMovesAndVotes : Prop :=
  (∀ (s : State) (w : RRR),
  s.Decides (.plog w) w.g w.d (fun c l => w.m.getLsbD
    ((if c.readP w.a l then 4 else 0) + (if c.readP w.b l then 2 else 0) + (if c.readP w.c l then 1 else 0))) ∧
  (w.m = 0 → s.Decides (.pmov w) w.g w.d (fun c l => decide (s.bitsOf c false w.a l ≠ 0))) ∧
  (w.m = 1 → s.Computes (.pmov w) w.g w.d false (fun c l => if (c.regs.pred w.a.num).getLsbD l then 1 else 0)) ∧
  (w.m = 2 → ∀ c, s.Issues (.pmov w) c → s.Leaves (.pmov w) c fun r =>
    (∀ n, r.uni n = if n = w.d.num then ((c.part w.g) &&& (c.regs.pred w.a.num)).zeroExtend 64 else c.g.regs.uni n) ∧
    (∀ n l, r.vec n l = c.g.regs.vec n l) ∧ ∀ n, r.pred n = c.g.regs.pred n) ∧
  (w.m = 3 → s.Decides (.pmov w) w.g w.d (fun c l => (c.regs.uni w.a.num).getLsbD l))) ∧
  (∀ (s : State) (w : RRR) (c : Ctx), s.Issues (.vote w) c →
  let part := c.part w.g
  let on (l : Nat) : Prop := l < 32 ∧ part.getLsbD l = true ∧ (c.regs.pred w.a.num).getLsbD l = true
  let writes (q : Prop) : Prop := ∀ b : Bool, (b = true ↔ q) → s.Leaves (.vote w) c fun r =>
    c.g.regs.Truth r w.d.num part (fun _ => b) ∧ (∀ n l, r.vec n l = c.g.regs.vec n l) ∧ ∀ n, r.uni n = c.g.regs.uni n
  c.lanes = c.g.exec ∧ (w.m.toNat < 4) ∧
  (w.m = 0 → s.Leaves (.vote w) c fun r =>
    (∀ n, r.uni n = if n = w.d.num then (part &&& c.regs.pred w.a.num).zeroExtend 64 else c.g.regs.uni n) ∧
    (∀ n l, r.vec n l = c.g.regs.vec n l) ∧ ∀ n, r.pred n = c.g.regs.pred n) ∧
  (w.m = 1 → writes (∃ l, on l)) ∧
  (w.m = 2 → writes (∀ l, l < 32 → part.getLsbD l = true → on l)) ∧
  (w.m = 3 → writes (∀ l k, l < 32 → k < 32 → part.getLsbD l = true → part.getLsbD k = true →
    c.regs.vec w.a.num l = c.regs.vec w.a.num k)))

/-- R156: each participant of LSHF takes the value of its source lane where that is a participant, and else keeps a's own;
.pv leaves in the predicate which lanes had one.
R157: LRED's result is that of the fixed tree over the 32 lanes, a lane that takes no part giving the identity; every
participant of a vector d, or a uniform d even with no participant, receives it. -/
def Obligations.LaneExchange : Prop :=
  (∀ (s : State) (w : RRR) (c : Ctx), s.Issues (.lshf w) c →
  let part := c.part w.g
  let b (l : Nat) : Nat := s.bitsOf c false w.b l
  let src (l : Nat) : Int := match w.m.toNat % 8 with
    | 1 => (l : Int) - b 0
    | 2 => (l : Int) + b 0
    | 3 => (l ^^^ (b 0 % 32) : Nat)
    | 4 => (b 0 % 32 : Nat)
    | _ => (b l % 32 : Nat)
  let valid (l : Nat) : Bool := decide (0 ≤ src l) && decide (src l ≤ 31) && part.getLsbD (src l).toNat
  s.Leaves (.lshf w) c fun r =>
    c.g.regs.Gets r w.d (w.m.getLsbD 3) part (fun l =>
      BitVec.ofNat 64 (s.bitsOf c (w.m.getLsbD 3) w.a (if valid l then (src l).toNat else l))) ∧
    if w.m.getLsbD 4 then c.g.regs.Truth r w.c.num part valid else ∀ n, r.pred n = c.g.regs.pred n) ∧
  (∀ (s : State) (w : RRR) (c : Ctx), s.Issues (.lred w) c →
  let part := c.part w.g
  let op := w.m.toNat
  let ident : W32 := match op with
    | 1 => 0x7FFFFFFF | 2 => 0x80000000 | 3 => 0xFFFFFFFF | 5 => 0xFFFFFFFF | 8 => 0x80000000 | 9 => 0x7F800000
    | 10 => 0xFF800000 | _ => 0
  let lane (l : Nat) : W32 := if part.getLsbD l then c.regs.vec w.a.num l else ident
  let y := reduced (lredOp op) lane 5 0
  s.Leaves (.lred w) c fun r =>
    (∀ n l, l < 32 → r.vec n l = if w.d.isVec ∧ n = w.d.num ∧ part.getLsbD l then y else c.g.regs.vec n l) ∧
    (∀ n, r.uni n = if w.d.isUni ∧ n = w.d.num then (if op ≤ 2 then y.signExtend 64 else y.zeroExtend 64)
      else c.g.regs.uni n) ∧
    ∀ n, r.pred n = c.g.regs.pred n)

/-! ### Floating-point, conversion and scale words (08) -/

/-- R195, R196, R198: each scalar word gives the exact result of its operation on the decoded operands, rounded once by RM
into FMT; FCMP and FCLASS decide on the decoded operands; the RI forms act in FP32 to nearest.
R197: each packed word acts on both 16-bit elements on its own, as its scalar form in FMT. -/
def Obligations.FloatResults : Prop :=
  (∀ (s : State) (w : RRR) (v : RI),
  let m := FMode.scalar w.m
  s.Float2 (.fadd w) w (fun rm x y => x.add rm y) ∧ s.Float2 (.fsub w) w (fun rm x y => x.add rm y.negate) ∧
  s.Float2 (.fmul w) w (fun _ x y => x.mul y) ∧ s.Float2 (.fdiv w) w (fun _ x y => x.div y) ∧
  s.Float2 (.fmin w) w (fun _ x y => x.min y) ∧ s.Float2 (.fmax w) w (fun _ x y => x.max y) ∧
  s.Float1 (.frnd w) w (fun rm x => x.integral rm) ∧ s.Float1 (.frcp w) w (fun _ x => x.rcp) ∧
  s.Float1 (.frsq w) w (fun _ x => x.rsq) ∧ s.Float1 (.fsqrt w) w (fun _ x => x.sqrt) ∧
  s.Float1 (.fexp2 w) w (fun _ x => x.exp2) ∧ s.Float1 (.flog2 w) w (fun _ x => x.log2) ∧
  s.Float1 (.fsinr w) w (fun _ x => x.sinr) ∧ s.Float1 (.fcosr w) w (fun _ x => x.cosr) ∧
  s.Computes (.ffma w) w.g w.d false (fun c l => BitVec.ofNat 64
    (m.write (((s.numOf c m w.a l).mul (s.numOf c m w.b l)).add m.round (s.numOf c m w.c l)))) ∧
  s.Computes (.fscale w) w.g w.d false (fun c l => BitVec.ofNat 64
    (m.write ((s.numOf c m w.a l).scale (s.intOf c false false w.b l)))) ∧
  s.Computes (.fclass w) w.g w.d false (fun c l => BitVec.ofNat 64
    (floatClass m.fmt (s.readF c m.fmt w.a l) (s.numOf c m w.a l))) ∧
  s.Decides (.fcmp w) w.g w.d (fun c l => floatCond w.cc (s.numOf c m w.a l) (s.numOf c m w.b l)) ∧
  s.FloatRi (.faddRi v) v (Sys2Proof.Num.add .near) ∧ s.FloatRi (.fmulRi v) v Sys2Proof.Num.mul ∧ s.FloatRi (.fminRi v) v Sys2Proof.Num.min ∧
  s.FloatRi (.fmaxRi v) v Sys2Proof.Num.max ∧
  s.Computes (.ffmaRi v) v.g v.d false (fun c l => BitVec.ofNat 64 (fp32.encode .near false
    (((s.numOf c .plain v.a l).mul (fp32.decode v.immF)).add .near (s.numOf c .plain v.d l)))) ∧
  s.Decides (.fcmpRi v) v.g v.d (fun c l => (s.numOf c .plain v.a l).beq (fp32.decode v.immF))) ∧
  (∀ (s : State) (w : RRR),
  let m := FMode.packed w.m
  s.Packed2 (.hadd2 w) w (fun rm x y => x.add rm y) ∧ s.Packed2 (.hmul2 w) w (fun _ x y => x.mul y) ∧
  s.Packed2 (.hmin2 w) w (fun _ x y => x.min y) ∧ s.Packed2 (.hmax2 w) w (fun _ x y => x.max y) ∧
  s.Computes (.hfma2 w) w.g w.d false (fun c l =>
    let e (i : Nat) : Nat := m.fmt.encode m.round false
      (((s.elemOf c m w.a l i).mul (s.elemOf c m w.b l i)).add m.round (s.elemOf c m w.c l i))
    BitVec.ofNat 64 (e 0 + 2 ^ 16 * e 1)) ∧
  s.Computes (.hcmp2 w) w.g w.d false (fun c l =>
    let e (i : Nat) : Nat := if floatCond w.cc (s.elemOf c m w.a l i) (s.elemOf c m w.b l i) then 0xFFFF else 0
    BitVec.ofNat 64 (e 0 + 2 ^ 16 * e 1)))

/-- R95: rounding to nearest gives a code than which no finite code is nearer, an even one if another is as near; rounding
towards zero gives the largest that is not above. For every format and every positive fraction that does not overflow.
R97: an operand that is a NaN makes the result of an arithmetic operation the canonical NaN of the format. -/
def Obligations.Rounding : Prop :=
  (∀ (f : Fmt) (neg : Bool) (n d : Nat),
  f ∈ [fp32, fp16, bf16, e4m3, e5m2, fp4] → 0 < n → 0 < d →
  let dist (x : Nat × Nat) : Nat := ((x.1 * d : Nat) - (n * x.2 : Nat) : Int).natAbs
  (let c := f.roundCode .near neg n d
   c ≤ f.maxCode → ∀ k, k ≤ f.maxCode →
    dist (magnitudeOf f c) * (magnitudeOf f k).2 ≤ dist (magnitudeOf f k) * (magnitudeOf f c).2 ∧
    (dist (magnitudeOf f c) * (magnitudeOf f k).2 = dist (magnitudeOf f k) * (magnitudeOf f c).2 → k ≠ c → c % 2 = 0)) ∧
  (let c := f.roundCode .zero neg n d
   c ≤ f.maxCode → (magnitudeOf f c).1 * d ≤ n * (magnitudeOf f c).2 ∧
    ∀ k, k ≤ f.maxCode → (magnitudeOf f k).1 * d ≤ n * (magnitudeOf f k).2 → k ≤ c)) ∧
  (∀ (m : FMode) (x y z : Sys2Proof.Num), m.fmt ∈ [fp32, fp16, bf16] →
  (x = .nan ∨ y = .nan →
    m.write (x.add m.round y) = m.fmt.nanCode ∧ m.write (x.mul y) = m.fmt.nanCode ∧ m.write (x.div y) = m.fmt.nanCode) ∧
  (x = .nan ∨ y = .nan ∨ z = .nan → m.write ((x.mul y).add m.round z) = m.fmt.nanCode) ∧
  m.write (Sys2Proof.Num.min .nan .nan) = m.fmt.nanCode ∧ m.write (Sys2Proof.Num.max .nan .nan) = m.fmt.nanCode ∧
  m.write (x.add m.round .nan) = m.fmt.nanCode ∧ m.write (Sys2Proof.Num.scale .nan 0) = m.fmt.nanCode)

/-- R199–R201, R205: CVT rounds the value read as its source type once into its destination type, flushing FP32
subnormals under .ftz; CVTP packs two rounded values into the field that MOD names and keeps d's other bits; CVTFX and
CVTXF go between FP32 and fixed point.
R202–R204: QNB8 leaves the eight packed codes and their scale; DQNB8 the eight values; QMX one block over the lanes
that take part, with its scale; DQMX a value; SMAX the block exponent or scale code, the larger of it and b with .acc.
Beside the rules it rests on readings and choices of the model: log entries 36, 37, 97 and 108. -/
def Obligations.ConversionResults : Prop :=
  (∀ (s : State) (w : RRR) (u : CVTW),
  (∀ dst src, CvtTy.ofCode (u.m.toNat % 16) = some dst → CvtTy.ofCode (u.m.toNat / 16 % 16) = some src →
    s.Computes (.cvt u) u.g u.d (dst.width == 64) (fun c l =>
      let flush (x : Sys2Proof.Num) : Sys2Proof.Num := if u.cm.getLsbD 4 then fp32.flushIn x else x
      let r := dst.write (rndOf (u.cm.toNat % 8) (s.bitsOf c false u.c l)) (u.cm.getLsbD 3)
        (flush (src.read (s.readCvt c src u.a l)))
      if u.cm.getLsbD 4 then BitVec.ofNat 64 (fp32.flushOut r.toNat) else r)) ∧
  s.Computes (.cvtp w) w.g w.d false (fun c l =>
    let f := match w.m.toNat / 16 % 8 with | 0 => fp16 | 1 => bf16 | 2 => e4m3 | 3 => e5m2 | _ => fp4
    let z := s.bitsOf c false w.c l
    let code (o : Opnd) (z : Nat) : Nat := f.encode (rndOf (w.m.toNat % 8) z) (w.m.getLsbD 3) (fp32.decode (s.readF c fp32 o l))
    let pos := 2 * f.width * (w.m.toNat / 128 % 4)
    let d := s.bitsOf c false w.d l
    BitVec.ofNat 64 (d - d / 2 ^ pos % 2 ^ (2 * f.width) * 2 ^ pos + (code w.a z + 2 ^ f.width * code w.b (z / 256)) * 2 ^ pos)) ∧
  s.Computes (.cvtfx w) w.g w.d false (fun c l =>
    BitVec.ofInt 64 (cvtfx (fp32.decode (s.readF c fp32 w.a l)) (s.intOf c false false w.b l))) ∧
  s.Computes (.cvtxf w) w.g w.d false (fun c l =>
    BitVec.ofNat 64 (cvtxf (s.intOf c false false w.a l) (s.intOf c false false w.b l)))) ∧
  (∀ (s : State) (w : RRR),
  (∀ c, s.Issues (.qnb8 w) c → s.Leaves (.qnb8 w) c fun r =>
    let q (l : Nat) : W32 × W32 := qnb8 (fun j => rndOf (w.m.toNat % 8) (s.bitsOf c false w.c l / 2 ^ (8 * (j % 4))))
      ((List.range 8).map fun j => c.regs.vec (w.a.num + j) l)
    (∀ n l, l < 32 → r.vec n l =
      if n = w.b.num ∧ (c.part w.g).getLsbD l then (q l).2
      else if n = w.d.num ∧ (c.part w.g).getLsbD l then (q l).1 else c.g.regs.vec n l) ∧
    (∀ n, r.uni n = c.g.regs.uni n) ∧ ∀ n, r.pred n = c.g.regs.pred n) ∧
  (∀ c, s.Issues (.dqnb8 w) c → s.Leaves (.dqnb8 w) c fun r =>
    (∀ n l, l < 32 → r.vec n l =
      if w.d.num ≤ n ∧ n < w.d.num + 8 ∧ (c.part w.g).getLsbD l then
        dqnb8 (s.read32 c w.a l) (s.bitsOf c false w.b l) (s.readF c bf16 w.c l) (n - w.d.num)
      else c.g.regs.vec n l) ∧
    (∀ n, r.uni n = c.g.regs.uni n) ∧ ∀ n, r.pred n = c.g.regs.pred n) ∧
  (∀ c, s.Issues (.qmx w) c → s.Leaves (.qmx w) c fun r =>
    let k := w.m.toNat / 8 % 4
    let val (l : Nat) : Sys2Proof.Num := fp32.decode (c.regs.vec w.a.num l).toNat
    let scale := mxScale k ((lanesOf (c.part w.g)).map val)
    (∀ n l, l < 32 → r.vec n l =
      if w.b.isVec ∧ n = w.b.num ∧ (c.part w.g).getLsbD l then BitVec.ofNat 32 scale
      else if n = w.d.num ∧ (c.part w.g).getLsbD l then
        BitVec.ofNat 32 (mxCode k (rndOf (w.m.toNat % 8) (s.bitsOf c false w.c l)) scale (val l))
      else c.g.regs.vec n l) ∧
    (∀ n, r.uni n = if w.b.isUni ∧ n = w.b.num ∧ c.part w.g ≠ 0 then BitVec.ofNat 64 scale else c.g.regs.uni n) ∧
    ∀ n, r.pred n = c.g.regs.pred n) ∧
  s.Computes (.dqmx w) w.g w.d false (fun c l => BitVec.ofNat 64 (fp32.encode .near false
    (mxValue (w.m.toNat / 8 % 4) (s.bitsOf c false w.b l % 256) (s.bitsOf c false w.a l)))) ∧
  s.Computes (.smax w) w.g w.d false (fun c l =>
    let kind := w.m.toNat % 8
    let x (j : Nat) : W32 := if w.a.isUni then (c.regs.uni (w.a.num + j)).truncate 32 else c.regs.vec (w.a.num + j) l
    let e := smax kind (if kind = 0 ∨ kind = 5 then (List.range 8).map x else [s.read32 c w.a l])
    let b : Int := if kind = 5 then s.bitsOf c false w.b l % 256 else s.intOf c false false w.b l
    BitVec.ofInt 64 (if w.m.getLsbD 3 then max e b else e)))

/-- R125, R206: both halves of a pair word read their registers before either writes; each writes its d in the lanes of
its own guard, and a HNOP half writes nothing. -/
def Obligations.PairWords : Prop := ∀ (s : State) (h0 h1 : Half) (c : Ctx), s.Issues (.pairWord h0 h1) c →
  let writes (h : Half) (n l : Nat) : Bool := h.op != .hnop && n == h.d.toNat && (c.halfPart h).getLsbD l
  let value (h : Half) (l : Nat) : W32 := h.eval (c.regs.vec h.d.toNat l) (c.regs.vec h.a.toNat l)
  s.Leaves (.pairWord h0 h1) c fun r =>
    (∀ n l, l < 32 → r.vec n l =
      if writes h1 n l then value h1 l else if writes h0 n l then value h0 l else c.g.regs.vec n l) ∧
    (∀ n, r.uni n = c.g.regs.uni n) ∧ ∀ n, r.pred n = c.g.regs.pred n

/-! ### Control words (06) -/

/-- R146, R152, R162: NOP and PNOP have no effect, nor have EXIT and TRAP in no lane: the group goes on behind them, and PNOP
takes no issue.
R169: PREFC asks for the rows of its range that are flash-pending: up to 64 pages of each plane from the one that holds offset
o + imm on, those inside the plane; no group waits on them. It changes nothing else and goes on. -/
def Obligations.PassingWords : Prop :=
  (∀ (s : State) (w : RRR) (v : RI) (c : Ctx),
  (s.Issues (.nop w) c → s.Passes (.nop w) c) ∧ (s.Issues .pnop c → s.Passes .pnop c) ∧
  (s.Issues (.exit w) c → c.part w.g = 0 → s.Passes (.exit w) c) ∧
  (s.Issues (.trap v) c → c.part v.g = 0 → s.Passes (.trap v) c)) ∧
  (∀ (s : State) (v : RI) (c : Ctx), s.Issues (.prefc v) c →
  let count : Int := min 64 (max 0 (s.read64 c v.a 0).toInt)
  let row (page p : Nat) : W64 := c.w.codeBase + BitVec.ofNat 64 (p * c.w.desc.len * 8 + page * 4096)
  let first : Int := (c.g.ofs.toNat + v.imm.toInt) / 512
  let named (va : W64) : Prop := ∃ page p : Nat, first ≤ page ∧ (page : Int) < first + count ∧ page * 512 < c.w.desc.len ∧
    p < c.w.desc.planes ∧ va = row page p
  let pending (va : W64) : Prop := ∃ ctx e, s.pasids.get? c.w.pasid = some ctx ∧ s.walk ctx.root va = .absent e ∧ Pte.flashPend e = true
  let asks (va : W64) : PageFault := ⟨c.w.pasid, va, 3, 0x22, .none⟩
  ∃ t asked, exec (.prefc v) s = .next t ∧
    t = { s with groups := t.groups, cores := t.cores, faults := s.faults ++ asked } ∧
    t.groups.get? c.k = some (c.g.behind (.prefc v) c.plane s.stepNo) ∧
    (∀ k, k ≠ c.k → t.groups.get? k = s.groups.get? k) ∧
    (∀ va, named va → pending va → asks va ∈ t.faults) ∧ ∀ f ∈ asked, ∃ va, named va ∧ pending va ∧ f = asks va)

/-- R120, R147, R148, R149: BRA moves the group; BRC and BRI diverge by each lane's target, and a BRC that some lane takes
has its join in the plane too. BRI reads its table first: a base off 8 bytes, or an index past the table, is BRI_RANGE; the
reads leave their translations and lines behind.
Beside the rules it rests on readings and choices of the model: log entry 107. -/
def Obligations.Branches : Prop := ∀ (s : State) (b : BR) (w : RRR) (c : Ctx),
  let o : Int := c.g.ofs.toNat
  (s.Reaches (.bra b) c → let t := o + b.target.toInt
    if 0 ≤ t ∧ t < c.w.desc.len then s.Moves (.bra b) c (c.g.startAt t)
    else s.Raises (.bra b) c .offsetRange c.lanes 0 (BitVec.ofInt 64 t)) ∧
  (s.Reaches (.brc b) c → let j := o + b.join.toInt
    let target (l : Nat) : Int := if (c.regs.guard b.g).getLsbD l then o + b.target.toInt else o + 1
    let strays : Prop := c.lanes &&& c.regs.guard b.g ≠ 0 ∧
      (∀ l < 32, c.lanes.getLsbD l = true → c.inPlane (target l) = true) ∧ c.inPlane j = false
    (strays → s.Raises (.brc b) c .offsetRange c.lanes 0 (BitVec.ofInt 64 j)) ∧
    (¬ strays → s.Diverges s (.brc b) c target j)) ∧
  (s.Reaches (.bri w) c → let base := c.regs.uni w.b.num
    let idx (l : Nat) : Nat := (c.regs.vec w.a.num l).toNat
    let rd := s.readVa c.w c.g.gi 4 0
    let h := rd base 8
    (base.toNat % 8 ≠ 0 → s.Raises (.bri w) c .briRange c.g.exec 0 (BitVec.allOnes 64)) ∧
    ∀ at_, base.toNat % 8 = 0 → c.readNow s 4 c.g.exec [(0, base, 8)] = .ok at_ →
      (∀ l0 < 32, c.lanes.getLsbD l0 = true → h % 2 ^ 16 ≤ idx l0 →
        (∀ l < l0, c.lanes.getLsbD l = true → idx l < h % 2 ^ 16) →
        ∃ m : Mask, s.Raises (.bri w) c .briRange m 0 (BitVec.ofNat 64 (idx l0)) ∧
          ∀ l < 32, m.getLsbD l = true ↔ (c.lanes.getLsbD l = true ∧ h % 2 ^ 16 ≤ idx l)) ∧
      ((∀ l < 32, c.lanes.getLsbD l = true → idx l < h % 2 ^ 16) →
        let entry (l : Nat) : W64 := base + 8 + BitVec.ofNat 64 (4 * idx l)
        let els := (0, base, 8) :: (lanesOf c.lanes).map fun l => (l, entry l, 4)
        ∀ places used, c.readNow s 4 c.g.exec els = .ok (places, used) → s.poisonAt els places = [] →
          s.Diverges ((s.touchAll c.w c.g.gi used).afterRead c.core 0 places) (.bri w) c
            (fun l => o + (BitVec.ofNat 24 (rd (entry l) 4)).toInt) (o + (BitVec.ofNat 24 (h / 2 ^ 16)).toInt)))

/-- R150, R151: CALL pushes a frame that reads back as the return offset, the depth and the running join, and starts the
callee with no join; without room, or out of the plane, it traps and pushes nothing. RET parks EXEC's lanes by
writing the frame's RETMASK; the callee's last path pops the frame and returns every parked lane that lives. -/
def Obligations.Calls : Prop := ∀ (s : State) (b : BR) (w : RRR) (c : Ctx),
  (s.Reaches (.call b) c → let t : Int := c.g.ofs.toNat + b.target.toInt
    let bytes := 16 * (c.g.depth - 16) + c.g.frameBytes + 16
    if ¬ (0 ≤ t ∧ t < c.w.desc.len) then s.Raises (.call b) c .offsetRange c.lanes 0 (BitVec.ofInt 64 t)
    else if c.w.spillBytes < bytes then
      s.Raises (.call b) c .stackOvf c.lanes 0 (BitVec.ofNat 64 (c.w.spillBytes + bytes * 2 ^ 32))
    else
      let g := ({ c.g with cj := 0xFFFFFF, callDepth := c.g.callDepth + 1, frameBytes := c.g.frameBytes + 16 }.startAt t).issued
        (.call b) s.stepNo
      ∃ u, exec (.call b) s = .next u ∧ s.OnlySpill u (.call b) c g (c.w.spillBytes - c.g.frameBytes - 16) 16 ∧
        (c.g.depth < 2 ^ 16 → u.topFrame c.w g = some ⟨c.g.ofs + 1, 0, 0, c.g.depth, c.g.cj, 0⟩)) ∧
  (s.Reaches (.ret w) c →
    (s.topFrame c.w c.g = none → s.Raises (.ret w) c .stackUnder c.lanes 0 0) ∧
    ∀ f, s.topFrame c.w c.g = some f →
      (f.kind = 1 → s.Raises (.ret w) c .stackUnder c.lanes 0 1) ∧
      (f.kind = 0 → c.g.depth ≤ f.depth → c.w.desc.len ≤ f.ofs.toNat →
        s.Raises (.ret w) c .offsetRange c.lanes 0 (BitVec.ofNat 64 f.ofs.toNat)) ∧
      (f.kind = 0 → c.g.depth ≤ f.depth → f.ofs.toNat < c.w.desc.len →
        let g := { c.g with callDepth := c.g.callDepth - 1, frameBytes := c.g.frameBytes - 16 }
        let g' := ({ g with exec := (f.mask ||| c.g.exec) &&& g.live &&& ~~~(s.park c.w g), cj := f.cj }.startAt
          f.ofs.toNat).issued (.ret w) s.stepNo
        ∃ u, exec (.ret w) s = .next u ∧ s.OnlySpill u (.ret w) c g' (c.w.spillBytes - c.g.frameBytes + 4) 4 ∧
          u.frameAt c.w c.g 0 = { f with mask := f.mask ||| c.g.exec }) ∧
      (f.kind = 0 → f.depth < c.g.depth →
        let g := ({ c.g with exec := 0 }.startAt c.g.ofs.toNat).issued (.ret w) s.stepNo
        ∃ u, exec (.ret w) s = .next u ∧ s.OnlySpill u (.ret w) c g (c.w.spillBytes - c.g.frameBytes + 4) 4 ∧
          u.topFrame c.w g = some { f with mask := f.mask ||| c.g.exec }))

/-- R152, R153: EXIT takes its lanes from LIVE and EXEC. While lanes of EXEC are left, the group goes on; when LIVE is empty
the group ends, its poison noted for its workgroup; else the offset's routine resumes another path. -/
def Obligations.ExitResults : Prop := ∀ (s : State) (w : RRR) (c : Ctx),
  let x := c.part w.g
  let live := c.g.live &&& ~~~x
  let exec' := c.g.exec &&& ~~~x
  (s.Issues (.exit w) c → x ≠ 0 → exec' ≠ 0 → live ≠ 0 →
    s.Changes (.exit w) c (· = { c.g with live, exec := exec', execNext := exec' })) ∧
  (s.Reaches (.exit w) c → x ≠ 0 → exec' = 0 → live ≠ 0 →
    s.Moves (.exit w) c ({ c.g with live, exec := 0 }.startAt c.g.ofs.toNat)) ∧
  (s.Reaches (.exit w) c → x ≠ 0 → live = 0 → ∃ t, exec (.exit w) s = .next t ∧
    t = { s with groups := t.groups, cores := t.cores, wgs := t.wgs } ∧
    t.groups.get? c.k = some (({ c.g with live := 0, exec := exec', ended := true, todo := none, wait := .none } : Group).issued
      (.exit w) s.stepNo) ∧
    (∀ k, k ≠ c.k → t.groups.get? k = s.groups.get? k) ∧
    t.wgs.get? c.g.wg = some { c.w with poisoned := c.w.poisoned || c.g.chk.poison } ∧
    ∀ u, u ≠ c.g.wg → t.wgs.get? u = s.wgs.get? u)

/-- R58, R143: an offset begins where a plane is occupied and OFFSET is not the running join: its planes are those of EXEC,
and it issues them lowest first. Where no lane is left or the join is reached, the entry or frame on top is popped: its
lanes that live and are not parked run on from its offset, under its join, in every plane.
R60, R65, R174: a group that would go straight on from the last offset takes OFFSET_RANGE at that offset once its last plane
is done and no earlier access of it can still end in a cause; LANES is EXEC and EXTRA the offset behind.
Beside the rules it rests on readings and choices of the model: log entry 31. -/
def Obligations.OffsetEnds : Prop :=
  (∀ (s : State) (k : Nat) (w : Wg) (g : Group), g.todo = none →
  (∀ p < 8, g.pmask.getLsbD p = true ↔ ∃ l < 32, g.exec.getLsbD l = true ∧ g.planeOf l = p) ∧
  (g.ofs ≠ g.cj → g.pmask ≠ 0 → s.beginOffset k w g =
    let g' := { g with todo := some (g.pmask &&& g.resumePlanes), resumePlanes := 0xFF, execNext := g.exec,
                       planesNext := g.planes }
    (s.setGroup k g', some g')) ∧
  (∀ e rest, (g.ofs = g.cj ∨ g.pmask = 0) → g.hw = e :: rest → g.depth ≤ 16 → 1 ≤ g.depth →
    (∀ f, s.topFrame w g = some f → f.depth ≠ g.depth) → e.ofs.toNat < w.desc.len → e.ofs ≠ e.join →
    e.mask &&& g.live &&& ~~~(s.park w g) ≠ 0 →
    let g' := g.resumed { g with hw := rest, depth := g.depth - 1, ofs := e.ofs, cj := e.join,
                                 exec := e.mask &&& g.live &&& ~~~(s.park w g) }
    s.beginOffset k w g = (s.setGroup k g').beginOffset k w g') ∧
  (∀ f, (g.ofs = g.cj ∨ g.pmask = 0) → s.topFrame w g = some f → f.depth = g.depth → f.kind = 0 → f.ofs.toNat < w.desc.len →
    let g1 := { g with callDepth := g.callDepth - 1, frameBytes := g.frameBytes - 16, ofs := f.ofs, cj := f.cj }
    let g' := g.resumed { g1 with exec := f.mask &&& g.live &&& ~~~(s.park w g1) }
    g'.exec ≠ 0 → s.beginOffset k w g = (s.setGroup k g').beginOffset k w g') ∧
  ((g.ofs = g.cj ∨ g.pmask = 0) → g.hw = [] → g.callDepth = 0 → s.beginOffset k w g = (s.endGroup k, none))) ∧
  (∀ (s : State) (w : RRR) (c : Ctx), s.Reaches (.nop w) c →
  c.g.ofs.toNat + 1 = c.w.desc.len → c.g.todo = some (1#8 <<< c.plane) →
  let g' := { c.g with todo := some 0 }.issued (.nop w) s.stepNo
  ∃ t, s.OnlyGroup t (.nop w) c g' ∧
    exec (.nop w) s = .next (if s.mayDefer c.g.wg c.g.gi then t.setGroup c.k { g' with heldTrap := true }
      else t.takeTrap c.k ⟨Cause.offsetRange.code, c.g.exec, c.g.exec, 0, BitVec.ofNat 64 c.w.desc.len,
        c.g.ofs, c.g.pmask, 0, c.g.ofs, 0⟩))

/-- R63, R154: PSET and PSETI set PLANE of their lanes from the next offset on; a value of P or more is PLANE_RANGE naming
every such lane, with the value of the lowest, and no lane changes. -/
def Obligations.PlaneMoves : Prop := ∀ (s : State) (w : RRR) (v : RI) (c : Ctx),
  let sets (i : Instr) (part : Mask) (x : Nat → Nat) : Prop :=
    let bad (l : Nat) : Prop := part.getLsbD l = true ∧ c.w.desc.planes ≤ x l
    (s.Issues i c → (∀ l < 32, ¬ bad l) → s.Changes i c fun g =>
      g = { c.g with planesNext := g.planesNext } ∧
      ∀ l, g.planesNext.getD l 0 = if l < 32 ∧ part.getLsbD l then BitVec.ofNat 3 (x l) else c.g.planesNext.getD l 0) ∧
    ∀ l0 < 32, s.Reaches i c → bad l0 → (∀ l < l0, ¬ bad l) →
      ∃ m : Mask, s.Raises i c .planeRange m 0 (BitVec.ofNat 64 (x l0)) ∧ ∀ l < 32, m.getLsbD l = true ↔ bad l
  sets (.pset w) (c.part w.g) (fun l => s.bitsOf c false w.a l) ∧
  sets (.pseti v) (c.part v.g) (fun _ => v.imm.toNat % 8)

/-! ### Traps, CSRs and time (06) -/

/-- R66, R161: a precise cause of a word, with no earlier access of the group unfinished, is taken at the word: the planes
from its own on are the record's PLANES and what TRET resumes; TRAP and CHKERR.trap resume behind their word. While an
earlier access is unfinished the word waits.
R162: TRAP in some lane takes TRAP_SW behind its word, with those lanes and imm16.
Beside the rules it rests on readings and choices of the model: log entries 31, 33, 40 and 48. -/
def Obligations.CauseDelivery : Prop :=
  (∀ (s : State) (c : Ctx) (cong after : Bool) (cause : BitVec 8) (lanes : Mask)
    (addr extra : W64) (todo : BitVec 8), s.groups.get? c.k = some c.g → s.pairOf c.g.wg = none → c.g.todo = some todo →
  (s.mayDefer c.g.wg c.g.gi = true →
    c.raise s cong after cause lanes addr extra = s.setGroup c.k { c.g with heldTrap := true }) ∧
  (s.mayDefer c.g.wg c.g.gi = false → ∃ planes : BitVec 8,
    (∀ p < 8, planes.getLsbD p = if cong then c.g.pmask.getLsbD p else todo.getLsbD p && decide (c.plane ≤ p)) ∧
    c.raise s cong after cause lanes addr extra = s.takeTrap c.k
      ⟨cause, lanes, c.g.exec, addr, extra, c.g.ofs, c.g.pmask, planes, if after then c.g.ofs + 1 else c.g.ofs,
       if after then 0xFF else planes⟩)) ∧
  (∀ (s : State) (v : RI) (c : Ctx), s.Reaches (.trap v) c → c.part v.g ≠ 0 →
  exec (.trap v) s = .next (c.raise s (Instr.trap v).congruent true Cause.trapSw.code (c.part v.g) 0 (BitVec.ofNat 64 (v.imm.toNat % 2 ^ 16))))

/-- R160, R161, R163: taking a trap with a handler pushes a frame that reads back as the resume offset and planes, EXEC, the
depth and the join, and above it the eight words of the record, and starts the handler with no join and the planes as
written; in a handler, without one, or without room, the group ends and its workgroup keeps the first record.
Beside the rules it rests on readings and choices of the model: log entries 29 and 40. -/
def Obligations.TrapEntry : Prop := ∀ (s : State) (k : Nat) (g : Group) (w : Wg) (t : TrapReq),
  s.groups.get? k = some g → s.wgs.get? g.wg = some w →
  let rec_ := trapRecord w g t
  (w.desc.trapEnt ≠ 0xFFFFFF → s.innerTrap w g = none → 16 * (g.depth - 16) + g.frameBytes + 80 ≤ w.spillBytes →
    ∃ g', (s.takeTrap k t).groups.get? k = some g' ∧
      g' = { g with ofs := w.desc.trapEnt, cj := 0xFFFFFF, callDepth := g.callDepth + 1, frameBytes := g.frameBytes + 80,
                    todo := none, resumePlanes := 0xFF, planes := g.planesNext, execNext := g.exec, wait := .none,
                    captured := 0, capturedNext := 0, capturedAt := some (g.ofs, g.captured, g.capturedNext) } ∧
      (∀ m, m ≠ k → (s.takeTrap k t).groups.get? m = s.groups.get? m) ∧
      (g.depth < 2 ^ 16 →
        (s.takeTrap k t).topFrame w g' = some ⟨t.resume, 1, g.exec, g.depth, g.cj, t.resumePlanes⟩) ∧
      ∀ j < 8, rec_[j]? = some (BitVec.ofNat 64 ((s.takeTrap k t).trapField w g' (16 + 8 * j) 8))) ∧
  ((w.desc.trapEnt = 0xFFFFFF ∨ (s.innerTrap w g).isSome ∨ w.spillBytes < 16 * (g.depth - 16) + g.frameBytes + 80) →
    w.trapPol = 0 → ∃ t', s.takeTrap k t = t' ∧ t' = { s with groups := t'.groups, wgs := t'.wgs } ∧
      t'.groups.get? k = some { g with ended := true, todo := none, wait := .none } ∧
      (∀ m, m ≠ k → t'.groups.get? m = s.groups.get? m) ∧
      ∃ w', t'.wgs.get? g.wg = some w' ∧ w'.failed = true ∧ w'.poisoned = (w.poisoned || g.chk.poison) ∧
        (w.trap = none → w'.cause = t.cause ∧ w'.trap = some ⟨rec_⟩) ∧
        ∀ r, w.trap = some r → w'.cause = w.cause ∧ w'.trap = some r)

/-- R163: TRET pops the trap frame on top, where no divergence stands above it, and the group goes on at the frame's offset
and planes with its EXEC, less what has exited or is parked, under its join; else it is TRET_STATE.
Beside the rules it rests on readings and choices of the model: log entries 29 and 35. -/
def Obligations.TrapReturn : Prop := ∀ (s : State) (w : RRR) (c : Ctx), s.Reaches (.tret w) c →
  (s.topFrame c.w c.g = none → s.Raises (.tret w) c .tretState c.lanes 0 0) ∧
  ∀ f, s.topFrame c.w c.g = some f →
    (f.kind ≠ 1 ∨ c.g.depth ≠ f.depth → s.Raises (.tret w) c .tretState c.lanes 0 0) ∧
    (f.kind = 1 → c.g.depth = f.depth → c.w.desc.len ≤ f.ofs.toNat →
      s.Raises (.tret w) c .offsetRange c.lanes 0 (BitVec.ofNat 64 f.ofs.toNat)) ∧
    (f.kind = 1 → c.g.depth = f.depth → f.ofs.toNat < c.w.desc.len →
      let g := { c.g with callDepth := c.g.callDepth - 1, frameBytes := c.g.frameBytes - 80 }
      let e := f.mask &&& g.live &&& ~~~(s.park c.w g)
      s.Moves (.tret w) c { g with exec := e, execNext := e, cj := f.cj, ofs := f.ofs, resumePlanes := f.planes, todo := none,
                                   captured := (g.capturedAgain f.ofs).1, capturedNext := (g.capturedAgain f.ofs).2,
                                   capturedAt := none })

/-- R164, R483: CSRR gives the words of the innermost trap frame's record (0 with none), TSTATE, TSTACK, TRESUME, WAKE and
DBGSTAT, and at debug level 1 or more the three counters of DBGPERF; any other number is CSR_INDEX. CSRW writes TRESUME alone,
in a handler. -/
def Obligations.CsrAccess : Prop := ∀ (s : State) (v : RI) (c : Ctx),
  let index := v.imm.toNat % 2 ^ 12
  let x := s.core c.core
  let lvl := s.debugLevel c.w.pitch
  let value : Option W64 :=
    if index < 8 then some (BitVec.ofNat 64 (s.trapField c.w c.g (16 + 8 * index) 8))
    else if index = 8 then some (c.g.live ++ (if (s.innerTrap c.w c.g).isSome then 1 else 0 : W32))
    else if index = 9 then some (BitVec.ofNat 64 (c.g.depth % 2 ^ 16 + c.g.callDepth % 2 ^ 16 * 2 ^ 16 + c.g.cj.toNat * 2 ^ 32))
    else if index = 10 then some (match s.innerTrap c.w c.g with
      | some o => (s.frameAt c.w c.g o).planes.zeroExtend 64 <<< 24 ||| (s.frameAt c.w c.g o).ofs.zeroExtend 64
      | none => 0)
    else if index = 11 then some x.wakeReason
    else if index = 0x800 then some (s.dbgStat c.w.pitch)
    else if index = 0x801 then some (BitVec.ofNat 64 x.issued)
    else if index = 0x802 then some (BitVec.ofNat 64 x.gatedNs)
    else if index = 0x803 then some (BitVec.ofNat 64 x.logStall)
    else none
  let denied : Prop := lvl = 0 ∧ 0x801 ≤ index ∧ index ≤ 0x803
  (∀ r, s.Issues (.csrr v) c → value = some r → ¬ denied → s.Leaves (.csrr v) c fun regs =>
    (∀ n, regs.uni n = if n = v.d.num then r else c.g.regs.uni n) ∧ (∀ n l, regs.vec n l = c.g.regs.vec n l) ∧
    ∀ n, regs.pred n = c.g.regs.pred n) ∧
  (s.Reaches (.csrr v) c → denied → s.Raises (.csrr v) c .debugDenied c.lanes 0 (BitVec.ofNat 64 index)) ∧
  (s.Reaches (.csrr v) c → value = none → s.Raises (.csrr v) c .csrIndex c.lanes 0 (BitVec.ofNat 64 index)) ∧
  (s.Reaches (.csrw v) c → denied → s.Raises (.csrw v) c .debugDenied c.lanes 0 (BitVec.ofNat 64 (index + 2 ^ 12))) ∧
  (s.Reaches (.csrw v) c → ¬ denied → index ≠ 10 ∨ s.innerTrap c.w c.g = none →
    s.Raises (.csrw v) c .csrIndex c.lanes 0 (BitVec.ofNat 64 (index + 2 ^ 12))) ∧
  ∀ o, s.Issues (.csrw v) c → index = 10 → s.innerTrap c.w c.g = some o → c.g.frameBytes ≤ c.w.spillBytes →
    let y := s.read64 c v.a 0
    ∃ t, exec (.csrw v) s = .next t ∧
      s.OnlySpill t (.csrw v) c (c.g.behind (.csrw v) c.plane s.stepNo) (c.w.spillBytes - c.g.frameBytes + o) 16 ∧
      t.frameAt c.w c.g o = { s.frameAt c.w c.g o with ofs := y.truncate 24, planes := y.extractLsb' 24 8 }

/-- R165: CLOCK leaves TIME in d and CYCLE in the register behind; CLOCK.until with a target ahead holds its group, and when
TIME has reached the target the step that ends the hold samples both and the plane goes on.
Beside the rules it rests on readings and choices of the model: log entry 2. -/
def Obligations.ClockWords : Prop := ∀ (s : State) (w : RRR) (c : Ctx),
  let target := c.regs.uni w.a.num
  let sampled (g r : Regs) (core d : Nat) : Prop :=
    (∀ n, r.uni n = if n = d + 1 then BitVec.ofNat 64 (s.core core).cycle else if n = d then BitVec.ofNat 64 s.time else g.uni n) ∧
    (∀ n l, r.vec n l = g.vec n l) ∧ ∀ n, r.pred n = g.pred n
  (s.Issues (.clock w) c → w.m.getLsbD 0 = false ∨ target.toNat ≤ s.time →
    s.Leaves (.clock w) c fun r => sampled c.g.regs r c.core w.d.num) ∧
  (s.Reaches (.clock w) c → w.m.getLsbD 0 = true → s.time < target.toNat → c.w.role ≠ 2 →
    s.Moves (.clock w) c { c.g with wait := .clock target w.d.num }) ∧
  ∀ core slot g u tgt d, s.groups.get? (gid core slot) = some g → s.wgs.get? g.wg = some u → g.ended = false →
    g.wait = .clock tgt d → tgt.toNat ≤ s.time → d < 64 → s.pairOf g.wg = none → (s.core core).inject = none →
    g.ofs.toNat + 1 < u.desc.len →
    ∃ t r, exec (.clockUntilExpiry core slot) s = .next t ∧ sampled g.regs r core d ∧
      t = { s with groups := t.groups, cores := t.cores, power := t.power } ∧
      t.groups.get? (gid core slot) = some ({ g with wait := .none, regs := r }.past (lowPlane (g.todo.getD 0))) ∧
      ∀ k, k ≠ gid core slot → t.groups.get? k = s.groups.get? k

/-- R166: CHKERR waits for every load, returning update and log entry of its group; then it gives CHKINT.POISON to its
predicate in EXEC's lanes, or with .trap takes POISON_CONSUMED behind itself if POISON is set, and else goes on.
Beside the rules it rests on readings and choices of the model: log entry 34. -/
def Obligations.PoisonChecks : Prop := ∀ (s : State) (w : RRR) (c : Ctx),
  let busy := (s.accsOf c.g.wg c.g.gi).any fun x => x.2.chkWaits
  (s.Reaches (.chkerr w) c → busy = true → s.Waits (.chkerr w)) ∧
  (s.Issues (.chkerr w) c → busy = false → w.m.getLsbD 0 = false → s.Leaves (.chkerr w) c fun r =>
    c.g.regs.Truth r w.d.num c.g.exec (fun _ => c.g.chk.poison) ∧ (∀ n l, r.vec n l = c.g.regs.vec n l) ∧
    ∀ n, r.uni n = c.g.regs.uni n) ∧
  (s.Issues (.chkerr w) c → busy = false → w.m.getLsbD 0 = true → c.g.chk.poison = false → s.Passes (.chkerr w) c) ∧
  (s.Reaches (.chkerr w) c → busy = false → w.m.getLsbD 0 = true → c.g.chk.poison = true → exec (.chkerr w) s = .next
    (c.raise s (Instr.chkerr w).congruent true Cause.poisonConsumed.code c.g.exec (c.g.chk.firstVa.zeroExtend 64) 0))

/-- R167: PHASE holds its group while a group of its neighbourhood has neither executed PHASE nor ended; the last one releases
them all: each goes on behind its PHASE with its phase count raised and the chosen schedule, and no other group changes. With no
schedules the index stays 0.
R370: of NSCHED schedules the one with the least predicted phase time is chosen, ties to the lower: each role's time is that of its
last group since the last release, scaled by the members that the schedule in force and the one predicted give the role. -/
def Obligations.PhaseBarrier : Prop := ∀ (s : State) (w : RRR) (c : Ctx) (n : Nbh), s.Reaches (.phase w) c →
  s.nbhs.get? c.w.nbh = some n → c.g.wg ∈ n.members → Tab.sorted s.groups = true →
  let mine (k : Nat) (g : Group) : Prop := (k, g) ∈ s.groups ∧ g.wg ∈ n.members ∧ (g.ended = false ∨ g.wait = .phase)
  let away : Prop := ∃ m ∈ n.members, ∃ u, s.wgs.get? m = some u ∧ u.phase = .saved ∧ ∃ g ∈ u.savedGroups, g.ended = false
  (away ∨ (∃ k g, k ≠ c.k ∧ mine k g ∧ g.wait ≠ .phase) →
    s.Moves (.phase w) c { c.g with wait := .phase, phaseTime := s.time }) ∧
  ∀ lead, ¬ away → (∀ k g, k ≠ c.k → mine k g → g.wait = .phase) → s.wgs.get? (n.members.headD 0) = some lead →
    (∀ k g, mine k g → ∃ u, s.wgs.get? g.wg = some u ∧ g.ofs.toNat + 1 < u.desc.len) →
    ∃ (t : State) (index : BitVec 2), exec (.phase w) s = .next t ∧ t.mem = s.mem ∧ t.wgs = s.wgs ∧
      t.nbhs.get? c.w.nbh = some { n with released := s.time, schedIndex := index, phaseNo := n.phaseNo + 1 } ∧
      (∀ k g, mine k g → ∃ g', t.groups.get? k = some g' ∧ g'.wait = .none ∧ g'.ofs = g.ofs + 1 ∧ g'.todo = none ∧
        g'.phaseNo = g.phaseNo + 1 ∧ g'.schedIndex = index ∧ g'.regs = g.regs ∧ g'.exec = g.execNext) ∧
      (∀ k g, (k, g) ∈ s.groups → ¬ mine k g → t.groups.get? k = some g) ∧
      (lead.desc.nsched = 0 → index = 0) ∧
      ∀ (cur : BitVec 2) (t0 t1 : Nat), cur.toNat < lead.desc.nsched → lead.desc.nsched ≤ 4 → lead.desc.nsched ≤ lead.desc.scheds.length →
        (∀ k g, mine k g → g.schedIndex = cur) →
        let size := lead.desc.w * lead.desc.h
        let n0 (i : Nat) : Nat := let x := lead.desc.scheds.getD i (1, 1)
          max 1 (min (size - 1) ((2 * size * x.1 + x.1 + x.2) / (2 * (x.1 + x.2))))
        -- the time of a group of one role since the release before
        let took (first : Bool) (d : Nat) : Prop := ∃ k g u, mine k g ∧ s.wgs.get? g.wg = some u ∧
          decide (u.member < n0 cur.toNat) = first ∧ d = (if k = c.k then s.time else g.phaseTime) - n.released
        let last (first : Bool) (d : Nat) : Prop := (∀ x, took first x → x ≤ d) ∧ (d = 0 ∨ took first d)
        -- the predicted time of a schedule, the greater of the two roles', times `parts`
        let n1 (i : Nat) : Nat := size - n0 i
        let parts (i : Nat) : Nat := n0 i * n1 i
        let pred (i : Nat) : Nat := max (t0 * n0 cur.toNat * n1 i) (t1 * n1 cur.toNat * n0 i)
        last true t0 → last false t1 → index.toNat < lead.desc.nsched ∧ ∀ i < lead.desc.nsched,
          pred index.toNat * parts i ≤ pred i * parts index.toNat ∧
          (i < index.toNat → pred index.toNat * parts i < pred i * parts index.toNat)

/-- R51, R123, R129, R112: a core word that meets an encoding cause raises it before anything else it would do, with its own
bits in EXTRA: a broken pair first, then a modifier or a copy's follow-on that is not there (R228), then an operand or a
register past the budget, then a missing extension word. Else it waits while a register it names is pending (R319).
Beside the rules it rests on readings and choices of the model: log entry 39. -/
def Obligations.IssueChecks : Prop := ∀ (s : State) (i : Instr) (c : Ctx) (bits : W64) (ext : Option W64),
  encode i = .core bits ext → s.ctx? i.congruent = some c → s.pairOf c.g.wg = none →
  let lanes := if i.congruent then c.g.exec else c.lanes
  let cause : Option Cause :=
    if pairIllegal i then some .illPair else if ¬ i.modOk ∨ takesFollowOn i = true ∧ c.noFollowOn s c.plane = true then some .illMod
    else if ¬ i.operandsOk ∨ ¬ (∀ x ∈ wordSpans i, c.w.inBudget x = true) then some .illOperand
    else if extMissing i then some .extMissing else none
  (∀ e, cause = some e → exec i s = .next (c.raise s i.congruent false e.code lanes 0 bits)) ∧
  (cause = none → (∃ x ∈ wordSpans i, c.g.isPending x = true) → s.Waits i)

/-! ### Memory words (09) -/

/-- R121, R213: the address of a lane: a pair of vector registers or a uniform register as the base, or with X a uniform
register plus a vector register read unsigned, plus the displacement, read signed from the bits the form gives it.
R207–R211, R215–R217: a load goes in flight with its destinations pending; a store is performed, after a release if it is
one, or goes in flight where it does not translate; an update goes in flight with one unit for each lane, ascending. The
once-performed forms have one element, in the lowest lane that takes part.
Beside the rules it rests on readings and choices of the model: log entry 33. -/
def Obligations.MemoryWordsIssue : Prop :=
  (∀ (r : Regs) (w : MEM) (l : Nat) (o : BitVec 18),
  let ofs (n : Nat) : W64 := (BitVec.ofInt 64 (o.extractLsb' 0 n).toInt)
  let at_ (w : MEM) (base : W64) (upd : Bool) (d : W64) : Prop := memAddr r w upd l = base + d
  (∀ n, w.base = .v n → w.x = false → w.ofs = o →
    at_ w (r.vec (n.toNat + 1) l ++ r.vec n.toNat l) false (ofs 18) ∧
    at_ w (r.vec (n.toNat + 1) l ++ r.vec n.toNat l) true (BitVec.ofInt 64 (o.extractLsb' 3 15).toInt)) ∧
  (∀ n, w.base = .s n → w.x = false → w.ofs = o → at_ w (r.uni n.toNat) false (ofs 18) ∧
    at_ w (r.uni n.toNat) true (BitVec.ofInt 64 (o.extractLsb' 3 15).toInt)) ∧
  (∀ n, w.base = .v n → w.x = true → w.ofs = o →
    at_ w (r.uni w.idxReg.toNat + BitVec.ofNat 64 (r.vec n.toNat l).toNat) false (ofs 12) ∧
    at_ w (r.uni w.idxReg.toNat + BitVec.ofNat 64 (r.vec n.toNat l).toNat) true (BitVec.ofInt 64 (o.extractLsb' 3 9).toInt))) ∧
  (∀ (s : State) (w : MEM) (c : Ctx), c.w.role ≠ 3 → s.audits.get? c.g.wg = none →
  let part := c.part w.g
  let els (upd once : Bool) (n : Nat) : List (Nat × W64 × Nat) :=
    (if once then (lanesOf part).take 1 else lanesOf part).map fun l => (l, memAddr c.regs w upd l, n)
  let all (once : Bool) : Option Mask := if once then some part else none
  let load (i : Instr) (once : Bool) (dest : RegSpan) : Prop :=
    let e := els false once (typeBytes w.ty)
    s.MemCourse i c 0 false false (all once) e
      { s with accs := s.accs.set s.nextId (c.access i part e (w.order == 1)), nextId := s.nextId + 1,
               groups := s.groups.modify c.k fun g => g.setPending [dest] s.nextId }
  let store (i : Instr) (once : Bool) : Prop :=
    let e := els false once (typeBytes w.ty)
    s.MemCourse i c 1 false (w.order == 2) (all once) e
      ((if w.order = 2 then s.release c.core w.scope else s).storeNow c.k (c.access i part e false) c.w w.scope
        (e.map fun x => storeVal c.regs w x.1))
  let update (i : Instr) (once : Bool) (n : Nat) (disp : Bool) : Prop :=
    let e := els disp once n
    let a : Access := { c.access i part e (w.order == 1 || w.order == 3) with units := memUnits c.regs i w e }
    s.MemCourse i c 2 true (w.order == 2 || w.order == 3) (all once) e
      ((if w.order = 2 ∨ w.order = 3 then s.release c.core w.scope else s).launchAcc c.k a (updDests i))
  load (.ld w) false ⟨.v, w.d.num, if w.ty = 5 then 2 else 1⟩ ∧ load (.ldu w) true ⟨.s, w.d.num, 1⟩ ∧
  store (.st w) false ∧ store (.stu w) true ∧
  update (.upd w) false (utypeBytes w.utype) true ∧ update (.updr w) w.d.isUni (utypeBytes w.utype) true ∧
  update (.ucas w) w.d.isUni (utypeBytes w.utype) true ∧ update (.vismax w) false 8 false)

/-- R210, R186, R209: when the data of a load returns, every lane holds the value at its address, extended as TYPE says; the
registers are no longer pending, no other register changes, and the access is gone. Memory changes only where a line that
the load brings into the L1 displaces a dirty one, where its core's own stores are still to be performed, or where a line of a
system page leaves the slices that the host has changed.
R211, R212: a store whose elements translate is performed whole, in ascending lanes: what every place then reads is what it
reads after those writes one by one, and no access is left.
Beside the rules it rests on readings and choices of the model: log entries 30, 46, 99 and 109. -/
def Obligations.LoadsAndStores : Prop :=
  (∀ (s : State) (id : Nat) (a : Access) (x : MEM) (w : Wg) (k : Nat) (g : Group),
  s.accs.get? id = some a → a.phase = .inflight → s.wgs.get? a.wg = some w → s.groupOf a.wg a.gi = some (k, g) →
  s.pairOf a.wg = none → (s.core w.core).inject = none → s.poison = [] → a.acquire = false → w.phase = .resident →
  let n := typeBytes x.ty
  let els (once : Bool) := memEls a.regs x false once a.mask n
  let value (l : Nat) : W64 := typeLoad x.ty (s.readVa w a.gi 0 x.scope (memAddr a.regs x false l) n)
  let back (wide once : Bool) (part : Mask) : Prop :=
    s.memCause w 0 false none (els once) = none → (∃ ps us, s.resolve w a.gi 0 (els once) = .ok ps us) →
    ∃ t r, exec (.loadReturn id) s = .next t ∧
      t.groups.get? k = some { g with regs := r, pend := g.pend.filter fun p => p.2.2 ≠ id } ∧
      (∀ m, m ≠ k → t.groups.get? m = s.groups.get? m) ∧ t.accs = s.accs.del id ∧
      ((∀ x ∈ s.l1, x.2.dirty = 0) → s.wc = [] → (∀ x ∈ s.msc, x.2.stale = 0) → t.mem = s.mem) ∧ g.regs.Result r x.d wide part value
  (∀ m, a.word = .ld x → x.d = .v m → back (x.ty == 5) false a.mask) ∧
  (∀ m l0, a.word = .ldu x → x.d = .s m → (lanesOf a.mask).head? = some l0 →
    ∀ f, f = value l0 → s.memCause w 0 false none (els true) = none → (∃ ps us, s.resolve w a.gi 0 (els true) = .ok ps us) →
    ∃ t r, exec (.loadReturn id) s = .next t ∧
      t.groups.get? k = some { g with regs := r, pend := g.pend.filter fun p => p.2.2 ≠ id } ∧
      g.regs.Result r x.d false a.mask (fun _ => f))) ∧
  (∀ (s : State) (k : Nat) (a : Access) (w : Wg) (scope : Nat) (vals : List Nat) ps us,
  s.memCause w 1 false none a.els = none → s.resolve w a.gi 1 a.els = .ok ps us → s.accs.get? s.nextId = none →
  (∀ x ∈ ps, ∀ key ca b, Place.mem key ca b ∈ x.2 → targetOf b ≠ .doorbell) →
  let u := (ps.zip vals).foldl (fun s x => s.writePlaces w.core scope x.1.2 x.2) s
  let t := s.storeNow k a w scope vals
  (∀ core sc p, t.readPlace core sc p = u.readPlace core sc p) ∧ t.groups = s.groups ∧ t.accs = s.accs ∧ t.inbox = s.inbox)

/-- R4, R81, R376, R377, R381, R395: a byte written at a place reads back there, by the same key and scope; no other byte
that the same key reads there changes, in the scratchpad or in memory, while the L1 has room for a line more and the caches hold the
lines of both bytes under no other key, unchanged by the host. A line holds 128 bytes of one key. The combining buffers hold nothing
before the write, which under WC leaves its byte there.
Beside the rules it rests on readings and choices of the model: log entries 8, 14 and 99. -/
def Obligations.ReadAfterWrite : Prop := ∀ (s : State) (core scope : Nat) (b : Byte),
  (∀ n key o, (s.writePlace core scope (.scr n key o) b).readPlace core scope (.scr n key o) = b) ∧
  (∀ n key o o', o ≠ o' → (s.writePlace core scope (.scr n key o) b).readPlace core scope (.scr n key o') =
    s.readPlace core scope (.scr n key o')) ∧
  (∀ key cache a, targetOf a ≠ .none → targetOf a ≠ .doorbell → s.wc = [] →
    (∀ l, s.l1.get? (s.lineKey core a) = some l → l.key = key ∧ l.data.length = 128) →
    (s.writePlace core scope (.mem key cache a) b).readPlace core scope (.mem key cache a) = b ∧
    ∀ a', a' ≠ a → targetOf a' ≠ .none → s.l1.length < 16384 →
      (∀ l, s.msc.get? (a / 128) = some l ∨ s.msc.get? (a' / 128) = some l → l.key = key ∧ l.stale = 0) →
      (s.writePlace core scope (.mem key cache a) b).readPlace core scope (.mem key cache a') =
      s.readPlace core scope (.mem key cache a'))

/-- R214, R218: one element of an update unit: the value it held is returned, its place holds the operation's result, and
every other byte its key reads below the L1s stays, where the memory-side cache holds no line of these under another key or that
the host has changed. Integers add modulo 2^w; min and max are signed or unsigned by UTYPE; the
logic operations, swap and compare-and-swap act on the bits.
R214, R216: the units of an update word in flight are resolved together, then applied in order, one in a step; the last
one returns the values to the destinations and removes the access.
Beside the rules it rests on readings and choices of the model: log entries 8 and 99. -/
def Obligations.UpdateSteps : Prop :=
  (∀ (s : State) (op ty : Nat) (v cmp : W64) (key a : Nat),
  let n := utypeBytes ty
  let ps := (List.range n).map fun j => Place.mem key 0 (a + j)
  let old := s.unitRead ps
  (∀ j < n, targetOf (a + j) = .dram) → s.anyPoison ps = false →
  (s.applyEl op ty ps v cmp).2 = old ∧
  (s.applyEl op ty ps v cmp).1.unitRead ps = BitVec.ofNat 64 ((unitOp op ty old v cmp).toNat % 2 ^ (8 * n)) ∧
  (∀ a', (∀ j < n, a' ≠ a + j) → (∀ x l, (x = a' ∨ a ≤ x ∧ x < a + n) → s.msc.get? (x / 128) = some l → l.key = key ∧ l.stale = 0) →
    (s.applyEl op ty ps v cmp).1.memByte key a' = s.memByte key a') ∧
  (∀ m x : W64, n = 4 → ty ≠ 4 →
    let lo (y : W64) : Nat := y.toNat % 2 ^ 32
    let sx (y : W64) : Int := (y.truncate 32 : W32).toInt
    let uns := ty = 1 ∨ ty = 3
    (unitOp 0 ty m x cmp).toNat = (lo m + lo x) % 2 ^ 32 ∧
    (unitOp 1 ty m x cmp).toNat = (if (if uns then lo m ≤ lo x else sx m ≤ sx x) then lo m else lo x) ∧
    (unitOp 2 ty m x cmp).toNat = (if (if uns then lo x ≤ lo m else sx x ≤ sx m) then lo m else lo x))) ∧
  (∀ (s : State) (id : Nat) (a : Access) (w : Wg), s.accs.get? id = some a →
  s.wgs.get? a.wg = some w → a.phase = .inflight → a.isUpdate = true → a.formed = true → s.poison = [] → a.poison = none →
  (∀ u us, a.units = u :: us → us ≠ [] → ∃ t, exec (.updateUnitApply id) s = .next t ∧
    t.accs.get? id = some { a with units := us, got := a.got ++ unitReturn a.word u.lane (s.applyUnit w.core u).2.1 } ∧
    t.mem = (s.applyUnit w.core u).1.mem ∧ t.groups = s.groups) ∧
  (∀ u, a.units = [u] → a.acquire = false → a.mirror = none → ∃ t, exec (.updateUnitApply id) s = .next t ∧ t.accs.get? id = none ∧
    ∀ k g, s.groupOf a.wg a.gi = some (k, g) → w.phase = .resident → (s.core w.core).inject = none →
      t.groups.get? k = some { g with
        regs := g.regs.writeAll (a.got ++ unitReturn a.word u.lane (s.applyUnit w.core u).2.1),
        pend := g.pend.filter fun p => p.2.2 ≠ id }))

/-- R172, R322–R324: an access in flight that does not translate enters the operand log, while there is room, with a fault for
the firmware, and else holds its pipe's memory port, so that no group of the pipe issues a memory word; when its page has been served it replays, in program order, and its destinations are written; one whose
resolution fails leaves zero in its destinations and its cause is deferred to the group.
Beside the rules it rests on readings and choices of the model: log entry 33. -/
def Obligations.OperandLog : Prop := ∀ (s : State) (id : Nat) (a : Access) (w : Wg), s.accs.get? id = some a →
  s.wgs.get? a.wg = some w →
  (∀ va cause, a.phase = .inflight → a.formed = false → s.attempt id a w = .fault va cause → s.logCount w.core < 64 →
    s.groupLog a.wg a.gi < 16 → ∃ t, exec (.translationFault id) s = .next t ∧
      t.accs.get? id = some { a with phase := .logged, els := s.accEls a w } ∧ ⟨w.pasid, va, a.kind, cause, .access id⟩ ∈ t.faults ∧
      t.mem = s.mem ∧ t.groups = s.groups) ∧
  (∀ va cause, a.phase = .inflight → a.formed = false → s.attempt id a w = .fault va cause →
    64 ≤ s.logCount w.core ∨ 16 ≤ s.groupLog a.wg a.gi →
    exec (.translationFault id) s = .next { s with accs := s.accs.set id { a with phase := .stalled } }) ∧
  (a.phase = .stalled → w.phase = .resident → ∀ u gi x, s.wgs.get? u = some x → x.core = w.core → (x.slot + gi) % 4 = (w.slot + a.gi) % 4 →
    s.memBlocked u gi = true) ∧
  (∀ t, a.phase = .ready → w.phase ≠ .saved → s.attempt id a w = .done t →
    (∀ x ∈ s.accsOf a.wg a.gi, x.1 < id → x.2.phase ≠ .ready) →
    exec (.operandLogReplay id) s = .next (t.wake w.core wakeReplay)) ∧
  (∀ cause lanes addr extra, a.phase = .failed cause lanes addr extra → w.phase ≠ .saved → s.pairOf a.wg = none → a.place = none →
    (∀ x ∈ s.accsOf a.wg a.gi, x.1 < id → x.2.phase = .inflight) →
    exec (.operandLogReplay id) s = .next ((((s.writeDests a.wg a.gi a.ofs id (a.zeros w)).dropAcc id).deliverDeferred a.wg a.gi
      a.ofs a.exec a.pmask cause lanes addr extra).wake w.core wakeReplay))

/-- R219, R220, R400, R401: FENCE waits for its group's accesses, with .eng also for its copies and the update units of its
drains, then releases and acquires as its KIND says; RFENCE waits for the accesses that meet its range, with .eng as FENCE does,
then writes back and drops the lines of it from the core's L1, none with a length of 0; a range past 2^64 is ADDR_CANON.
R396: writing back a core's L1 leaves every byte that its own stores wrote readable below it: the line's dirty bytes in
memory under the line's key. An acquire leaves no line of the core. R377: a store to a WC page stays in the core's combining
buffer, and every release and FENCE performs it. At .sys a release writes what the slices hold of system
pages into host or peer memory, and an acquire drops these lines, so that what the host has written is read.
R221, R222: PREF brings the line of a lane into the L1 under WB, or with .msc into the memory-side cache, and never faults; a
lane whose address is not canonical or does not translate does nothing. DISCARD is a store that drops lines: each byte of such a
line then holds below the L1 what it held there, or the value the line held.
Beside the rules it rests on readings and choices of the model: log entries 38, 42, 46 and 99. -/
def Obligations.FencesAndHints : Prop :=
  (∀ (s : State) (w : RRR) (c : Ctx), c.w.role ≠ 2 →
  let kind := w.m.toNat / 4 % 4
  let scope := w.m.toNat % 4
  let eng := w.m.getLsbD 4 = true ∧ (s.copiesOf c.g.wg c.g.gi = true ∨ s.addsOf c.g.wg c.g.gi = true)
  let busy := s.accsOf c.g.wg c.g.gi ≠ [] ∨ eng
  let base := c.regs.uni w.a.num
  let len := (c.regs.uni w.b.num).toNat
  let meets_ := (s.accsOf c.g.wg c.g.gi).any fun x => x.2.els.any fun e => sameLine base len e.2.1 e.2.2
  (s.Reaches (.fence w) c → busy → s.Waits (.fence w)) ∧
  (s.Issues (.fence w) c → ¬ busy → s.Completes (.fence w) c
    (let s1 := if kind = 1 then s.drainCore c.core else s.release c.core scope
     if kind = 2 then s1 else s1.acquire c.core scope)) ∧
  (s.Issues (.rfence w) c → len = 0 → s.Passes (.rfence w) c) ∧
  (s.Reaches (.rfence w) c → len ≠ 0 → 2 ^ 64 < base.toNat + len → s.Raises (.rfence w) c .addrCanon c.lanes base 0) ∧
  (s.Reaches (.rfence w) c → len ≠ 0 → base.toNat + len ≤ 2 ^ 64 → meets_ = true ∨ eng → s.Waits (.rfence w)) ∧
  (s.Issues (.rfence w) c → len ≠ 0 → base.toNat + len ≤ 2 ^ 64 → meets_ = false → ¬ eng →
    let t := s.fenceRange c.w base len scope
    s.Completes (.rfence w) c t ∧
    ∀ page j x, base.toNat / 128 ≤ 32 * page + j → 32 * page + j ≤ (base.toNat + len - 1) / 128 → j < 32 → isLocal base = false →
      c.w.core = c.core → s.translate c.core c.w.pasid c.w.pitch 0 (BitVec.ofNat 64 (page * 4096)) = .ok x →
      let pa := x.phys (BitVec.ofNat 64 (page * 4096))
      pa % 4096 = 0 → pa + 4096 ≤ 2 ^ 48 → t.l1.get? (t.lineKey c.core (pa + 128 * j)) = none)) ∧
  (∀ (s : State) (core scope a : Nat) (l : L1Line), s.narrow core scope = false → s.wc = [] →
  s.isFused core = false → s.l1 = [(s.lineKey core a, l)] → targetOf a = .dram →
  (l.dirty.getLsbD (a % 128) = true → (s.release core scope).memByte l.key a = l.data.getD (a % 128) 0) ∧
  (s.release core scope).l1.get? (s.lineKey core a) = some { l with dirty := 0 } ∧ (s.acquire core scope).l1 = []) ∧
  (∀ (s : State) (core scope key a : Nat) (b : Byte), core < 96 → targetOf a = .dram → s.wc = [] → s.l1 = [] →
    let s1 := s.writePlace core scope (.mem key 1 a) b
    s1.mem = s.mem ∧ (s1.drainCore core).wc = [] ∧ (s1.drainCore core).memByte key a = b ∧
    (s1.release core scope).wc = [] ∧ (s1.release core scope).memByte key a = b) ∧
  (∀ (s : State) (core a : Nat), Tab.sorted s.msc = true → s.wc = [] → s.l1 = [] →
  (∀ x ∈ (s.release core 3).msc, isSystem (x.1 * 128) = true → x.2.dirty = 0) ∧
  (∀ x ∈ (s.acquire core 3).msc, isSystem (x.1 * 128) = false) ∧
  ∀ l, s.msc.get? (a / 128) = some l → isSystem (a / 128 * 128) = true →
    (l.stale.getLsbD (a % 128) = false → (s.release core 3).farByte a = s.byte a ∧ (s.acquire core 3).byte a = s.byte a) ∧
    (l.stale.getLsbD (a % 128) = true → l.dirty.getLsbD (a % 128) = false → (s.acquire core 3).byte a = s.farByte a)) ∧
  (∀ (s : State) (w : MEM) (c : Ctx), c.w.role ≠ 3 → s.audits.get? c.g.wg = none →
  let part := c.part w.g
  let els := (lanesOf part).map fun l => (l, memAddr c.regs w false l, 1)
  let blocked := els ≠ [] ∧ (s.memBlocked c.g.wg c.g.gi = true ∨ s.overlaps c.g.wg c.g.gi els = true)
  (s.Reaches (.pref w) c → c.w.role ≠ 2 → blocked → s.Waits (.pref w)) ∧
  (s.Issues (.pref w) c → c.w.role ≠ 2 → ¬ blocked → ∃ t, exec (.pref w) s = .next t ∧
    t.groups.get? c.k = some (c.g.behind (.pref w) c.plane s.stepNo) ∧ (∀ k, k ≠ c.k → t.groups.get? k = s.groups.get? k) ∧
    t.faults = s.faults ∧ t.accs = s.accs ∧
    ∀ l va, els = [(l, va, 1)] →
      (canonical va = false ∨ (∀ ps us, s.resolveOne c.w c.g.gi 0 l va 1 ≠ .ok (ps, us)) → t.l1 = s.l1 ∧ t.msc = s.msc ∧ t.mem = s.mem) ∧
      ∀ key ca a us, canonical va = true → isLocal va = false → s.resolveOne c.w c.g.gi 0 l va 1 = .ok ([.mem key ca a], us) →
        (w.ty = 0 → ca = 0 → ∃ line, t.l1.get? (s.lineKey c.core a) = some line ∧ line.key = key) ∧
        (w.ty = 1 → ca ≠ 2 → targetOf a = .dram → 0 < s.waysOf (s.keyOwner key) → (t.msc.get? (a / 128)).isSome)) ∧
  s.MemCourse (.discard w) c 1 false false none els (s.discardNow c.k (c.access (.discard w) part els false) c.w (w.ty == 1))) ∧
  (∀ (s : State) (core a : Nat) (l : L1Line), s.l1.get? (s.lineKey core a) = some l → targetOf a = .dram →
    (∀ m, s.msc.get? (a / 128) = some m → m.key = l.key) →
    let t := s.discardLine core a false
    t.l1.get? (s.lineKey core a) = none ∧ ∀ k < 128, let at_ := a / 128 * 128 + k
      t.memByte l.key at_ = s.memByte l.key at_ ∨ l.dirty.getLsbD k = true ∧ t.memByte l.key at_ = l.data.getD k 0)

/-! ### Image words (12) -/

/-- R208, R273, R281–R284, R287: TEX, TLD, TGATH, TDIM and HGF check their descriptor's address, wait behind accesses that
meet what they are known to read, and go in flight with every destination pending; HGF waits too while the third coordinate is
pending.
R285, R290, R293, R294: IST checks and waits like them, and is performed, or goes in flight where it does not translate; HGS, its
table at 64 bytes, goes in flight as update units; RBOX and RTRI read 128 bytes of node in each lane.
Beside the rules it rests on readings and choices of the model: log entries 44 and 45. -/
def Obligations.ImageWordsIssue : Prop :=
  (∀ (s : State) (w : RRR) (c : Ctx),
  let part := c.part w.g
  let at_ := c.regs.uni w.a.num
  let els := ((lanesOf part).take 1).map fun l => (l, at_, 64)
  let load (i : Instr) (n : Nat) (hold : Bool) : Prop :=
    let all := s.accEls (c.access i part [] false) c.w
    let waits := s.memBlocked c.g.wg c.g.gi || s.overlaps c.g.wg c.g.gi all
    (s.Issues i c → hold = false → part = 0 → s.Passes i c) ∧ (s.Reaches i c → hold = true → s.Waits i) ∧
    (∀ cause lanes addr extra, s.Reaches i c → hold = false → part ≠ 0 → at_.toNat % 64 = 0 →
      s.memCause c.w 0 false none els = some (cause, lanes, addr, extra) → s.Raises i c cause lanes addr extra) ∧
    (s.Reaches i c → hold = false → part ≠ 0 → at_.toNat % 64 ≠ 0 ∨ s.memCause c.w 0 false none els = none → waits = true →
      s.Waits i) ∧
    (s.Issues i c → hold = false → part ≠ 0 → at_.toNat % 64 ≠ 0 ∨ s.memCause c.w 0 false none els = none → waits = false →
      s.Completes i c (s.launchAcc c.k (c.access i part all false) [⟨.v, w.d.num, n⟩]))
  load (.tex w) (if w.m.getLsbD 2 then 2 else 4) false ∧ load (.tld w) (if w.m.getLsbD 2 then 2 else 4) false ∧
  load (.tgath w) 4 false ∧ load (.tdim w) 4 false ∧ load (.hgf w) w.nreg (c.g.isPending ⟨.v, w.b.num + 2, 1⟩)) ∧
  (∀ (s : State) (w : RRR) (c : Ctx), c.w.role ≠ 3 → s.audits.get? c.g.wg = none →
  let part := c.part w.g
  let at_ := c.regs.uni w.a.num
  let els := ((lanesOf part).take 1).map fun l => (l, at_, 64)
  let all (i : Instr) := s.accEls (c.access i part [] false) c.w
  let waits (i : Instr) := s.memBlocked c.g.wg c.g.gi || s.overlaps c.g.wg c.g.gi (all i)
  let grid := c.regs.uni w.c.num
  -- the descriptor's address has no cause, which is asked only where it is used (R208, R273)
  let fine := at_.toNat % 64 ≠ 0 ∨ s.memCause c.w 0 false none els = none
  let refused (i : Instr) (p : Prop) : Prop := ∀ cause lanes addr extra, s.Reaches i c → part ≠ 0 → p → at_.toNat % 64 = 0 →
    s.memCause c.w 0 false none els = some (cause, lanes, addr, extra) → s.Raises i c cause lanes addr extra
  let ray (i : Instr) (nums base n : Nat) : Prop :=
    let b := c.regs.uni base
    let e := if part = 0 then [] else if b.toNat % 128 ≠ 0 then [(0, b, 0)]
      else (lanesOf part).map fun l => (l, nodeAddr c.regs w nums base l, 128)
    s.MemCourse i c 0 false false none e (s.launchAcc c.k
      (c.access i part ((lanesOf part).map fun l => (l, nodeAddr c.regs w nums base l, 128)) false) [⟨.v, w.d.num, n⟩])
  (s.Issues (.ist w) c → part = 0 → s.Passes (.ist w) c) ∧ refused (.ist w) True ∧
  (s.Reaches (.ist w) c → part ≠ 0 → fine → waits (.ist w) = true → s.Waits (.ist w)) ∧
  (s.Issues (.ist w) c → part ≠ 0 → fine → waits (.ist w) = false →
    s.Completes (.ist w) c (s.istNow c.k (c.access (.ist w) part (all (.ist w)) false) c.w w)) ∧
  (s.Issues (.hgs w) c → part = 0 → s.Passes (.hgs w) c) ∧
  (s.Reaches (.hgs w) c → part ≠ 0 → c.g.isPending ⟨.v, w.b.num + 2, 1⟩ = true → s.Waits (.hgs w)) ∧
  (s.Reaches (.hgs w) c → part ≠ 0 → c.g.isPending ⟨.v, w.b.num + 2, 1⟩ = false → grid.toNat % 64 ≠ 0 →
    s.Raises (.hgs w) c .alignAtomic part grid (2 + 256 * 64)) ∧
  refused (.hgs w) (c.g.isPending ⟨.v, w.b.num + 2, 1⟩ = false ∧ grid.toNat % 64 = 0) ∧
  (s.Reaches (.hgs w) c → part ≠ 0 → c.g.isPending ⟨.v, w.b.num + 2, 1⟩ = false → grid.toNat % 64 = 0 → fine →
    waits (.hgs w) = true → s.Waits (.hgs w)) ∧
  (s.Issues (.hgs w) c → part ≠ 0 → c.g.isPending ⟨.v, w.b.num + 2, 1⟩ = false → grid.toNat % 64 = 0 → fine →
    waits (.hgs w) = false → s.Completes (.hgs w) c (s.launchAcc c.k (c.access (.hgs w) part (all (.hgs w)) false) [])) ∧
  ray (.rbox w) w.a.num w.b.num 5 ∧ ray (.rtri w) w.d.num w.a.num 16)

/-- R295, R296, R297: MVTX and MPRIM write the mesh output of their workgroup in lane order; a vertex or primitive past its
budget, or a write after the commit, only sets the overflow mark. MCOMMIT fixes the counts once, within the budgets. -/
def Obligations.MeshOutput : Prop := ∀ (s : State) (w : RRR) (c : Ctx),
  let part := c.part w.g
  let closed := c.w.committed.isSome ∨ c.w.desc.maxVtx = 0 ∨ c.w.desc.maxPrim = 0
  let at_ (l : Nat) : Nat := (c.regs.vec w.a.num l).toNat
  let writes (i : Instr) (limit words : Nat) (key : Nat → Nat → Nat) (value : Nat → Nat → W32) : Prop :=
    (s.Issues i c → part = 0 → s.Passes i c) ∧
    (s.Issues i c → part ≠ 0 → closed → s.ChangesWg i c (· = { c.w with meshOvf := true })) ∧
    (s.Issues i c → part ≠ 0 → ¬ closed → s.ChangesWg i c fun x =>
      x = { c.w with mesh := x.mesh, meshOvf := x.meshOvf } ∧
      (x.meshOvf = true ↔ c.w.meshOvf = true ∨ ∃ l < 32, part.getLsbD l = true ∧ limit ≤ at_ l) ∧
      (∀ l < 32, part.getLsbD l = true → at_ l < limit →
        (∀ m < 32, l < m → part.getLsbD m = true → at_ m ≠ at_ l) → ∀ j < words, x.mesh.getD (key (at_ l) j) 0 = value l j) ∧
      ∀ k, (∀ l < 32, part.getLsbD l = true → at_ l < limit → ∀ j < words, k ≠ key (at_ l) j) →
        x.mesh.getD k 0 = c.w.mesh.getD k 0)
  (∀ n, w.c = .imm n → writes (.mvtx w) c.w.desc.maxVtx (w.m3 + 1) (fun v j => v * 20 + ((inlineVal n).toNat + j))
    (fun l j => c.regs.vec (w.b.num + j) l)) ∧
  writes (.mprim w) c.w.desc.maxPrim 4 (fun p j => 2 ^ 20 + p * 4 + j) (fun l j =>
    if j < 3 then ((c.regs.vec w.b.num l).extractLsb' (8 * j) 8).zeroExtend 32 else c.regs.vec w.c.num l) ∧
  (s.Issues (.mcommit w) c → part = 0 → s.Passes (.mcommit w) c) ∧
  (s.Issues (.mcommit w) c → part ≠ 0 → c.w.committed.isSome → s.ChangesWg (.mcommit w) c (· = c.w)) ∧
  (s.Issues (.mcommit w) c → part ≠ 0 → c.w.committed = none →
    let nv := (s.read64 c w.a 0).toNat % 2 ^ 32
    let np := (s.read64 c w.b 0).toNat % 2 ^ 32
    let v := min nv c.w.desc.maxVtx
    let p := min np c.w.desc.maxPrim
    s.ChangesWg (.mcommit w) c fun x => x = { c.w with committed := some (v, p), meshOvf := x.meshOvf } ∧
      (x.meshOvf = true ↔ c.w.meshOvf = true ∨ c.w.desc.maxVtx < nv ∨ c.w.desc.maxPrim < np ∨
        ∃ i < p, ∃ j < 3, v ≤ (c.w.mesh.getD (2 ^ 20 + i * 4 + j) 0).toNat))

/-! ### Barriers and monitors (09) -/

/-- R234, R235: an event takes its arrivals and bytes from an object, too many of either being refused; at zero of both the
phase advances by one and the counts are loaded again. No other object of the workgroup changes.
R207, R235, R236, R397, R400: a word on an object waits for the group's accesses in flight to it. BINIT sets an object's counts
and leaves its phase; EXPECT adds bytes, saturating; ARRIVE releases and is an event, too many arrivals being deferred; WAITP
holds its group until its phase has passed, then acquires; BPOLL gives the phase and whether it has passed. An index past the
workgroup's objects is BAR_INDEX.
Beside the rules it rests on readings and choices of the model: log entry 52. -/
def Obligations.BarrierWords : Prop :=
  (∀ (s : State) (w : Wg) (b n m : Nat), w.phase = .resident →
  let o := 32 * b
  let rem := s.wgRead w (o + 12) 4
  let bytes := s.wgRead w (o + 20) 4
  (rem < n → s.barEvent w b n m = .barOver) ∧ (n ≤ rem → bytes < m → s.barEvent w b n m = .bytesOver) ∧
  (n ≤ rem → m ≤ bytes → ∃ t done, s.barEvent w b n m = .ok t done ∧
    (done = true ↔ rem = n ∧ bytes = m ∧ (0 < n ∨ 0 < m)) ∧ t.groups = s.groups ∧ t.wgs = s.wgs ∧
    t.objPhase w b = (if done then s.objPhase w b + 1 else s.objPhase w b) ∧
    t.wgRead w (o + 12) 4 = (if done then s.wgRead w (o + 8) 4 else rem - n) ∧
    t.wgRead w (o + 20) 4 = (if done then s.wgRead w (o + 16) 4 else bytes - m) ∧
    ∀ x, x < o ∨ o + 24 ≤ x → t.wgByte w x = s.wgByte w x)) ∧
  (∀ (s : State) (w : RRR) (c : Ctx), c.w.phase = .resident →
  let idx := s.read64 c w.a 0
  let b := idx.toNat
  let o := 32 * b
  let y := (s.read64 c w.b 0).toNat % 2 ^ 32
  let z := (s.read64 c w.c 0).toNat % 2 ^ 32
  let passed := phasePassed (s.objPhase c.w b) (BitVec.ofNat 32 y)
  let inObj := c.part w.g ≠ 0 ∧ b < c.w.desc.barriers ∧ c.objectBusy s c.w b = false
  (∀ i, (i = .binit w ∨ i = .expect w ∨ i = .waitp w ∨ i = .bpoll w ∨ i = .arrive w) →
    (s.Issues i c → c.part w.g = 0 → s.Passes i c) ∧
    (s.Reaches i c → c.part w.g ≠ 0 → c.w.desc.barriers ≤ b → s.Raises i c .barIndex c.lanes 0 idx)) ∧
  (∀ i, (i = .binit w ∨ i = .expect w ∨ i = .waitp w ∨ i = .bpoll w ∨ i = .arrive w ∧ w.m.getLsbD 0 = false) →
    s.Reaches i c → c.part w.g ≠ 0 → b < c.w.desc.barriers → c.objectBusy s c.w b = true → s.Waits i) ∧
  (s.Issues (.binit w) c → inObj → ∃ t, exec (.binit w) s = .next t ∧
    t.groups.get? c.k = some (c.g.behind (.binit w) c.plane s.stepNo) ∧
    t.objPhase c.w b = s.objPhase c.w b ∧ t.wgRead c.w (o + 8) 4 = max y 1 ∧ t.wgRead c.w (o + 12) 4 = max y 1 ∧
    t.wgRead c.w (o + 16) 4 = z ∧ t.wgRead c.w (o + 20) 4 = z ∧ ∀ x, x < o ∨ o + 32 ≤ x → t.wgByte c.w x = s.wgByte c.w x) ∧
  (s.Issues (.expect w) c → inObj → ∃ t, exec (.expect w) s = .next t ∧
    t.groups.get? c.k = some (c.g.behind (.expect w) c.plane s.stepNo) ∧
    t.wgRead c.w (o + 20) 4 = min (s.wgRead c.w (o + 20) 4 + y) (2 ^ 32 - 1) ∧
    ∀ x, x < o + 20 ∨ o + 24 ≤ x → t.wgByte c.w x = s.wgByte c.w x) ∧
  (s.Issues (.arrive w) c → w.m.getLsbD 0 = false → inObj →
    let s1 := s.release c.core 0
    (s.accsOf c.g.wg c.g.gi ≠ [] → s.Waits (.arrive w)) ∧
    (s.accsOf c.g.wg c.g.gi = [] → y = 0 → s.Completes (.arrive w) c s1) ∧
    (∀ t, s.accsOf c.g.wg c.g.gi = [] → y ≠ 0 → s1.barEvent c.w b y 0 = .ok t false → s.Completes (.arrive w) c t) ∧
    (∀ t, s.accsOf c.g.wg c.g.gi = [] → y ≠ 0 → s1.barEvent c.w b y 0 = .ok t true →
      s.Completes (.arrive w) c (t.wakeWaiters c.g.wg b)) ∧
    (s.accsOf c.g.wg c.g.gi = [] → y ≠ 0 → s1.barEvent c.w b y 0 = .barOver → s.Completes (.arrive w) c
      (s1.defer (deferred c.g.wg c.g.gi c.g.ofs c.plane c.g.exec c.lanes c.g.pmask Cause.barOver.code 0 idx)))) ∧
  (s.Issues (.waitp w) c → inObj → c.g.wait = .none → passed = true → s.Completes (.waitp w) c (s.acquire c.core (w.m.toNat % 2))) ∧
  (s.Reaches (.waitp w) c → inObj → c.g.wait = .none → passed = false →
    s.Holds (.waitp w) c (s.setGroup c.k { c.g with wait := .waitp c.g.wg b })) ∧
  (s.Reaches (.waitp w) c → inObj → c.g.wait = .waitp c.g.wg b → passed = false → s.Waits (.waitp w)) ∧
  (s.Issues (.waitp w) c → inObj → c.g.wait = .waitp c.g.wg b → passed = true → ∃ t, exec (.waitp w) s = .next t ∧
    t.groups.get? c.k = some ({ c.g with wait := .none } : Group).onward) ∧
  (s.Issues (.bpoll w) c → inObj → ∃ t r, exec (.bpoll w) s = .next t ∧
    t.groups.get? c.k = some (({ c.g with regs := r } : Group).behind (.bpoll w) c.plane s.stepNo) ∧
    (∀ k, k ≠ c.k → t.groups.get? k = s.groups.get? k) ∧ (∀ n l, r.vec n l = c.g.regs.vec n l) ∧
    (∀ n, r.pred n = c.g.regs.pred n) ∧
    ∀ n, r.uni n = if n = w.d.num then BitVec.ofNat 64 ((s.objPhase c.w b).toNat + if passed then 2 ^ 32 else 0)
      else c.g.regs.uni n))

/-- R238, R239, R240: MONA arms a monitor on an aligned word that translates, with the deadline its timeout gives, and says so in
P[d]; where none is free, or the word cannot report its writes, only a timer of at most 2,000 ns is left. A write to the word
marks the monitor; its arrival, or its deadline's, frees it. MONA.cancel waits for a MONA of the word and object that is not armed
yet, and removes the monitor.
R238, R239: the write of a byte under a monitor's word marks it and no other monitor; a marked monitor fires, and one
whose deadline has come times out: either frees it and is an arrival at its object.
Beside the rules it rests on readings and choices of the model: log entry 2. -/
def Obligations.MonitorWords : Prop :=
  (∀ (s : State) (w : RRR) (c : Ctx),
  let va := c.regs.uni w.a.num
  let idx := s.read64 c w.b 0
  let timeout := (s.read64 c w.c 0).toNat % 2 ^ 32
  let el := ((lanesOf c.lanes).headD 0, va, 8)
  let fine := c.part w.g ≠ 0 ∧ idx.toNat < c.w.desc.barriers ∧ va.toNat % 8 = 0
  (∀ p ps us, s.Issues (.mona w) c → fine → s.memCause c.w 0 false (some c.lanes) [el] = none →
    s.overlaps c.g.wg c.g.gi [el] = false → s.accs.get? s.nextId = none → c.w.phase = .resident →
    c.k = c.w.gid c.g.gi → c.g.pend.all (fun x => x.2.2 ≠ s.nextId) = true → (s.core c.w.core).inject = none →
    s.resolveOne c.w c.g.gi 0 el.1 va 8 = .ok (p :: ps, us) →
    let on := decide ((s.monitors.filter fun x => x.2.pa.isSome).length < 1024) && (match p with
      | .scr .. => true
      | .mem _ _ a => targetOf a == .dram || backInval a)
    ∃ t m, exec (.mona w) s = .next t ∧ t.monitors.get? (s.nextId + 1) = some m ∧ m.wg = c.g.wg ∧ m.gi = c.g.gi ∧ m.va = va ∧
      m.index = idx.toNat ∧ m.hit = false ∧ m.pa = (if on then some p.num else none) ∧
      m.deadline = (if on then (if timeout = 0 then none else some (s.time + timeout))
        else some (s.time + if timeout = 0 then 2000 else min 2000 timeout)) ∧ t.accs = s.accs ∧
      ∃ g r, t.groups.get? c.k = some g ∧ g = (({ c.g with regs := r } : Group).behind (.mona w) c.plane s.stepNo) ∧
        c.g.regs.Truth r w.d.num c.g.exec (fun _ => on)) ∧
  (∀ i, (i = .mona w ∨ i = .monaCancel w) → (s.Issues i c → c.part w.g = 0 → s.Passes i c)) ∧
  (s.Reaches (.monaCancel w) c → c.part w.g ≠ 0 → c.w.desc.barriers ≤ idx.toNat → s.Raises (.monaCancel w) c .barIndex c.lanes 0 idx) ∧
  (s.Reaches (.monaCancel w) c → c.part w.g ≠ 0 → idx.toNat < c.w.desc.barriers → va.toNat % 8 ≠ 0 →
    s.Raises (.monaCancel w) c .monAddr c.lanes va 0) ∧
  let arming := (s.accsOf c.g.wg c.g.gi).any fun x => x.2.arms va idx.toNat
  (s.Reaches (.monaCancel w) c → fine → arming = true → s.Waits (.monaCancel w)) ∧
  (s.Issues (.monaCancel w) c → fine → arming = false →
    let mine (m : Monitor) : Bool := m.wg == c.g.wg && m.gi == c.g.gi && m.va == va && m.index == idx.toNat
    ∃ t r, exec (.monaCancel w) s = .next t ∧
      t = { s with groups := t.groups, cores := t.cores, monitors := t.monitors } ∧
      t.groups.get? c.k = some (({ c.g with regs := r } : Group).behind (.monaCancel w) c.plane s.stepNo) ∧
      c.g.regs.Truth r w.d.num c.g.exec (fun _ => s.monitors.any fun x => mine x.2) ∧
      (s.monitors.any (fun x => mine x.2) = false → t.monitors = s.monitors) ∧
      ∀ k m, s.monitors.findBy (fun _ m => mine m) = some (k, m) → t.monitors = s.monitors.del k)) ∧
  (∀ (s : State) (id : Nat) (m : Monitor), s.monitors.get? id = some m →
  (∀ a b, (s.setByte a b).monitors.get? id = some (match m.pa with
    | some p => if p ≤ a ∧ a < p + 8 then { m with hit := true } else m
    | none => m)) ∧
  let s1 := { s with monitors := s.monitors.del id }
  let arrives (i : Instr) : Prop := ∀ w t done, s.wgs.get? m.wg = some w → w.phase = .resident → s.pairOf m.wg = none →
    s1.barEvent w m.index 1 0 = .ok t done →
    ∃ u, exec i s = .next u ∧ u.monitors.get? id = none ∧ u.mem = t.mem ∧ u.scrTags = t.scrTags ∧ u.groups = s.groups
  (m.hit = true → arrives (.monitorFire id)) ∧ (m.hit = false → exec (.monitorFire id) s = .fault .notEnabled) ∧
  (∀ d, m.deadline = some d → d ≤ s.time → arrives (.monitorTimeout id)) ∧
  (∀ d, m.deadline = some d → s.time < d → exec (.monitorTimeout id) s = .fault .notEnabled))

/-! ### Copies (09) -/

/-- R223–R230, R233: a copy or collective whose ranges are legal enters its queue with its token pending; a group at its limit, or
a core with 48 copies in flight, waits. An address cause comes before BAR_INDEX. The follow-on of a copy with .fo is captured.
R231, R232: QFENCE enters the queue it names, the matrix queue with number 4, with the unfinished commands of the queues it
joins; one that names none, or in no lane, has no effect.
Beside the rules it rests on readings and choices of the model: log entries 53, 55 and 56. -/
def Obligations.CopyWordsIssue : Prop :=
  (∀ (s : State) (w : RRR) (c : Ctx), c.w.role ≠ 3 → s.audits.get? c.g.wg = none →
  let part := c.part w.g
  let course (i : Instr) (kind : CopyKind) (queue : Nat) (two : Bool) : Prop := ∀ follow,
    (w.m.getLsbD 3 = true → c.followOn s i = .ok follow) → (w.m.getLsbD 3 = false → follow = none) →
    let cp : Copy :=
      { wg := c.g.wg, gi := c.g.gi, queue, kind, mods := w.m, dst := c.regs.uni w.a.num, src := c.regs.uni w.b.num,
        desc := c.regs.uni w.c.num, desc2 := if two then c.regs.uni (w.c.num + 1) else 0, token := w.d.num, ofs := c.g.ofs,
        plane := c.plane, exec := c.g.exec, pmask := c.g.pmask, follow, owner := 0, mirror := none, core := c.core, phase := .queued, waiting := false }
    let ranges := s.copyRanges c.w cp
    let free := s.memBlocked c.g.wg c.g.gi = false ∧ s.copiesIn c.core < 48
    (s.Issues i c → part = 0 → s.Passes i c) ∧ (s.Reaches i c → part ≠ 0 → ¬ free → s.Waits i) ∧
    (∀ cause lanes addr extra, s.Reaches i c → part ≠ 0 → free → s.copyCause c.w part ranges = some (cause, lanes, addr, extra) →
      s.Raises i c cause lanes addr extra) ∧
    (∀ x, s.Reaches i c → part ≠ 0 → free → s.copyCause c.w part ranges = none → s.copyBar c.w cp = some x →
      s.Raises i c .barIndex part 0 x) ∧
    (s.Reaches i c → part ≠ 0 → free → s.copyCause c.w part ranges = none → s.copyBar c.w cp = none →
      s.overlaps c.g.wg c.g.gi (ranges.map fun x => (0, x.1, x.2.1)) = true → s.Waits i) ∧
    (s.Issues i c → part ≠ 0 → free → s.copyCause c.w part ranges = none → s.copyBar c.w cp = none →
      s.overlaps c.g.wg c.g.gi (ranges.map fun x => (0, x.1, x.2.1)) = false →
      let mark (g : Group) : Group :=
        ({ g with capturedNext := if w.m.getLsbD 3 then g.capturedNext ||| (1#8 <<< c.plane) else g.capturedNext } : Group).setPending
          (match follow with
          | some ⟨_, _, some t⟩ => [⟨.s, t, 1⟩]
          | _ => []) (foOwner s.nextId)
      s.Completes i c ((s.updGroup c.k mark).launchCopy c.k cp))
  course (.cpy w) .cpy (w.m.toNat % 4) false ∧ course (.cpyg w) .cpyg (w.m.toNat % 4) true ∧
  course (.cpys w) .cpys (w.m.toNat % 4) true ∧ course (.cpyt w) .cpyt (w.m.toNat % 4) true ∧ course (.coll w) .coll 5 false) ∧
  (∀ (s : State) (w : RRR) (c : Ctx),
  let mask := w.m.toNat / 8
  let q := w.m.toNat % 8
  (s.Issues (.qfence w) c → c.part w.g = 0 ∨ mask = 0 → s.Passes (.qfence w) c) ∧
  (s.Issues (.qfence w) c → c.part w.g ≠ 0 → mask ≠ 0 → q ≠ 4 → ∃ f joins, s.Completes (.qfence w) c
      { s with copies := s.copies.set s.nextId f, nextId := s.nextId + 1 } ∧
    f.kind = .fence joins ∧ f.queue = q ∧ f.wg = c.g.wg ∧ f.phase = .queued ∧
    ∀ id, id ∈ joins ↔ (∃ x, (id, x) ∈ s.copies ∧ x.inWg c.g.wg = true ∧ (∀ l, x.kind ≠ .fence l) ∧ mask.testBit x.queue = true) ∨
      mask.testBit 4 = true ∧ ∃ m ∈ c.w.mqueue, m.id = id) ∧
  (s.Reaches (.qfence w) c → c.part w.g ≠ 0 → mask ≠ 0 → q = 4 → 16 ≤ c.w.mqueue.length → s.Waits (.qfence w)) ∧
  (s.Issues (.qfence w) c → c.part w.g ≠ 0 → mask ≠ 0 → q = 4 → c.w.mqueue.length < 16 → ∃ m, s.Completes (.qfence w) c
      { s with nextId := s.nextId + 1, wgs := s.wgs.set c.g.wg { c.w with mqueue := c.w.mqueue ++ [m] } } ∧
    m.word = .qfence w ∧ m.joins = s.joinsOf c.g.wg c.w mask))

/-- R78, R226, R227, R231: the front of a queue starts when the engines serve it: the commands of the pitches that hold the engine
schedule's entry of the moment go before others, and commands of several pitches in the order of their issue; a running copy that moves bytes within the scratchpad leaves each destination
byte as its source was, gives its token the number of bytes, which is no longer pending, and leaves its queue; a bad
descriptor gives COPY_FAULT with inner cause 2 instead, and moves nothing. A fence leaves when its commands are done.
Beside the rules it rests on readings and choices of the model: log entries 52, 53 and 58. -/
def Obligations.CopySteps : Prop := ∀ (s : State) (id : Nat) (c : Copy) (w : Wg) (k : Nat) (g : Group),
  s.copies.get? id = some c → s.wgs.get? c.wg = some w →
  let waits (i p : Nat) : Prop := ∃ x u, (i, x) ∈ s.copies ∧ s.wgs.get? x.wg = some u ∧ u.pitch = p ∧ x.phase = .queued ∧
    s.mayStart i x u = true ∧ ∀ l, x.kind ≠ .fence l
  let holds (p : Nat) : Prop := ∃ q, s.pitches.get? p = some q ∧ q.engSlots.getLsbD (s.time / 125000 % 64) = true
  let serves := (holds w.pitch ∨ ∀ i p, waits i p → ¬ holds p) ∧
    ((holds w.pitch ∧ ∀ i p, waits i p → holds p → p = w.pitch) ∨ ∀ i p, waits i p → (holds p ↔ holds w.pitch) → id ≤ i)
  (waits id w.pitch → serves → exec (.copyStart id) s = .next { s with copies := s.copies.set id { c with phase := .running } }) ∧
  (waits id w.pitch → ¬ serves → exec (.copyStart id) s = .fault .notEnabled) ∧
  (∀ l, c.phase = .queued → s.mayStart id c w = true → c.kind = .fence l → l.any (s.unfinished w) = false →
    exec (.copyStart id) s = .next { s with copies := s.copies.del id }) ∧
  (c.phase = .running → c.waiting = false → (∀ l, c.kind ≠ .fence l) → w.phase = .resident → s.groupOf c.wg c.gi = some (k, g) →
    c.credit = false → c.mirror = none → c.follow = none → (s.core w.core).inject = none → s.poison = [] → w.role ≠ 3 →
    let token (x : W64) (t : State) : Prop := ∃ r, t.groups.get? k = some { g with regs := r, pend := g.pend.filter fun p => p.2.2 ≠ c.owner } ∧
      (∀ n, r.uni n = if n = c.token then x else g.regs.uni n) ∧ (∀ n l, r.vec n l = g.regs.vec n l) ∧ ∀ n, r.pred n = g.regs.pred n
    (s.copyBad w c = true → ∃ t, exec (.copyComplete id) s = .next t ∧ t.copies.get? id = none ∧ t.mem = s.mem ∧
      token (BitVec.ofNat 64 (0x64 * 2 ^ 40 + 2 * 2 ^ 48)) t) ∧
    ∀ moves core key (src dst : Nat → Nat), s.copyBad w c = false → c.kind = .cpy → s.copyBytes w c ≠ 0 → s.copyMoves w c = .ok moves →
      moves.length < 2 ^ 40 →
      (∀ j < moves.length, (moves.map (·.2.1))[j]? = some (.scr core key (src j)) ∧ (moves.map (·.2.2.2))[j]? = some (.scr core key (dst j))) →
      (∀ i < moves.length, ∀ j < moves.length, (i ≠ j → dst i ≠ dst j) ∧ src i ≠ dst j) →
      ∃ t, exec (.copyComplete id) s = .next t ∧ t.copies.get? id = none ∧ token (BitVec.ofNat 64 moves.length) t ∧
        (∀ j < moves.length, t.scrByte core key (dst j) = s.scrByte core key (src j)) ∧
        ∀ o, (∀ j < moves.length, o ≠ dst j) → t.scrByte core key o = s.scrByte core key o)

/-! ### The matrix engine (10, 11) -/

/-- R242, R245, R246: a matrix command of the engine's owner passes its checks and enters the queue, its token pending, while
fewer than 16 stand there; MMT reads its descriptor block at issue, behind the accesses that meet it, and takes the poison in it. With
no owner its workgroup becomes the owner; another workgroup's claims the engine and waits.
Beside the rules it rests on readings and choices of the model: log entry 57. -/
def Obligations.MatrixWordsIssue : Prop := ∀ (s : State) (w : RRR) (c : Ctx) (i : Instr),
  (i = .bld w ∨ i = .mma w ∨ i = .mmap w ∨ i = .msa w ∨ i = .mzero w ∨ i = .mdr w ∨ i = .mmov w ∨ i = .mmt w ∨ i = .mres w ∨
    i = .mchk w) →
  let part := c.part w.g
  let vals := matrixVals c.regs i
  let course (s1 : State) (x : Wg) : Prop :=
    let behind : Prop := i = .mmt w ∧ s1.overlaps c.g.wg c.g.gi [(0, vals.getD 0 0, 64)] = true
    let s2 := s1.consume c.g.wg c.g.gi s.nextId (s1.rangesPoison x (if i = .mmt w then [(vals.getD 0 0, 64, true)] else []))
    (s.Reaches i c → 16 ≤ x.mqueue.length ∨ behind → s.Waits i) ∧
    (∀ cause addr extra, s.Reaches i c → x.mqueue.length < 16 → ¬ behind → s1.mmtBlock x i vals = .error (cause, addr, extra) →
      s.Raises i c cause part addr extra) ∧
    ∀ block, x.mqueue.length < 16 → ¬ behind → s1.mmtBlock x i vals = .ok block →
      (∀ cause addr extra, s.Reaches i c → s1.matrixCheck c.g.wg x i vals block = some (cause, addr, extra) →
        s.Raises i c cause part addr extra) ∧
      (s.Reaches i c → s1.matrixCheck c.g.wg x i vals block = none →
        s1.overlaps c.g.wg c.g.gi (s1.matrixEls c.g.wg x i vals block) = true → s.Waits i) ∧
      (s.Issues i c → s1.matrixCheck c.g.wg x i vals block = none →
        s1.overlaps c.g.wg c.g.gi (s1.matrixEls c.g.wg x i vals block) = false → ∃ m, s.Completes i c
          { s2 with nextId := s.nextId + 1, wgs := s1.wgs.set c.g.wg { x with mqueue := x.mqueue ++ [m] },
                    groups := s2.groups.modify c.k fun g => g.setPending
                      (match matrixToken i with
                      | some t => [⟨.s, t, 1⟩]
                      | none => []) s.nextId } ∧
          m.id = s.nextId ∧ m.word = i ∧ m.vals = vals ∧ m.block = block ∧ m.token = matrixToken i ∧ m.running = false)
  (s.Issues i c → part = 0 → s.Passes i c) ∧
  (part ≠ 0 → (s.core c.core).owner = some c.g.wg → course s c.w) ∧
  (part ≠ 0 → (s.core c.core).owner = none → course (s.claimEngine c.g.wg c.w) { c.w with savedCtx := none, claim := none }) ∧
  (∀ u, part ≠ 0 → (s.core c.core).owner = some u → u ≠ c.g.wg → s.Reaches i c →
    (c.w.claim.isSome → s.Waits i) ∧
    (c.w.claim = none → exec i s = .next { s with wgs := s.wgs.modify c.g.wg fun x => { x with claim := some s.stepNo } }))

/-- R267: MSTAT without .now waits for the commands that were queued when it found them, then leaves the engine's status in d: for
the owner the sequence's state and where it stands, the owner's bit, a dropped follow-on, which the read clears, and the check's
setting; for all the columns in service and the retired ones.
R231, R232, R245, R246, R262, R265: a join at the front of a matrix queue leaves when its commands are done; the front command of
the owner's queue starts, MMT at its first K-step and MRES where it stood, each with its budget of K-steps, 0 being all that are
left; when it completes, its effect on the engine stands, its token is written and it leaves the queue. A drain whose page is
missing waits; one whose page cannot be resolved leaves a deferred cause.
Beside the rules it rests on readings and choices of the model: log entries 18, 33, 57 and 58. -/
def Obligations.MatrixCommands : Prop :=
  (∀ (s : State) (w : RRR) (c : Ctx), c.w.core = c.core →
  let now := w.m.getLsbD 0
  let x := s.core c.core
  let b (p : Prop) [Decidable p] (n : Nat) : Nat := if p then n else 0
  let common := ((List.range 32).filter fun k => !x.retired.getLsbD k).length * 2 ^ 24 + x.retired.toNat * 2 ^ 32
  let running := c.w.mqueue.any fun m => m.running && (match m.word with
    | .mmt _ | .mres _ => true
    | _ => false)
  let seq := if running = true then 1 else b (x.ctx.mmt.isSome = true) 2
  let stands := (x.ctx.mmt.map fun h => h.mb * 2 ^ 4 + h.nb * 2 ^ 6 + h.kstep * 2 ^ 8).getD 0
  let value := common + if x.owner = some c.g.wg then
    seq + 4 + b (c.w.foDrop = true) 8 + stands + x.ctx.chkK * 2 ^ 16 + b (x.ctx.chkOn = true) (2 ^ 20) else 0
  let gives (g : Group → Group) : Prop := ∃ t r, exec (.mstat w) s = .next t ∧
    t = { s with groups := t.groups, cores := t.cores, wgs := t.wgs } ∧
    t.groups.get? c.k = some (g { c.g with regs := r, wait := .none }) ∧ (∀ k, k ≠ c.k → t.groups.get? k = s.groups.get? k) ∧
    (∀ n, r.uni n = if n = w.d.num then BitVec.ofNat 64 value else c.g.regs.uni n) ∧
    (∀ n l, r.vec n l = c.g.regs.vec n l) ∧ (∀ n, r.pred n = c.g.regs.pred n) ∧
    (x.owner = some c.g.wg → ∃ y, t.wgs.get? c.g.wg = some y ∧ y = { c.w with foDrop := false }) ∧
    (x.owner ≠ some c.g.wg → t.wgs = s.wgs)
  (s.Issues (.mstat w) c → c.part w.g = 0 → s.Passes (.mstat w) c) ∧
  (s.Reaches (.mstat w) c → c.part w.g ≠ 0 → now = false → c.g.wait = .none → (∃ m ∈ c.w.mqueue, m.id < s.nextId) →
    s.Holds (.mstat w) c (s.setGroup c.k { c.g with wait := .mstat s.nextId })) ∧
  (∀ n, s.Reaches (.mstat w) c → c.part w.g ≠ 0 → now = false → c.g.wait = .mstat n → (∃ m ∈ c.w.mqueue, m.id < n) → s.Waits (.mstat w)) ∧
  (s.Issues (.mstat w) c → c.part w.g ≠ 0 → now = true ∨ (∀ m ∈ c.w.mqueue, s.nextId ≤ m.id) → c.g.wait = .none →
    gives fun g => g.behind (.mstat w) c.plane s.stepNo) ∧
  (∀ n, s.Issues (.mstat w) c → c.part w.g ≠ 0 → c.g.wait = .mstat n → (∀ m ∈ c.w.mqueue, n ≤ m.id) → gives fun g => g.past c.plane)) ∧
  (∀ (s : State) (core u : Nat) (w : Wg) (m : MCmd) (ms : List MCmd),
  s.wgs.get? u = some w → w.core = core → w.phase = .resident → w.preempt = false → w.mqueue = m :: ms → Tab.sorted s.wgs = true →
  let ctx := (s.core core).ctx
  let joined (w : Wg) : Prop := ∃ m ms x, w.mqueue = m :: ms ∧ m.word = .qfence x ∧ m.joins.any (s.unfinished { w with mqueue := ms }) = false
  let starts (p : MCtx → Nat → Prop) : Prop := (s.core core).owner = some u → m.running = false → (∀ x, m.word ≠ .qfence x) →
    (∀ v y, (v, y) ∈ s.wgs → y.core = core → ¬ joined y) → ∃ t left, exec (.matrixCommandStart core) s = .next t ∧
      t = { s with cores := t.cores, wgs := s.wgs.set u { w with mqueue := { m with running := true, left } :: ms } } ∧
      t.core core = { s.core core with ctx := (t.core core).ctx } ∧ (∀ n, n ≠ core → t.core n = s.core n) ∧ p (t.core core).ctx left
  let budget (n all : Nat) : Nat := if n = 0 then all else min n all
  (joined w → (∀ v y, (v, y) ∈ s.wgs → y.core = core → joined y → v = u) →
    exec (.matrixCommandStart core) s = .next (s.setWg u { w with mqueue := ms })) ∧
  ((∀ x, m.word ≠ .mmt x ∧ m.word ≠ .mres x) → starts fun y left => y = ctx ∧ left = 0) ∧
  (∀ x d, m.word = .mmt x → mmtDesc x m.block = some d → starts fun y left =>
    y = { ctx with mmt := some ⟨x, m.block, 0, 0, 0, [], false⟩ } ∧ left = budget ((m.vals.getD 1 0).toNat % 2 ^ 32) (d.left 0 0 0)) ∧
  (∀ x h d, m.word = .mres x → x.m.getLsbD 0 = false → ctx.mmt = some h → mmtDesc h.word h.block = some d → starts fun y left =>
    y = { ctx with mmt := some { h with held := false } } ∧ left = budget ((m.vals.getD 0 0).toNat % 2 ^ 32) (d.left h.mb h.nb h.kstep)) ∧
  let key := s.pitchKey w.pitch
  let active := (s.core core).owner = some u ∧ m.running = true ∧ m.waiting = false
  (∀ s' x token, active → m.dead = none → ctx.chkOn = false → s.matrixRun u w (ctx.seen key) m = .done s' x token → s'.wgs = s.wgs →
    ∃ t, exec (.matrixCommandComplete core) s = .next t ∧ (t.core core).ctx = ctx.retag x key (ctx.writes m.word) ∧
      t.wgs.get? u = some { w with mqueue := ms } ∧ t.mem = s'.mem ∧ (m.token = none → t.groups = s'.groups) ∧
      ∀ r k g, m.token = some r → s'.groupOf u m.gi = some (k, g) → (s.core core).inject = none →
        (s'.core core).inject = none → (∀ n, n ≠ k → t.groups.get? n = s'.groups.get? n) ∧
        ∃ regs, t.groups.get? k = some { g with regs, pend := g.pend.filter fun p => p.2.2 ≠ m.owner } ∧
          (∀ n, n < 64 → regs.uni n = if n = r then token else g.regs.uni n) ∧ (∀ n l, regs.vec n l = g.regs.vec n l) ∧
          ∀ n, regs.pred n = g.regs.pred n) ∧
  (∀ s', active → m.dead = none → s.matrixRun u w (ctx.seen key) m = .wait s' → exec (.matrixCommandComplete core) s =
    .next { s' with wgs := s'.wgs.modify u fun w => { w with mqueue := { m with waiting := true } :: ms } }) ∧
  (∀ cause va, active → m.dead = some (cause, va) → m.token = none →
    ∃ t, exec (.matrixCommandComplete core) s = .next t ∧ t.wgs.get? u = some { w with mqueue := ms } ∧ t.mem = s.mem ∧
      t.accs.get? s.nextId = some (deferred u m.gi m.ofs m.plane m.exec m.exec m.pmask cause va
        (match m.word with
        | .mdr x => if x.m.getLsbD 6 then 2 else 1
        | _ => 0))))

/-! ### Queue words (12) -/

/-- R299, R303, R304: the arithmetic of a queue program is 64 bits wide and wraps; shifts take their count modulo 64, ADDI and
MOVI sign-extend their immediate, the logic ones zero-extend it; b0 reads zero and discards. Nothing else changes. -/
def Obligations.QueueArithmetic : Prop := ∀ (s : State) (c : QCtx) (d a b : BitVec 4) (n : BitVec 6) (i : BitVec 18), s.InPacket c →
  let x := (c.q.reg a).toNat
  let y := (c.q.reg b).toNat
  let old := (c.q.reg d).toNat
  let sx (v : W64) : Int := if v.toNat < 2 ^ 63 then v.toNat else v.toNat - 2 ^ 64
  let si : Int := if i.toNat < 2 ^ 17 then i.toNat else i.toNat - 2 ^ 18
  let puts (w : Instr) (v : Int) : Prop := s.QPuts w c s d (BitVec.ofInt 64 v)
  puts (.qbAdd d a b) (x + y) ∧ puts (.qbSub d a b) (x - y) ∧ puts (.qbMul d a b) (x * y) ∧
  puts (.qbAnd d a b) (x &&& y : Nat) ∧ puts (.qbOr d a b) (x ||| y : Nat) ∧ puts (.qbXor d a b) (x ^^^ y : Nat) ∧
  puts (.qbShl d a b) (x * 2 ^ (y % 64)) ∧ puts (.qbShr d a b) (x / 2 ^ (y % 64)) ∧
  puts (.qbAddi d a i) (x + si) ∧ puts (.qbAndi d a i) (x &&& i.toNat : Nat) ∧ puts (.qbOri d a i) (x ||| i.toNat : Nat) ∧
  puts (.qbXori d a i) (x ^^^ i.toNat : Nat) ∧ puts (.qbShli d a n) (x * 2 ^ n.toNat) ∧ puts (.qbShri d a n) (x / 2 ^ n.toNat) ∧
  puts (.qbMovi d i) si ∧ puts (.qbShlor d i) (old * 2 ^ 18 + i.toNat) ∧
  puts (.qbCeq d a b) (if x = y then 1 else 0) ∧ puts (.qbCne d a b) (if x ≠ y then 1 else 0) ∧
  puts (.qbCltu d a b) (if x < y then 1 else 0) ∧
  puts (.qbClts d a b) (if sx (c.q.reg a) < sx (c.q.reg b) then 1 else 0) ∧
  puts (.qbLidx d) (((c.q.loops.head?.map (·.idx)).getD 0 : Nat)) ∧
  (c.q.regs.get? 0 = none → c.q.reg 0 = 0)

/-- R305, R307: a load gives its bytes, zero-extended, at (b[a] + OFS14) mod the window's length, cut to the access's size, so
never outside its window; a store leaves its low bytes there; EMIT passes the 64 bytes on as a launch request, at most eight
times. Window 0 is the packet at HEAD, window 1 the record, the others stand at their bases with their declared lengths. An
access that stops ends the packet with its cause, or waits for its page.
Beside the rules it rests on readings and choices of the model: log entries 49, 51 and 98. -/
def Obligations.QueueAccesses : Prop := ∀ (s : State) (c : QCtx) (d a w : BitVec 4) (o : BitVec 14), s.InPacket c →
  let at_ (x : QWin) (n : Nat) : Nat := let e := (c.q.reg a + o.zeroExtend 64).toNat % x.len; e - e % n
  let stops (i : Instr) : Prop := ∀ e, s.qWin c w.toNat = .error e → s.QStops i c e
  let load (i : Instr) (n : Nat) : Prop := stops i ∧ ∀ s1 x, s.qWin c w.toNat = .ok (s1, x) →
    (∀ s2 bs, s1.qRead c x (at_ x n) n = .ok (s2, bs) → s.QPuts i c s2 d (BitVec.ofNat 64 (leNat bs))) ∧
    (∀ e, s1.qRead c x (at_ x n) n = .error e → s.QStops i c e)
  let store (i : Instr) (n : Nat) : Prop := stops i ∧ ∀ s1 x, s.qWin c w.toNat = .ok (s1, x) →
    let bs : List Byte := (List.range n).map fun j => (c.q.reg d).extractLsb' (8 * j) 8
    (∀ s2, s1.qWrite c x (at_ x n) bs = .ok s2 → s.QPuts i c s2 0 0) ∧
    (∀ e, s1.qWrite c x (at_ x n) bs = .error e → s.QStops i c e)
  load (.qbLdb d a w o) 1 ∧ load (.qbLdh d a w o) 2 ∧ load (.qbLdw d a w o) 4 ∧ load (.qbLdd d a w o) 8 ∧
  store (.qbStb d a w o) 1 ∧ store (.qbSth d a w o) 2 ∧ store (.qbStw d a w o) 4 ∧ store (.qbStd d a w o) 8 ∧
  (8 ≤ c.q.emits → s.QEnds (.emit a w o) c 2 0x69 0 c.q.pc) ∧
  (c.q.emits < 8 → stops (.emit a w o) ∧ ∀ s1 x, s.qWin c w.toNat = .ok (s1, x) →
    (∀ e, s1.qRead c x (at_ x 64) 64 = .error e → s.QStops (.emit a w o) c e) ∧
    ∀ s2 bs, s1.qRead c x (at_ x 64) 64 = .ok (s2, bs) → ∃ t r, exec (.emit a w o) s = .next t ∧
      State.QLeaves { s2 with requests := s2.requests ++ [r] } t c (fun q => { q with emits := q.emits + 1 }) 0 0
        (finishWord c.q.pc c.q.loops).1 (finishWord c.q.pc c.q.loops).2 ∧
      r.hw = none ∧ r.pitch = c.qr.pitch ∧ r.pasid = c.qr.pasid ∧ r.words.length = 8 ∧
      ∀ j < 8, r.words.getD j 0 = BitVec.ofNat 64 (leNat ((bs.drop (8 * j)).take 8))) ∧
  (∀ x n, 0 < n → n ∣ x.len → 0 < x.len → at_ x n + n ≤ x.len) ∧
  s.qWin c 0 = .ok (s, ⟨BitVec.ofNat 64 (c.qr.ring.toNat + 64 * (c.qr.head.toNat % 2 ^ c.qr.log2n)), 64, false, false⟩) ∧
  (∀ x, s.qWin c 1 = .ok (s, x) → x.len = 128 ∧ x.wr = false ∧ ∀ e n, e + n ≤ 128 → ∃ bs, s.qRead c x e n = .ok (s, bs) ∧ bs.length = n) ∧
  ∀ k s1 bs len wr, 2 ≤ k → c.q.prog.wins[k - 2]? = some (len, wr) →
    s.qReadVa c (BitVec.ofNat 64 (c.qr.winTab.toNat + 8 * k)) 8 = .ok (s1, bs) →
    s.qWin c k = .ok (s1, ⟨BitVec.ofNat 64 (leNat bs), 2 ^ len, wr, false⟩)

/-- R301, R306, R312, R354: branches go forward and leave the loops whose bodies do not hold the target; LOOP runs its body
min(b[a], BOUND) times, none being the body's last word done, from which enclosing loops advance. HALT and FAULT end the packet
with its record; a 513th word ends it with QB_BUDGET, and a page that could not be resolved with its cause.
Beside the rules it rests on readings and choices of the model: log entry 51. -/
def Obligations.QueueControl : Prop := ∀ (s : State) (c : QCtx),
  (s.InPacket c → ∀ (a : BitVec 4) (i : BitVec 18) (n : BitVec 6) (l : BitVec 12),
    let takes (w : Instr) (p : Prop) : Prop :=
      (p → s.QGoes w c (c.q.pc + i.toNat) (c.q.loops.filter fun x => decide (x.start ≤ c.q.pc + i.toNat ∧ c.q.pc + i.toNat ≤ x.last))) ∧
      (¬ p → s.QGoes w c (finishWord c.q.pc c.q.loops).1 (finishWord c.q.pc c.q.loops).2)
    let count := min (c.q.reg a).toNat (n.toNat + 1)
    takes (.qbBz a i) (c.q.reg a = 0) ∧ takes (.qbBnz a i) (c.q.reg a ≠ 0) ∧ takes (.qbJmp i) True ∧
    (count = 0 → s.QGoes (.qbLoop a n l) c (finishWord (c.q.pc + l.toNat) c.q.loops).1 (finishWord (c.q.pc + l.toNat) c.q.loops).2) ∧
    (0 < count → s.QGoes (.qbLoop a n l) c (c.q.pc + 1) (⟨c.q.pc + 1, c.q.pc + l.toNat, count, 0⟩ :: c.q.loops)) ∧
    s.QEnds .halt c 1 0 0 c.q.pc ∧ s.QEnds (.fault i) c 2 0 i c.q.pc) ∧
  (∀ i w, encode i = .queue w → Tab.sorted s.slots = true → s.focus = .queue c.hw → s.slots.get? c.hw = some c.q → c.qr = s.qrec c.q.queue → c.q.running = true →
    (512 ≤ c.q.count → s.QEnds i c 2 0x69 0 c.q.last) ∧
    (∀ cause, c.q.count < 512 → c.q.dead = some cause → s.QEnds i c 2 cause 0 c.q.pc) ∧
    (c.q.count < 512 → c.q.dead = none → c.q.waiting = true → s.Waits i)) ∧
  ∀ (w : Nat) (x : QLoop) (ls : List QLoop), finishWord w [] = (w + 1, []) ∧
    (x.last ≠ w → finishWord w (x :: ls) = (w + 1, x :: ls)) ∧
    (x.last = w → x.idx + 1 < x.count → finishWord w (x :: ls) = (x.start, { x with idx := x.idx + 1 } :: ls)) ∧
    (x.last = w → x.count ≤ x.idx + 1 → finishWord w (x :: ls) = finishWord w ls)

/-- R308, R473: a service reads and writes whole ranges of windows, or gives BADARG and does nothing. LAUNCH waits for its
verdict; SIGNAL stores and sends its vector; HASH initialises, absorbs and finishes SHA-384, whose whole state its context holds; SIGN signs with key 0 alone;
RANDOM takes bytes of the generator; DOESEND fills slot 63's mailbox; MEASREAD copies a measurement slot.
Beside the rules it rests on readings and choices of the model: log entries 5, 11, 12 and 51. -/
def Obligations.QueueServices : Prop := ∀ (s : State) (c : QCtx) (d : BitVec 4), s.InPacket c →
  let b (n : BitVec 4) : Nat := (c.q.reg n).toNat
  let range (w o : BitVec 4) (n : Nat) (wr : Bool) : Except QStop (State × Option QWin) := s.qRange c (c.q.reg w) (c.q.reg o) n wr
  let bad (i : Instr) : Prop := s.QPuts i c s d 2
  let words (bs : List Byte) : List W64 := (List.range 8).map fun j => BitVec.ofNat 64 (leNat ((bs.drop (8 * j)).take 8))
  (∀ w ofs n wr s1 y, s.qRange c w ofs n wr = .ok (s1, some y) → ofs.toNat + n ≤ y.len ∧ (wr = true → y.wr = true)) ∧
  (∀ v, c.q.verdict = some v → ∃ t, exec (.launch d) s = .next t ∧ s.QLeaves t c (fun q => { q with asked := false, verdict := none }) d v
    (finishWord c.q.pc c.q.loops).1 (finishWord c.q.pc c.q.loops).2) ∧
  (∀ s1, c.q.verdict = none → range 1 2 64 false = .ok (s1, none) → s.QPuts (.launch d) c s1 d 2) ∧
  (∀ s1 x s2 bs, c.q.verdict = none → range 1 2 64 false = .ok (s1, some x) → s1.qRead c x (b 2) 64 = .ok (s2, bs) →
    exec (.launch d) s = .next { s2 with requests := s2.requests ++ [⟨some c.hw, c.qr.pitch, c.qr.pasid, words bs, none⟩],
                                         slots := s2.slots.modify c.hw fun q => { q with asked := true, waiting := true } }) ∧
  (b 2 % 8 ≠ 0 → bad (.signal d)) ∧
  (∀ s1 x s2, b 2 % 8 = 0 → range 1 2 8 true = .ok (s1, some x) →
    s1.mscClean.qWrite c x (b 2) ((List.range 8).map fun j => (c.q.reg 3).extractLsb' (8 * j) 8) 3 = .ok s2 →
    let sent := if 2 ^ 63 ≤ b 4 then s2.msix ++ [(s2.funcOf c.qr.pasid, b 4 % 2 ^ 11)] else s2.msix
    s.QPuts (.signal d) c { s2 with msix := sent } d 0) ∧
  (3 ≤ b 6 ∨ b 5 % 8 ≠ 0 ∨ b 6 = 1 ∧ 4096 < b 3 → bad (.hash d)) ∧
  (∀ s1 x s2, b 6 = 0 → b 5 % 8 = 0 → range 4 5 256 true = .ok (s1, some x) → s1.qWrite c x (b 5) (hashContext .init) = .ok s2 →
    s.QPuts (.hash d) c (s2.keepHash (hashContext .init)) d 0) ∧
  (∀ s1 x s2 y s3 ctx, b 6 = 1 ∨ b 6 = 2 → b 5 % 8 = 0 → (b 6 = 1 → b 3 ≤ 4096) → range 4 5 256 true = .ok (s1, some x) →
    s1.qRange c (c.q.reg 1) (c.q.reg 2) (if b 6 = 1 then b 3 else 48) (b 6 == 2) = .ok (s2, some y) →
    s2.qRead c x (b 5) 256 = .ok (s3, ctx) →
    (leNat (ctx.take 8) ≠ 0x000000014853544B → s.QPuts (.hash d) c s3 d 2) ∧
    (∀ h bs s4 s5, leNat (ctx.take 8) = 0x000000014853544B → b 6 = 1 → s3.qRead c y (b 2) (b 3) = .ok (s4, bs) →
      s4.hashOf ctx = some h → s4.qWrite c x (b 5) (hashContext (h.absorb bs)) = .ok s5 →
      s.QPuts (.hash d) c (s5.keepHash (hashContext (h.absorb bs))) d 0) ∧
    (∀ h s4 s5, leNat (ctx.take 8) = 0x000000014853544B → s3.hashOf ctx = some h → b 6 = 2 → s3.qWrite c y (b 2) h.final = .ok s4 →
      s4.qWrite c x (b 5) (List.replicate 256 0) = .ok s5 → s.QPuts (.hash d) c s5 d 0)) ∧
  -- a context that the service has made holds its whole computation, and absorbing in parts is absorbing at once
  (∀ h : ShaState, h.h.length = 8 → h.n < 2 ^ 64 → h.buf.length = h.n % 128 →
    (s.keepHash (hashContext h)).hashOf (hashContext h) = some h) ∧
  (∀ m, (ShaState.init.absorb m).final = sha384 m) ∧
  (∀ (h : ShaState) x y, h.buf.length < 128 → (h.absorb x).absorb y = h.absorb (x ++ y)) ∧
  (c.q.reg 5 ≠ 0 → bad (.sign d)) ∧
  (∀ s1 x s2 y s3 dig s4, c.q.reg 5 = 0 → range 1 2 48 false = .ok (s1, some x) →
    s1.qRange c (c.q.reg 3) (c.q.reg 4) 96 true = .ok (s2, some y) → s2.qRead c x (b 2) 48 = .ok (s3, dig) →
    s3.qWrite c y (b 4) ((List.range 96).map fun j => (Config.ecdsaSign s3.drbgNo dig).getD j 0) = .ok s4 →
    s.QPuts (.sign d) c { s4 with drbgNo := s4.drbgNo + 1 } d 0) ∧
  (b 3 = 0 ∨ 256 < b 3 → bad (.random d)) ∧
  (∀ s1 x s2, 1 ≤ b 3 → b 3 ≤ 256 → range 1 2 (b 3) true = .ok (s1, some x) →
    s1.qWrite c x (b 2) ((List.range (b 3)).map fun j => Config.drbg (s1.drbgNo + j)) = .ok s2 →
    s.QPuts (.random d) c { s2 with drbgNo := s2.drbgNo + b 3 } d 0) ∧
  (c.hw ≠ 63 ∨ b 3 % 4 ≠ 0 ∨ b 3 < 8 ∨ 4096 < b 3 → bad (.doesend d)) ∧
  (∀ s1 x, c.hw = 63 → b 3 % 4 = 0 → 8 ≤ b 3 → b 3 ≤ 4096 → range 1 2 (b 3) false = .ok (s1, some x) →
    (s1.doe.resp.isSome → s.QPuts (.doesend d) c s1 d 4) ∧
    ∀ s2 bs, s1.doe.resp = none → s1.qRead c x (b 2) (b 3) = .ok (s2, bs) → s2.doe.drop = false → ∃ t ws, exec (.doesend d) s = .next t ∧
      State.QLeaves { s2 with doe := { s2.doe with resp := some ws } } t c (fun q => { q with sent := true }) d 0
        (finishWord c.q.pc c.q.loops).1 (finishWord c.q.pc c.q.loops).2 ∧
      ws.length = b 3 / 4 ∧ ∀ j < b 3 / 4, ws.getD j 0 = BitVec.ofNat 32 (leNat ((bs.drop (4 * j)).take 4))) ∧
  (24 ≤ b 3 → bad (.measread d)) ∧
  ∀ s1 x s2, b 3 < 24 → range 1 2 48 true = .ok (s1, some x) → s1.qWrite c x (b 2) (s1.measSlot (b 3)) = .ok s2 →
    s.QPuts (.measread d) c s2 d 0

/-- R301, R302, R311, R353: a packet starts at word 0 with every register zero, under the program its queue's record names now, and
acquired at sys scope: no line of a system page is left in the memory-side cache but those that back-invalidation keeps coherent; a
doorbell's value within N of HEAD becomes TAIL, and one beyond it stops the queue with OVERRUN.
Beside the rules it rests on readings and choices of the model: log entry 50. -/
def Obligations.QueuePackets : Prop := ∀ (s : State),
  (∀ hw q p, s.slots.get? hw = some q → s.qprogs.get? (s.qrec q.queue).prog = some p → q.running = false → s.queueReady q.queue = true →
    ∃ t x, exec (.packetStart hw) s = .next t ∧ t = { s.mscForget with slots := t.slots } ∧
      (Tab.sorted s.msc = true → ∀ l ∈ t.msc, isSystem (l.1 * 128) = false) ∧ t.slots.get? hw = some x ∧ x.queue = q.queue ∧
      x.running = true ∧ x.prog = p ∧ x.pc = 0 ∧ x.loops = [] ∧ x.count = 0 ∧ x.emits = 0 ∧ (∀ r, x.reg r = 0) ∧
      ∀ h, h ≠ hw → t.slots.get? h = s.slots.get? h) ∧
  (∀ (q : Nat) (addr : BitVec 48) (v : W64), addr.toNat = 0x2000000000 + 8 * q → targetOf addr.toNat = .doorbell → s.power ≠ .idle →
    (s.pitches.get? (q / 1024)).isSome → ∃ t, exec (.doorbellWrite addr v) s = .next t ∧
      t = { s with slots := t.slots, queues := t.queues } ∧ (∀ k, k ≠ q → t.qrec k = s.qrec k) ∧
      ∃ stamp, t.qrec q =
        if ((v.truncate 32 : W32) - (s.qrec q).head).toNat ≤ 2 ^ (s.qrec q).log2n then { s.qrec q with tail := v.truncate 32, stamp }
        else { s.qrec q with outcome := 3, active := false, stamp }) ∧
  ∃ t, exec .servedTimeWindow s = .next t ∧ t = { s with served := [], windowAt := s.time }

/-! ### System commands and events -/

/-- R13–R17: a rung block that is not 32-byte aligned SRAM sets BADBLOCK; one rung while a command runs gets status 4; else the
command runs, or ends with status 2 where its opcode or request is unknown. Ending writes the status and frees the port. Writes of
SCPSTAT and HOSTRDY clear and set their flags; a store of a register that is not an aligned 64-bit one is ignored.
R12, R40: a store of management SRAM lands, one of what can only be read is ignored, one outside the map is a bus error; IMAGE_MAP's
load status record is written even where its block has a reserved bit set. A load of a register gives its word.
Beside the rules it rests on readings and choices of the model: log entries 4, 70 and 71. -/
def Obligations.CommandPort : Prop := ∀ (s : State) (v : W64),
  let b := s.port.running.toNat
  let p : BitVec 32 := v.truncate 32
  let rung : State := { s with port := { s.port with block := p } }
  let runs : State := { s with port := { s.port with
    block := p, busy := true, running := p, opcode := BitVec.ofNat 8 (s.polRead p.toNat 4) } }
  let ring (t : State) : Prop := exec (.registerWrite 0x02000000 8 v) s = .next t
  (∀ st < 2 ^ 32, (s.ends st).polRead (b + 4) 4 = st ∧ (s.ends st).port = { s.port with busy := false, wait := .none } ∧
    (∀ a, (∀ j < 4, a ≠ polKey (b + 4) + j) → (s.ends st).byte a = s.byte a) ∧ (s.ends st).pitches = s.pitches ∧
    (s.ends st).groups = s.groups) ∧
  (p.toNat % 32 ≠ 0 ∨ inSram p.toNat 32 = false → ring { s with port := { s.port with block := p, badBlock := true } }) ∧
  (p.toNat % 32 = 0 → inSram p.toNat 32 = true →
    (s.port.busy = true → ring (rung.polWrite (p.toNat + 4) 4 4)) ∧
    (s.port.busy = false → s.polRead p.toNat 4 < 256 → runs.known = true → ring runs) ∧
    (s.port.busy = false → s.polRead p.toNat 4 < 256 → runs.known = false → ring (runs.ends 2)) ∧
    (s.port.busy = false → 256 ≤ s.polRead p.toNat 4 → s.polRead p.toNat 4 % 256 ≠ 8 → ring (runs.ends 2)) ∧
    (s.port.busy = false → 256 ≤ s.polRead p.toNat 4 → s.polRead p.toNat 4 % 256 = 8 →
      ring ((runs.loadStatus 2 0 (runs.arg 0).toNat 0 0).ends 2))) ∧
  exec (.registerWrite 0x02000010 8 v) s = .next { s with port := { s.port with bootprog := v &&& 0x8000FFFFFFFF00FF } } ∧
  (∀ (addr : BitVec 48) size,
    let lies (lo hi : Nat) : Prop := lo ≤ addr.toNat ∧ addr.toNat + size ≤ hi
    let registers := lies 0x02000000 0x02000020 ∨ lies 0x03000000 0x03030000 ∨ lies 0x04000000 0x04020000
    let fixed := lies 0 0x40000 ∨ lies 0x10000000 0x50000000
    let stores (t : State) : Prop := exec (.registerWrite addr size v) s = .next t
    (registers → size ≠ 8 ∨ addr.toNat % 8 ≠ 0 → stores s) ∧ (fixed → stores s) ∧
    (0 < size → lies 0x08000000 0x08200000 → stores (s.polPut addr.toNat (leBytes size v.toNat))) ∧
    (¬ registers → ¬ fixed → ¬ lies 0x08000000 0x08200000 → ¬ lies recordWindow (recordWindow + 2 ^ 21) →
      stores { s with busError := some addr.toNat })) ∧
  (let load (ofs : Nat) (p : W64 → Prop) : Prop := ∃ x, s.policyLoad (0x02000000 + ofs) 8 = some x ∧ p x
   load 0 (· = s.port.block.zeroExtend 64) ∧ load 0x10 (· = s.port.bootprog) ∧ load 0x18 (· = if s.port.ready then 1 else 0) ∧
   load 8 fun x => x.getLsbD 0 = s.port.busy ∧ x.getLsbD 1 = s.port.badBlock ∧ x.extractLsb' 2 6 = 0 ∧
     x.extractLsb' 8 8 = s.port.opcode ∧ x.toNat < 2 ^ 16) ∧
  exec (.scpstatWrite v) s = .next { s with port := { s.port with badBlock := s.port.badBlock && !v.getLsbD 1 } } ∧
  exec (.hostrdyWrite v) s = .next { s with port := { s.port with ready := s.port.ready || v.getLsbD 0 } }

/-- R18, R29–R34, R39–R41, R310, R386, R477, R491: what the commands of start-up leave and with which status they end.
Beside the rules it rests on readings and choices of the model: log entries 1, 7, 67, 68, 69, 72, 73, 74 and 104. -/
def Obligations.StartUpCommands : Prop := ∀ (s : State) (blk : W64),
  let arg (k : Nat) : Nat := (s.arg k).toNat
  let gives (op : Nat) (i : Instr) (p : Prop) (t : State) : Prop := s.onPort blk op = true → p → exec i s = .next t
  (let bad := 23 ≤ arg 0 ∨ arg 0 = 4 ∨ arg 0 = 5 ∨ arg 0 < 4 ∧ s.trained = true ∨ inSram (arg 1) 48 = false
   gives 2 (.measExtend blk) bad (s.ends 2) ∧
   gives 2 (.measExtend blk) (¬ bad)
     ({ s with meas := s.meas.set (arg 0) (sha384 (s.measSlot (arg 0) ++ s.polBytes (arg 1) 48)) }.ends 0)) ∧
  (let src := arg 0
   let dst := arg 1
   let max := arg 2
   let fits := dst % 8 = 0 ∧ inSram dst max = true ∧ (max = 0 ∨ (dst + max ≤ 0x08010000 ∨ 0x08110000 ≤ dst) ∧
     (dst + max ≤ 0x081FFF00 ∨ 0x08200000 ≤ dst))
   let len := s.polRead (src + 12) 4
   let m := s.flashBytes src (min len 16384)
   let good := inFlash src 160 = true ∧ inFlash src len = true ∧ s.manifestOk m max = true
   gives 1 (.manifestVerify blk) (¬ fits) (s.ends 2) ∧
   (s.onPort blk 1 = true → fits → ¬ good → ∃ t : State, exec (.manifestVerify blk) s = .next (t.ends 0x1A5) ∧ t.latch = s.latch ∧ t.port = s.port) ∧
   gives 1 (.manifestVerify blk) (fits ∧ good)
     ({ ((s.polPut dst m).polPut 0x08010000 (s.fwSection m)).polPut 0x081FFF00 (sha384 (m.take (bytesAt m 0x98 4)) ++
          sha384 (s.fwSection m) ++ slice m 0x50 48 ++ sha384 (slice m (bytesAt m 0x80 4) (bytesAt m 0x84 4))) with
        latch := some ⟨bytesAt m 8 2, listAt m (bytesAt m 0x88 4) (bytesAt m 0x8C 2), listAt m (bytesAt m 0x90 4) (bytesAt m 0x8E 2)⟩ }.finish
       0 [(2, BitVec.ofNat 64 (dst + bytesAt m 0x80 4))])) ∧
  (let legal := s.pitched = false ∧ arg 1 ≤ 2 ^ 23 ∧ inFlash (arg 0) (arg 1) = true ∧ inSram (arg 2) 48 = true
   let bs := s.flashBytes (arg 0) (arg 1)
   gives 3 (.lanternLoad blk) (¬ legal) (s.ends 2) ∧
   gives 3 (.lanternLoad blk) (legal ∧ sha384 bs ≠ s.polBytes (arg 2) 48) (s.ends 0x1A6) ∧
   gives 3 (.lanternLoad blk) (legal ∧ sha384 bs = s.polBytes (arg 2) 48 ∧ lanternOk bs = false) (s.ends 2) ∧
   gives 3 (.lanternLoad blk) (legal ∧ sha384 bs = s.polBytes (arg 2) 48 ∧ lanternOk bs = true) ({ s with lantern := bs }.ends 0)) ∧
  (let legal := s.pitched = false ∧ arg 0 < 2 ^ 32
   gives 5 (.dramTrain blk) (¬ legal) (s.ends 2) ∧
   ∀ mask : BitVec 32,
     (∀ c < 32, mask.getLsbD c = ((s.arg 0).getLsbD c && !s.retCh.getLsbD c && !Config.freeBool s.stepNo c)) →
     (s.onPort blk 5 = true → legal → ∃ t : State,
       exec (.dramTrain blk) s = .next (if mask = 0 then t.ends 5 else t.finish 0 [(1, mask.zeroExtend 64)]) ∧ t.trained = true ∧ t.retCh = ~~~mask ∧ (∀ a < 2 ^ 37, t.byte a = 0) ∧ ∀ a, 2 ^ 37 ≤ a → t.byte a = s.byte a)) ∧
  (let slot := arg 0
   let src := arg 1
   let img := s.flashBytes src (field (s.arg 2) 0 32)
   let legal := s.latch.isSome = true ∧ slot < 64 ∧ arg 2 < 2 ^ 36
   let listed := inFlash src (field (s.arg 2) 0 32) = true ∧ ∃ l x, s.latch = some l ∧ x ∈ l.qprogs ∧ x.1 = src ∧ x.2.2 = sha384 img
   gives 7 (.qprogLoad blk) (s.latch = none ∨ legal ∧ ¬ listed) ((s.loadStatus 0x16A 0 src 0 0).ends 0x16A) ∧
   gives 7 (.qprogLoad blk) (s.latch.isSome = true ∧ ¬ legal) (s.ends 2) ∧
   gives 7 (.qprogLoad blk) (legal ∧ listed ∧ qHeader img = none) ((s.loadStatus 0x16A 1 src 0 0).ends 0x16A) ∧
   ∀ p, qHeader img = some p →
     (∀ rule word, p.check = some (rule, word) →
       gives 7 (.qprogLoad blk) (legal ∧ listed) ((s.loadStatus 0x16A rule src 0 word).ends 0x16A)) ∧
     (∀ s1, p.check = none → s.recordsFit slot p = (s1, some false) → gives 7 (.qprogLoad blk) (legal ∧ listed) (s1.ends 2)) ∧
     ∀ s1, p.check = none → s.recordsFit slot p = (s1, some true) → gives 7 (.qprogLoad blk) (legal ∧ listed)
       (({ s1 with qprogs := s1.qprogs.set slot p }.extend 4 (sha384 img)).ends 0)) ∧
  (let pasid := field (s.arg 2) 0 20
   let unlisted := s.mapEnds 0x1A6 0 (arg 0) 0 0
   let fine := arg 2 < 2 ^ 30 ∧ field (s.arg 2) 20 4 = 0 ∧ pasid ≠ 0 ∧ arg 1 % 4096 = 0 ∧ canonical (s.arg 1) = true ∧
     ∀ c, s.pasids.get? pasid = some c → c.closing = false
   let entry := s.latch.bind fun l => l.images.find? fun y => y.1 == arg 0
   gives 8 (.imageMap blk) (s.latch = none) unlisted ∧
   gives 8 (.imageMap blk) (s.latch.isSome = true ∧ s.pitchOfKey (field (s.arg 2) 24 6) = none) (s.mapEnds 2 0 (arg 0) 0 0) ∧
   ∀ pitch p, s.pitchOfKey (field (s.arg 2) 24 6) = some (pitch, p) →
     let mayMap := fine ∧ ((s.pasids.get? pasid).isSome = true ∨ p.tdi = .opened)
     gives 8 (.imageMap blk) (s.latch.isSome = true ∧ ¬ fine) (s.mapEnds 2 0 (arg 0) 0 0) ∧
     gives 8 (.imageMap blk) (s.latch.isSome = true ∧ fine ∧ ¬ mayMap) (s.mapEnds 0x1A0 0 (arg 0) 0 0) ∧
     gives 8 (.imageMap blk) (s.latch.isSome = true ∧ mayMap ∧ (entry = none ∨ s.elfAt (arg 0) = none)) unlisted ∧
     ∀ dig e x, entry = some (arg 0, x, dig) → s.elfAt (arg 0) = some e →
       let good := sha384 e.hashes = dig ∧ e.hashes.length = 48 * (e.pages (arg 0)).length
       gives 8 (.imageMap blk) (mayMap ∧ ¬ good) unlisted ∧
       (∀ r, s.resolveAll (arg 0) (arg 1) e e.relas [] = .inr r →
         gives 8 (.imageMap blk) (mayMap ∧ good) (s.mapEnds 0x1A4 r.type (arg 0) r.sym r.ofs)) ∧
       ∀ ps, s.resolveAll (arg 0) (arg 1) e e.relas [] = .inl ps → gives 8 (.imageMap blk) (mayMap ∧ good)
         ((((s.withContext pasid pitch).mapImage pasid (arg 1) (field (s.arg 2) 24 6) (arg 0) e ps).extend 5 dig).mapEnds 0 0 (arg 0) 0 0)) ∧
  (let bad := (s.arg 0 &&& 0x7FFFFFFFFFF00000) ≠ 0 ∨ arg 1 % 4096 ≠ 0 ∨ canonical (s.arg 1) = false
   let range := if arg 2 = 0 then none else some (arg 1 % 2 ^ 48 / 4096, arg 2)
   gives 9 (.tlbInval blk) bad (s.ends 2) ∧
   (s.onPort blk 9 = true → ¬ bad → ∃ t : State, exec (.tlbInval blk) s = .next (t.ends 0) ∧ ((s.arg 0).getLsbD 63 = false →
     (∀ x ∈ t.l1Tlb, tlbHits (field (s.arg 0) 0 20) range x.1 x.2 = false) ∧
     ∀ x ∈ t.baseTlb, tlbHits (field (s.arg 0) 0 20) range x.1 x.2 = false))) ∧
  (let legal := (∃ l, s.latch = some l ∧ s.minSvn < arg 0 ∧ arg 0 ≤ l.svn) ∧ s.arg 1 = 0 ∧ s.arg 2 = 0
   gives 26 (.svnRaise blk) (¬ legal) (s.ends 2) ∧ gives 26 (.svnRaise blk) legal ({ s with minSvn := arg 0 }.ends 0))

/-- R18, R19, R75–R82, R477–R481: PITCH_CFG configures the pitch its record names, and waits while a core it leaves out holds work;
REMOVE frees a pitch and zeroes its keys; KEY_GRANT draws or zeroes a key; TDI_STATE moves a pitch between Open, Locked, Run and
Error, each with the keys the rules name. Only an Open pitch takes a configuration (0x1A0).
Beside the rules it rests on readings and choices of the model: log entries 71, 74, 75 and 76. -/
def Obligations.PitchCommands : Prop := ∀ (s : State) (blk : W64) (n : Nat) (p : Pitch),
  let gives (op : Nat) (i : Instr) (q : Prop) (t : State) : Prop := s.onPort blk op = true → q → exec i s = .next t
  let leaves (op : Nat) (i : Instr) (q : Prop) (r : State → Prop) : Prop :=
    s.onPort blk op = true → q → ∃ t : State, exec i s = .next (t.ends 0) ∧ r t
  let idle := s.wgsOf n = [] ∧ (∀ x ∈ s.slots, x.2.queue / 1024 ≠ n) ∧ (∀ x ∈ s.copies, s.pitchOf x.2.wg ≠ some n) ∧
    ∀ x ∈ s.accs, s.pitchOf x.2.wg ≠ some n
  (let w := s.pitchRecord
   let old := s.pitches.get? n
   let p := pitchOfRecord w old
   let reads := s.removes = false ∧ s.port.wait = .none ∧ inSram (s.arg 0).toNat 64 = true ∧ n = field (w.getD 4 0) 0 4
   let fits := pitchClean w = true ∧ s.pitchFits n p = true
   (∀ q, old = some q → gives 6 (.pitchCfg blk) (reads ∧ q.tdi ≠ .opened) (s.ends 0x1A0)) ∧
   gives 6 (.pitchCfg blk) (s.removes = false ∧ s.port.wait = .none ∧ inSram (s.arg 0).toNat 64 = false) (s.ends 2) ∧
   ((∀ q, old = some q → q.tdi = .opened) →
     gives 6 (.pitchCfg blk) (reads ∧ ¬ fits) (s.ends 2) ∧
     (s.onPort blk 6 = true → reads → fits → (∃ c < 96, p.cores.getLsbD c = false ∧ s.coreHolds n c = true) →
       ∃ t, exec (.pitchCfg blk) s = .next t ∧ t.port.wait = .cores n ∧ t.port.busy = true ∧ t.pitches = s.pitches.set n p ∧
         ∀ u w, s.wgs.get? u = some w → w.pitch = n → w.phase = .resident → p.cores.getLsbD w.core = false → u ∈ s.preemptSet u →
           (t.wgs.get? u).map (·.preempt) = some true) ∧
     leaves 6 (.pitchCfg blk) (reads ∧ fits ∧ (∀ c < 96, p.cores.getLsbD c = true ∨ s.coreHolds n c = false) ∧
         ∀ x ∈ s.wgsOf n, x.2.phase = .resident → p.cores.getLsbD x.2.core = true) fun t =>
       t.pitches = s.pitches.set n p ∧ t.pitched = true ∧ t.groups = s.groups ∧ t.wgs = s.wgs ∧
       ((∀ q, old = some q → q.keySlot ≠ p.keySlot) → t.keyGen.get? p.keySlot = some s.nextId))) ∧
  (∀ m, s.port.wait = .cores m → s.port.busy = true → s.coresClear m = true → exec .pitchCoreCleared s = .next (s.ends 0)) ∧
  (leaves 6 (.pitchRemove blk) (s.removes = true ∧ s.port.wait = .none ∧ s.pitches.get? n = some p ∧ p.tdi = .opened ∧ n < 16 ∧
      s.pitchRecord = [0, 0, 0, 0, BitVec.ofNat 64 (n + 256), 0, 0, 0] ∧ s.mayRemove n = true ∧ idle) fun t =>
    t.pitches.get? n = none ∧ (∀ m, m ≠ n → t.pitches.get? m = s.pitches.get? m) ∧ ∀ k ∈ s.keySet n, t.keyGen.get? k = none) ∧
  gives 6 (.pitchRemove blk) (s.removes = true ∧ s.port.wait = .none ∧ n = field (s.pitchRecord.getD 4 0) 0 4 ∧
    (s.pitches.get? n = none ∨ s.pitches.get? n = some p ∧
      (p.tdi ≠ .opened ∨ s.pitchRecord ≠ [0, 0, 0, 0, BitVec.ofNat 64 (n + 256), 0, 0, 0] ∨ s.mayRemove n = false))) (s.ends 2) ∧
  (let a := s.arg 0
   let key := field a 0 6
   let reads := (a &&& 0xFFFFFFFFFFFFE0C0) = 0 ∧ s.arg 1 = 0 ∧ s.arg 2 = 0 ∧ n = field a 8 4 ∧ s.pitches.get? n = some p
   let others := ∀ x ∈ s.pitches, x.1 ≠ n → x.2.keySlot ≠ key ∧ key ∉ x.2.granted
   let unused := ∀ x ∈ s.pasids, x.2.pitch = n → x.2.closing = false → s.leafUses key 4 x.2.root = false
   gives 19 (.keyGrant blk) ((a &&& 0xFFFFFFFFFFFFE0C0) ≠ 0 ∨ s.arg 1 ≠ 0 ∨ s.arg 2 ≠ 0 ∨ s.pitches.get? (field a 8 4) = none) (s.ends 2) ∧
   gives 19 (.keyGrant blk) (reads ∧ p.tdi ≠ .opened) (s.ends 0x1A0) ∧
   gives 19 (.keyGrant blk) (reads ∧ p.tdi = .opened ∧ (¬ others ∨ a.getLsbD 12 = true ∧ (key ∉ p.granted ∨ ¬ unused))) (s.ends 2) ∧
   leaves 19 (.keyGrant blk) (reads ∧ p.tdi = .opened ∧ others ∧ a.getLsbD 12 = false) (fun t =>
     t.pitches.get? n = some { p with granted := insertNat key p.granted } ∧ t.keyGen.get? key = some s.nextId) ∧
   leaves 19 (.keyGrant blk) (reads ∧ p.tdi = .opened ∧ others ∧ a.getLsbD 12 = true ∧ key ∈ p.granted ∧ unused) fun t =>
     t.pitches.get? n = some { p with granted := p.granted.filter (· ≠ key) } ∧ t.keyGen.get? key = none) ∧
  (let asks (r : Nat) := field (s.arg 0) 4 3 = r ∧ s.tdiPitch = some (n, p)
   let turns (q : Pitch) (t : State) : Prop := t.pitches.get? n = some q ∧ ∀ m, m ≠ n → t.pitches.get? m = s.pitches.get? m
   leaves 20 (.tdiStateLock blk) (asks 0 ∧ p.tdi = .opened ∧ s.mayLock n = true) (fun t =>
     turns { p with tdi := .locked, debug := 0 } t ∧ t.keyGen.get? p.keySlot = some s.nextId) ∧
   (s.tdiPitch = none → s.port.wait = .none →
     gives 20 (.tdiStateLock blk) (field (s.arg 0) 4 3 = 0) (s.ends 2) ∧ gives 20 (.tdiStateStart blk) (field (s.arg 0) 4 3 = 1) (s.ends 2) ∧
     gives 20 (.tdiStateStop blk) (field (s.arg 0) 4 3 = 2) (s.ends 2) ∧ gives 20 (.tdiStateError blk) (field (s.arg 0) 4 3 = 3) (s.ends 2)) ∧
   gives 20 (.tdiStateLock blk) (asks 0 ∧ (p.tdi ≠ .opened ∨ s.mayLock n = false)) (s.ends 2) ∧
   leaves 20 (.tdiStateStart blk) (asks 1 ∧ p.tdi = .locked ∧ s.dev3 = false) (turns { p with tdi := .run }) ∧
   gives 20 (.tdiStateStart blk) (asks 1 ∧ (p.tdi ≠ .locked ∨ s.dev3 = true)) (s.ends 2) ∧
   leaves 20 (.tdiStateError blk) (asks 3 ∧ s.port.wait = .none ∧ (p.tdi = .locked ∨ p.tdi = .run) ∧ idle) (fun t =>
     turns { p with tdi := .error, removing := false } t ∧ ∀ k ∈ s.keySet n, t.keyGen.get? k = none) ∧
   gives 20 (.tdiStateError blk) (asks 3 ∧ s.port.wait = .none ∧ (p.tdi = .opened ∨ p.tdi = .error)) (s.ends 2) ∧
   gives 20 (.tdiStateStop blk) (asks 2 ∧ s.port.wait = .none ∧ p.tdi = .opened) (s.ends 2) ∧
   leaves 20 (.tdiStateStop blk) (asks 2 ∧ s.port.wait = .none ∧ (p.tdi = .locked ∨ p.tdi = .run) ∧ idle) (fun t =>
     turns { p with tdi := .opened, removing := false } t ∧ t.keyGen.get? p.keySlot = some s.nextId) ∧
   leaves 20 (.tdiStateStop blk) (asks 2 ∧ s.port.wait = .none ∧ p.tdi = .error ∧ p.removing = false) (fun t =>
     turns { p with tdi := .opened } t ∧ t.keyGen.get? p.keySlot = some s.nextId))

/-- R2, R25, R477, R484–R489: DEBUG_SET, the challenge and its one token, halts of a group; POWER_SET, entry to Standby when
nothing runs, WAKE; loss of power keeps fuses, flash, the ROM and what lies beyond the links, and nothing of the DRAM.
Beside the rules it rests on readings and choices of the model: log entries 71, 77 and 78. -/
def Obligations.DebugAndPower : Prop := ∀ (s : State) (blk : W64),
  let gives (op : Nat) (i : Instr) (q : Prop) (t : State) : Prop := s.onPort blk op = true → q → exec i s = .next t
  let lone := s.arg 1 = 0 ∧ s.arg 2 = 0
  (∀ p, s.pitches.get? (field (s.arg 0) 0 4) = some p →
    let reads := (s.arg 0).toNat < 64 ∧ field (s.arg 0) 4 2 ≠ 3 ∧ lone
    gives 21 (.debugSet blk) (¬ reads) (s.ends 2) ∧
    gives 21 (.debugSet blk) (reads ∧ p.tdi ≠ .opened) (s.ends 0x1A0) ∧
    gives 21 (.debugSet blk) (reads ∧ p.tdi = .opened)
      ({ s with pitches := s.pitches.set (field (s.arg 0) 0 4) { p with debug := field (s.arg 0) 4 2 } }.ends 0)) ∧
  (s.pitches.get? (field (s.arg 0) 0 4) = none → gives 21 (.debugSet blk) True (s.ends 2)) ∧
  (let a := (s.arg 1).toNat
   let legal := s.arg 0 = 0 ∧ s.arg 2 = 0 ∧ inSram a 32 = true
   let bs := (List.range 32).map fun i => Config.drbg (s.drbgNo + i)
   gives 22 (.debugChallenge blk) (¬ legal) (s.ends 2) ∧
   gives 22 (.debugChallenge blk) legal (({ s with drbgNo := s.drbgNo + 32, challenge := some bs }.polPut a bs).ends 0)) ∧
  (let a := (s.arg 1).toNat
   let clean := s.arg 0 = 0 ∧ s.arg 2 = 0 ∧ a % 8 = 0 ∧ inSram a 7552 = true
   let legal := clean ∧ s.port.wait = .none
   let t := s.polBytes a 7552
   gives 23 (.debugToken blk) (s.port.wait = .none ∧ ¬ clean) (s.ends 2) ∧
   (s.onPort blk 23 = true → legal → s.tokenOk t = true → Tab.sorted s.pitches = true → ∃ u, exec (.debugToken blk) s = .next u ∧ u.challenge = none ∧
     (u.dev3 = true ∨ u.port.busy = true ∧ ∃ ps, u.port.wait = .ending ps) ∧ ∀ n p, s.pitches.get? n = some p →
       (u.pitches.get? n).map (·.tdi) = some (if p.tdi = .locked ∨ p.tdi = .run then .error else p.tdi)) ∧
   gives 23 (.debugToken blk) (legal ∧ s.tokenOk t = false) ({ s with challenge := none }.ends 0x1A1) ∧
   gives 23 (.debugToken blk) (legal ∧ s.tokenOk t = true ∧ ∀ x ∈ s.pitches, x.2.tdi ≠ .locked ∧ x.2.tdi ≠ .run)
     ({ ({ s with challenge := none } : State).extend 23 (sha384 (t.take 128)) with dev3 := true }.ends 0)) ∧
  (∀ g, let core := field (s.arg 0) 0 7
    let slot := field (s.arg 0) 7 6
    let halts (i : Instr) (op : Nat) (q : Group) : Prop := s.onPort blk 24 = true → field (s.arg 0) 13 2 = op →
      (s.arg 0).toNat < 2 ^ 15 → lone → core < 96 → slot < 48 →
      (s.debugLevel (s.coreOwner core) < 2 → exec i s = .next (s.ends 0x1A1)) ∧
      (2 ≤ s.debugLevel (s.coreOwner core) → s.groups.get? (gid core slot) = some g → s.pairOf g.wg = none →
        ∃ t : State, exec i s = .next (t.ends 0) ∧ t.groups.get? (gid core slot) = some q ∧
          ∀ k, k ≠ gid core slot → t.groups.get? k = s.groups.get? k) ∧
      (2 ≤ s.debugLevel (s.coreOwner core) → s.groups.get? (gid core slot) = none → exec i s = .next (s.ends 2)) ∧
      ∀ k p lead, 2 ≤ s.debugLevel (s.coreOwner core) → s.groups.get? (gid core slot) = some g → s.pairOf g.wg = some (k, p, lead) →
        ∃ t : State, exec i s = .next (t.ends 0) ∧ t.pairs.get? k = some (if op = 2 then { p with dbg := p.dbg.filter fun x => x.1 ≠ g.gi }
          else { p with dbg := p.dbg ++ [(g.gi, op)], ckpt := true }) ∧
          t.groups.get? (gid core slot) = some (if op = 2 then q else g)
    halts (.debugHalt blk) 0 { g with halted := true, stepReq := false } ∧
    halts (.debugStep blk) 1 { g with halted := true, stepReq := g.atBoundary } ∧
    halts (.debugResume blk) 2 { g with halted := false, stepReq := false }) ∧
  gives 25 (.powerSetRun blk) ((s.arg 0).toNat % 4 = 0 ∧ (s.arg 0 ≠ 0 ∨ ¬ lone)) (s.ends 2) ∧
  gives 25 (.powerSetStandby blk) ((s.arg 0).toNat % 4 = 2 ∧ s.port.wait ≠ .standby ∧
    (s.arg 0 ≠ 2 ∨ ¬ lone ∨ ∃ x ∈ s.pitches, x.2.tdi = .locked ∨ x.2.tdi = .run)) (s.ends 2) ∧
  gives 25 (.powerSetRun blk) (s.arg 0 = 0 ∧ lone) ({ s with power := if s.power = Power.idle then .run else s.power }.ends 0) ∧
  (s.onPort blk 25 = true → s.arg 0 = 2 → lone → s.port.wait = .none → (∀ x ∈ s.pitches, x.2.tdi ≠ .locked ∧ x.2.tdi ≠ .run) →
    s.quiet = true → s.wakeHeld = false → ∃ t : State, exec (.powerSetStandby blk) s = .next t ∧ t.power = .standby ∧ t.window = false ∧
      t.port.busy = false ∧ ∀ k < 2, ∀ x, t.ports.get? k = some x → x.width = 0) ∧
  (s.power = .standby → exec .wakeInput s = .next s.leaveStandby ∧
    (s.pitches = [] → s.leaveStandby.power = .run ∧ s.leaveStandby.wakeHeld = false)) ∧
  (s.power ≠ .standby → s.port.wait = .standby → exec .wakeInput s = .next { s with wakeHeld := true }) ∧
  (s.power ≠ .standby → s.port.wait ≠ .standby → exec .wakeInput s = .next s) ∧
  (s.power = .off → exec .powerGood s = .next { s with power := .run }) ∧
  (∃ t : State, exec .powerLoss s = .next t ∧ t.power = .off ∧ t.keyGen = State.reset.keyGen ∧ t.meas = State.reset.meas ∧ t.groups = [] ∧
    t.minSvn = s.minSvn ∧ t.keyHash = s.keyHash ∧ (∀ a < 2 ^ 37, t.byte a = 0) ∧
    ∀ a, 0x10000000 ≤ a → a < 0x50000000 → t.byte (polKey a) = s.byte (polKey a)) ∧
  ∀ half, exec (.powerManagerClocks half) s = .next { s with clkHalf := half }

/-- R411–R421, R480, R481: PASID_SET makes a context; CLOSE marks it, removes its translations, and its drain frees it; COMM_CFG
reads a communicator's table; LINK_STAT answers for a port; ports train, narrow and go down; a stream that fails integrity puts its
pitches that are Locked or Run in Error.
Beside the rules it rests on readings and choices of the model: log entries 15, 74 and 80. -/
def Obligations.InterfaceCommands : Prop := ∀ (s : State) (blk : W64),
  let a := s.arg 0
  let gives (op : Nat) (i : Instr) (q : Prop) (t : State) : Prop := s.onPort blk op = true → q → exec i s = .next t
  let pasid := field a 0 20
  (let func := field a 20 6
   let pitch := field a 26 4
   let root := (s.arg 1).toNat
   let old := s.pasids.get? pasid
   let open_ := s.isOpen pitch = true ∧ (∀ c, old = some c → s.isOpen c.pitch = true) ∧ ∀ p, s.vfs.get? func = some p → s.isOpen p = true
   let legal := field a 32 31 = 0 ∧ pasid ≠ 0 ∧ func < 33 ∧ (s.pitches.get? pitch).isSome ∧ root % 4096 = 0 ∧ root < 2 ^ 48 ∧
     (∀ p, s.vfs.get? func = some p → p = pitch) ∧ (if root = 0 then old.isSome else root < s.dramSize)
   let ctx : PasidCtx :=
     { root := if root = 0 then (old.map (·.root)).getD 0 else root, func, pitch, ats := a.getLsbD 30, pri := a.getLsbD 31, closing := false }
   let sets := a.getLsbD 63 = false
   gives 10 (.pasidSet blk) (sets ∧ ¬ open_) (s.ends 0x1A0) ∧ gives 10 (.pasidSet blk) (sets ∧ open_ ∧ ¬ legal) (s.ends 2) ∧
   gives 10 (.pasidSet blk) (sets ∧ open_ ∧ legal)
     ({ s with pasids := s.pasids.set pasid ctx, vfs := if func = 0 then s.vfs else s.vfs.set func pitch }.ends 0)) ∧
  gives 10 (.pasidClose blk) (a.getLsbD 63 = true ∧ s.port.wait = .none ∧ s.pasids.get? pasid = none) (s.ends 2) ∧
  (∀ c, a.getLsbD 63 = true → s.port.wait = .none → s.pasids.get? pasid = some c →
    (∀ p, s.pitches.get? c.pitch = some p → p.tdi = .locked ∨ p.tdi = .run → gives 10 (.pasidClose blk) True (s.ends 0x1A0)) ∧
    gives 10 (.pasidClose blk) ((∀ p, s.pitches.get? c.pitch = some p → p.tdi ≠ .locked ∧ p.tdi ≠ .run) ∧
      (field a 32 31 ≠ 0 ∨ pasid = 0 ∨ 33 ≤ field a 20 6)) (s.ends 2) ∧
    (s.onPort blk 10 = true → (∀ p, s.pitches.get? c.pitch = some p → p.tdi ≠ .locked ∧ p.tdi ≠ .run) →
      field a 32 31 = 0 → pasid ≠ 0 → field a 20 6 < 33 → ∃ t, exec (.pasidClose blk) s = .next t ∧ t.port.wait = .drain pasid ∧
        t.port.busy = true ∧ t.isClosing pasid = true ∧ (∀ x ∈ t.l1Tlb, tlbHits pasid none x.1 x.2 = false) ∧
        ∀ x ∈ t.baseTlb, tlbHits pasid none x.1 x.2 = false)) ∧
  (∀ p, s.port.wait = .drain p → s.port.busy = true → s.drained p = true → ∃ t : State, exec .pasidDrainAck s = .next (t.ends 0) ∧
    t.pasids.get? p = none ∧ (∀ q, q ≠ p → t.pasids.get? q = s.pasids.get? q) ∧ t.mem = s.mem) ∧
  gives 11 (.commCfg blk) (s.pitches.get? (field a 12 4) = none) (s.ends 2) ∧
  (∀ p, s.pitches.get? (field a 12 4) = some p →
    let n := field a 16 8
    let table := (s.arg 1).toNat
    let ranks := (List.range n).map fun i => s.commEntry p.keySlot (table + 8 * i)
    let legal := field a 32 32 = 0 ∧ 2 ≤ n ∧ table + 8 * n ≤ s.dramSize ∧ field a 24 8 + (ranks.filter fun r => !r.1).length ≤ n
    gives 11 (.commCfg blk) (¬ legal) (s.ends 2) ∧
    gives 11 (.commCfg blk) legal
      ({ s with comms := s.comms.set (field a 12 4 * 4096 + field a 0 12) ⟨field a 12 4, field a 24 8, ranks⟩ }.ends 0)) ∧
  (∀ x : Port, s.ports.get? a.toNat = some x → x.width < 32 → x.mode < 4 → x.retrains < 2 ^ 16 →
    gives 12 (.linkStat blk) (a.toNat < 2) (s.finish 0 [(1, BitVec.ofNat 64 (x.width + x.mode * 2 ^ 8 + x.retrains * 2 ^ 16))])) ∧
  gives 12 (.linkStat blk) (2 ≤ a.toNat) (s.ends 2) ∧
  (∀ port width mode, port < 2 → width ∈ [16, 8, 4, 2, 1] → mode ∈ (if port = 0 then [0, 1] else [2, 3]) →
    (s.ports.getD port ⟨0, 0, 0⟩).width = 0 → s.power ≠ .off → exec (.linkTrained port width mode) s = .next
      { s with ports := s.ports.set port ⟨width, mode, (s.ports.getD port ⟨0, 0, 0⟩).retrains⟩, window := s.window || decide (port = 0) }) ∧
  (∀ port width p, s.ports.get? port = some p → width ∈ [16, 8, 4, 2, 1] → width < p.width → ∃ t, exec (.linkRetrain port width) s = .next t ∧
    t = { s with ports := t.ports, errs := t.errs } ∧ t.ports.get? port = some { p with width, retrains := min (p.retrains + 1) 65535 } ∧
    t.errRec 16 = { s.errRec 16 with link := min ((s.errRec 16).link + 1) 65535 }) ∧
  (∀ port p, s.ports.get? port = some p → p.width ≠ 0 → ∃ t, exec (.portDown port) s = .next t ∧
    t.ports.get? port = some { p with width := 0 } ∧ (port = 0 → t.atsReqs = []) ∧ t.mem = s.mem) ∧
  (∀ stream x, s.ide.get? stream = some x → ∃ t, exec (.ideIntegrityFailure stream) s = .next t ∧
    t.ide.get? stream = some { x with secure := false } ∧
    ∀ p y, s.pitches.get? p = some y → (t.pitches.get? p).map (·.tdi) =
      some (if p ∈ s.pitchesOf x.func ∧ (y.tdi = .locked ∨ y.tdi = .run) then .error else y.tdi))

/-- R373, R396, R413, R418, R471, R472: a host access of device memory reads and writes its bytes as they stand at the slices; a
write of its own memory stands there, and what a slice holds of it goes on reading as it did; an
AtomicOp returns the old value and leaves its result; a back-invalidation drops every copy of its line before its bytes change. The
mailbox answers discovery itself, rings the pinned queue for a request, and keeps one response until it is read or aborted.
Beside the rules it rests on readings and choices of the model: log entries 4, 15, 23, 81, 87 and 99. -/
def Obligations.HostTraffic : Prop := ∀ (s : State) (addr : BitVec 48),
  let a := addr.toNat
  let up (port : Nat) : Prop := (s.ports.getD port ⟨0, 0, 0⟩).width ≠ 0
  let at_ (x : Nat) : Byte := s.dramByte (s.sectorKey x) x
  let own (n : Nat) : Prop := ∀ j < n, ∀ l, s.msc.get? ((a + j) / 128) = some l → l.key = s.sectorKey (a + j)
  let writes (t : State) (n : Nat) (b : Nat → Byte) : Prop :=
    t.groups = s.groups ∧ ∀ x < s.dramSize, t.dramByte (s.sectorKey x) x = if a ≤ x ∧ x < a + n then b (x - a) else at_ x
  (∀ port (bs : List Byte), up port → a + bs.length ≤ s.dramSize → ∃ t, exec (.hostOrPeerAccess port addr bs.length (some bs)) s = .next t ∧
    writes t bs.length (fun j => bs.getD j 0)) ∧
  (∀ port n, up port → a + n ≤ s.dramSize → own n → ∃ t, exec (.hostOrPeerAccess port addr n none) s = .next t ∧
    t.reply = (List.range n).map (fun j => at_ (a + j)) ∧ t.mem = s.mem ∧ t.groups = s.groups) ∧
  (∀ port (bs : List Byte), up port → bs ≠ [] → ownRange port a bs.length = true → (∀ x ∈ s.msc, x.2.under.length = 128) →
    ∃ t, exec (.hostOrPeerAccess port addr bs.length (some bs)) s = .next t ∧ t.groups = s.groups ∧
      (∀ x, t.farByte x = if a ≤ x ∧ x < a + bs.length then bs.getD (x - a) 0 else s.farByte x) ∧
      ∀ x l, s.msc.get? (x / 128) = some l → t.byte x = s.byte x) ∧
  (∀ port n, up port → 0 < n → ownRange port a n = true → exec (.hostOrPeerAccess port addr n none) s =
    .next { s with reply := (List.range n).map fun j => s.farByte (a + j) }) ∧
  (∀ p < 16, ∀ q < 1024, ∀ v : W64, up 0 → a = 0x300000080000 + 8192 * p + 8 * q → (∀ x ∈ s.vfs, x.2 ≠ p) →
    exec (.hostOrPeerAccess 0 addr 8 (some (leBytes 8 v.toNat))) s = .next (s.doorbell (1024 * p + q) v)) ∧
  (up 0 → s.window = true → a = 0x300000000010 →
    exec (.hostOrPeerAccess 0 addr 8 none) s = .next { s with reply := leBytes 8 s.port.bootprog.toNat }) ∧
  (∀ op size (v cmp : BitVec 128), up 0 → op < 3 → size = 4 ∨ size = 8 ∨ size = 16 ∧ op = 2 → a % size = 0 → a + size ≤ s.dramSize →
    s.poisoned a = false → own size →
    let old := leNat ((List.range size).map fun j => at_ (a + j))
    let new := (if op = 0 then old + v.toNat else if op = 1 ∨ old = cmp.toNat % 2 ^ (8 * size) then v.toNat else old) % 2 ^ (8 * size)
    ∃ t, exec (.hostAtomic addr op size v cmp) s = .next t ∧ t.reply = leBytes size old ∧
      writes t size (fun j => BitVec.ofNat 8 (new / 2 ^ (8 * j)))) ∧
  (∀ data : List Byte, backInval a = true → a % 64 + data.length ≤ 64 → ∃ t, exec (.backInvalidation addr data) s = .next t ∧
    (∀ j < data.length, t.byte (a + j) = data.getD j 0) ∧ ∀ core < 96, t.l1.get? (t.lineKey core a) = none) ∧
  (∀ words : List W32, s.doeBusy = true →
    (doeKind words ≠ (1, 0) → exec (.doeRequest words) s = .next (s.doeWait words)) ∧
    (doeKind words = (1, 0) → exec (.doeDiscovery words) s = .next (s.doeWait words))) ∧
  (∀ words : List W32, s.doeBusy = false →
    (doeKind words ≠ (1, 0) → doeKind words ≠ (1, 1) ∨ 16 < words.length ∨ s.doeQueue = none →
      exec (.doeRequest words) s = .next { s with doe := { s.doe with error := true } }) ∧
    (∀ q r s1, doeKind words = (1, 1) → words.length ≤ 16 → s.doeQueue = some (q, r) →
      s.fwWrite r.pasid (BitVec.ofNat 64 (r.ring.toNat + 64 * (r.tail.toNat % 2 ^ r.log2n)))
        ((words.map fun w => leBytes 4 w.toNat).flatten ++ List.replicate (64 - 4 * words.length) 0) = (s1, true) →
      exec (.doeRequest words) s =
        .next (({ s1 with doe := { s1.doe with busy := true } } : State).doorbell q ((r.tail + 1).zeroExtend 64))) ∧
    (doeKind words = (1, 0) → exec (.doeDiscovery words) s = .next { s with doe := { s.doe with resp := some [1, 3,
      if (words.getD 2 0).toNat % 256 = 0 then 0x01000001 else if (words.getD 2 0).toNat % 256 = 1 then 0x00010001 else 0xFFFF] } })) ∧
  (∀ ws, s.doe.resp = some ws → exec .doeResponseRead s =
    .next { s with doe := { s.doe with resp := none }, reply := (ws.map fun w => leBytes 4 w.toNat).flatten }) ∧
  exec .doeAbort s = .next { s with doe := { s.doe with resp := none, drop := s.doe.busy } }

/-- R172, R386, R388, R415, R417: a fault is served in order of arrival and leaves the list; a page that moves leaves no translation
of where it was; an ATS answer is cached, asks for the page or fails its waiters, and a page response lets them replay or fail.
Beside the rules it rests on readings and choices of the model: log entries 9, 60 and 61. -/
def Obligations.PagesAndTranslations : Prop := ∀ (s : State),
  (∀ f fs, s.faults = f :: fs →
    let on (x : PageFault) : Prop := x.pasid = f.pasid ∧ x.va.toNat % 2 ^ 48 / 4096 = f.va.toNat % 2 ^ 48 / 4096
    let looks (c : PasidCtx) := s.translate 96 f.pasid c.pitch f.kind f.va
    (∀ leaf, ∃ t, exec (.pageFaultService leaf) s = .next t ∧ f ∉ t.faults) ∧
    (∀ leaf c e, s.pasids.get? f.pasid = some c → looks c = .ok e → ∃ t, exec (.pageFaultService leaf) s = .next t ∧ t.mem = s.mem ∧
      (∀ x, x ∈ t.faults ↔ x ∈ s.faults ∧ ¬ on x) ∧ ∀ x ∈ s.faults, on x → ∀ id a, x.waiter = .access id → s.accs.get? id = some a →
        a.phase = .logged → t.accs.get? id = some { a with phase := .ready }) ∧
    ∀ c k e, s.pasids.get? f.pasid = some c → looks c = .error (.page k) → s.absentEntry f.pasid f.va = some e → e.flashPend = false →
      (∀ leaf u, s.putLeaf f.pasid f.va leaf = u → ∃ t, exec (.pageFaultService (some leaf)) s = .next t ∧ t.mem = u.mem ∧
        ∀ id a, f.waiter = .access id → u.accs.get? id = some a → a.phase = .logged → t.accs.get? id = some { a with phase := .ready }) ∧
      (0x20 ≤ f.cause.toNat → f.cause.toNat < 0x30 → ∃ t, exec (.pageFaultService none) s = .next t ∧ t.mem = s.mem ∧
        ∀ core slot g, f.waiter = .group core slot → s.groups.get? (gid core slot) = some g → g.wait = .fetch →
          (t.groups.get? (gid core slot)).map (·.wait) = some (.failed f.cause f.va (BitVec.ofNat 64 f.kind)))) ∧
  (∀ pasid (va frame : BitVec 48) ctx e z at_, s.pasids.get? pasid = some ctx → s.walk ctx.root (va.signExtend 64) = .leaf e z at_ →
    frame.toNat % 2 ^ z = 0 → Pte.bad ((e &&& 0xFFFF000000000FFF) ||| frame.zeroExtend 64) ((z - 12) / 9 + 1) s.dramSize = false →
    targetOf (Pte.base e) ≠ .doorbell → targetOf frame.toNat ≠ .doorbell →
    ∃ t, exec (.pageMigration pasid va frame) s = .next t ∧
      (∀ x ∈ t.l1Tlb, tlbHits pasid (some (va.toNat / 2 ^ z * (2 ^ z / 4096), 2 ^ z / 4096)) x.1 x.2 = false) ∧
      (∀ x ∈ t.baseTlb, tlbHits pasid (some (va.toNat / 2 ^ z * (2 ^ z / 4096), 2 ^ z / 4096)) x.1 x.2 = false) ∧
      ∀ x ∈ t.faults, x ∈ s.faults ∧ ¬ (x.pasid = pasid ∧ x.va.toNat % 2 ^ 48 / 2 ^ z = va.toNat / 2 ^ z)) ∧
  (∀ pasid (va : BitVec 48) len, ∃ t, exec (.atsInvalidateRequest pasid va len) s = .next t ∧
    (∀ x ∈ t.l1Tlb, tlbHits pasid (if len = 0 then none else some (va.toNat / 4096, (len + 4095) / 4096)) x.1 x.2 = false) ∧
    ∀ x ∈ t.baseTlb, tlbHits pasid (if len = 0 then none else some (va.toNat / 4096, (len + 4095) / 4096)) x.1 x.2 = false) ∧
  ∀ req r, s.atsReqs.get? req = some r →
    let replays (t : State) : Prop := t.atsReqs.get? req = none ∧
      ∀ id a, Waiter.access id ∈ r.waiters → s.accs.get? id = some a → a.phase = .logged → t.accs.get? id = some { a with phase := .ready }
    let fails (t : State) : Prop := t.atsReqs.get? req = none ∧
      ∀ core slot g, Waiter.group core slot ∈ r.waiters → s.groups.get? (gid core slot) = some g → g.wait = .fetch →
        (t.groups.get? (gid core slot)).map (·.wait) = some (.failed 0x20 r.va (BitVec.ofNat 64 r.kind))
    (∀ page, r.pageRequest = false → s.isClosing r.pasid = false → ∃ t, exec (.atsTranslationCompletion req (some page)) s = .next t ∧
      replays t ∧ t.atsCache.get? (atsKey r.pasid r.va) = some page) ∧
    (∀ c, r.pageRequest = false → s.pasids.get? r.pasid = some c → c.closing = false → c.pri = true →
      ∃ t, exec (.atsTranslationCompletion req none) s = .next t ∧ t.atsReqs.get? req = some { r with pageRequest := true }) ∧
    (∀ c, r.pageRequest = false → s.pasids.get? r.pasid = some c → c.closing = false → c.pri = false →
      ∃ t, exec (.atsTranslationCompletion req none) s = .next t ∧ fails t) ∧
    (∀ entry, r.pageRequest = false → s.isClosing r.pasid = true → ∃ t, exec (.atsTranslationCompletion req entry) s = .next t ∧
      replays t ∧ t.atsCache = s.atsCache) ∧
    (∀ ok, r.pageRequest = true → ∃ t, exec (.pageRequestResponse req ok) s = .next t ∧
      if ok = true ∨ s.isClosing r.pasid = true then replays t else fails t)

/-- R325, R326, R438, R444, R448–R450, R455, R487: ERRREC_READ copies a record, and clears words 0 to 5 in the same step; FAULT_INJECT
plants, cancels or reads an injection; a rewritten sector is counted once; a failing channel is marked; a self-test returns or
retires its core; a core gates after 64 idle cycles and issues again after its wake; the device enters Idle when nothing runs.
Beside the rules it rests on readings and choices of the model: log entries 64, 74, 79 and 88. -/
def Obligations.ErrorsAndGating : Prop := ∀ (s : State) (blk : W64),
  let a := s.arg 0
  let b := s.arg 1
  (let n := field a 0 5
   let legal := field a 5 3 = 0 ∧ field a 9 55 = 0 ∧ n ≤ 16 ∧ b.toNat % 8 = 0 ∧ inSram b.toNat 128 = true
   s.onPort blk 16 = true → (¬ legal → exec (.errrecRead blk) s = .next (s.ends 2)) ∧
     (legal → ∃ t : State, exec (.errrecRead blk) s = .next ((t.polPut b.toNat (bytesOf (s.errWords n))).ends 0) ∧
       t = { s with errs := t.errs } ∧ (a.getLsbD 8 = false → t = s) ∧ (∀ m, m ≠ n → t.errRec m = s.errRec m) ∧
       (a.getLsbD 8 = true → ∀ j < 16, (t.errWords n).getD j 0 = if j < 6 then 0 else (s.errWords n).getD j 0))) ∧
  (let core := field a 0 7
   let mode := field a 31 2
   let nth := field b 24 16
   let cancel := a.getLsbD 33
   let query := a.getLsbD 34
   let legal := field a 35 29 = 0 ∧ field b 40 24 = 0 ∧ core < 96 ∧ field a 7 6 < 48 ∧ mode ≠ 3 ∧
     (mode = 0 → nth = 0 → cancel = true ∨ query = true)
   let owner := s.pitches.findBy (fun _ p => p.cores.getLsbD core)
   let opened := ∀ n p, owner = some (n, p) → p.tdi = .opened
   let debugs := s.dev3 = true ∨ ∃ n p, owner = some (n, p) ∧ 2 ≤ s.debugLevel n
   s.onPort blk 17 = true →
     (¬ legal → exec (.faultInject blk) s = .next (s.ends 2)) ∧
     (legal → ¬ opened → exec (.faultInject blk) s = .next (s.ends 0x1A0)) ∧
     (legal → opened → ¬ debugs → exec (.faultInject blk) s = .next (s.ends 0x1A1)) ∧
     (legal → opened → debugs →
       let planted : Inject := ⟨field a 7 6, field a 13 8, field a 21 5, field a 26 5, mode, some (field b 0 24), nth⟩
       let x := { s.core core with inject := if cancel then none else if query then (s.core core).inject else some planted }
       exec (.faultInject blk) s = .next ((s.setCore core x).finish 0 [(2, BitVec.ofNat 64 ((s.core core).firings % 2 ^ 16))]))) ∧
  (∀ sector n, 64 * sector < s.dramSize → s.poisoned (64 * sector) = false →
    n = (match s.keyTags.get? sector with | some t => s.keyOwner t.idx | none => 16) →
    ∃ t, exec (.eccSectorRewrite sector) s = .next t ∧ t = { s with errs := t.errs } ∧
      t.errRec n = { s.errRec n with ce := min ((s.errRec n).ce + 1) 65535 } ∧ ∀ m, m ≠ n → t.errRec m = s.errRec m) ∧
  (∀ ch last, ch < 32 → s.retCh.getLsbD ch = false → s.failCh.getLsbD ch = false →
    (∃ x ∈ s.ueLog, s.channelOf (64 * x.1) = ch ∧ x.2 = last) → (∀ x ∈ s.ueLog, s.channelOf (64 * x.1) = ch → x.2 ≤ last) →
    (16 < (s.ueLog.filter fun x => s.channelOf (64 * x.1) == ch && decide (last ≤ x.2 + 1000000000)).length →
      ∃ t, exec (.channelFailing ch) s = .next t ∧ t.failCh = s.failCh ||| (1#32 <<< ch)) ∧
    ((s.ueLog.filter fun x => s.channelOf (64 * x.1) == ch && decide (last ≤ x.2 + 1000000000)).length ≤ 16 →
      exec (.channelFailing ch) s = .fault .notEnabled)) ∧
  (∀ core < 96, (s.core core).outOfService = true → (s.core core).dead = false →
    (∃ t, exec (.selftestDone core true) s = .next t ∧ t.core core = { s.core core with outOfService := false } ∧
      (∀ n, n ≠ core → t.core n = s.core n) ∧ ∀ k l, t.layers.get? k = some l → core ∉ l.waitOn) ∧
    ∃ t, exec (.selftestDone core false) s = .next t ∧ (t.core core).dead = true ∧ (t.core core).outOfService = true ∧
      (t.errRec 16).retired.getLsbD core = true ∧ (t.errRec (s.coreOwner core)).retired.getLsbD core = true) ∧
  (∀ core < 96, (s.core core).gated = false → 64 ≤ (s.core core).idle →
    ∃ t, exec (.coreGate core) s = .next t ∧ t = { s with cores := t.cores } ∧ (∀ n, n ≠ core → t.core n = s.core n) ∧
      t.core core = { s.core core with gated := true, waking := false, ready := 0, woken := false,
                                       wakeReason := (s.core core).wakeReason + 2 ^ 32 }) ∧
  (∀ core, (s.core core).gated = true → (s.core core).waking = true → ∃ t, exec (.coreWakeComplete core) s = .next t ∧
    t = { s with cores := t.cores } ∧ (∀ n, n ≠ core → t.core n = s.core n) ∧ t.core core = { s.core core with gated := false, idle := 0 }) ∧
  (s.power = .run → (∀ c < 96, (s.core c).gated = true ∧ (s.core c).waking = false) → s.copies = [] →
    (∀ x ∈ s.slots, x.2.running = false ∧ s.queueReady x.2.queue = false) → (∀ x ∈ s.wgs, ∀ m ∈ x.2.mqueue, m.running = false) →
    exec .idleEntry s = .next { s with power := .idle })

/-- R20, R21, R70, R153, R357–R366, R452: a write of a core's slot status clears its COUNT. An accepted launch request becomes a
launch with a record of its own, its priority clamped and a SLACK of 0 read as 16; a refused one gets its records and its verdict. A
bind record is refused with its reason, which is counted, or fills its slots. The workgroup whose slice is over, and the one that
stands in the way of a higher priority, is asked to stop, with its neighbourhood or pair; at its boundaries it is saved, and placement
goes first to what it gave way to. An ended group frees its slot, the last one its workgroup; a workgroup's record is written once it
may be; an audit's replay ends with its verdict.
Beside the rules it rests on readings and choices of the model: log entries 20, 21, 59, 62, 63, 64, 65, 102 and 103. -/
def Obligations.LaunchesAndSlots : Prop := ∀ (s : State),
  (∀ core < 96, ∃ t, exec (.slotStatusWrite core) s = .next t ∧ t = { s with cores := t.cores } ∧
    t.core core = { s.core core with slotStatus := (s.core core).slotStatus &&& 0xFF } ∧ ∀ n, n ≠ core → t.core n = s.core n) ∧
  (∀ core entry, (core, entry) ∈ s.binds →
    let s1 := { s with binds := s.binds.filter (· ≠ (core, entry)) }
    let r := s1.bindRec core entry
    let held : Prop := ∃ j < r.ngroups, (s.groups.get? (gid core (r.slot + j))).isSome = true
    (s.coreServes r.pitch core = false → s1.bindReason core r = some 0) ∧
    (s.coreServes r.pitch core = true → held → s1.bindReason core r = some 1) ∧
    (s.coreServes r.pitch core = true → ¬ held → r.role = 3 → r.partner ≠ 0x7F → s1.bindReason core r = some 3) ∧
    (∀ reason, s1.bindReason core r = some reason → exec (.bindRecord core entry) s = .next (s1.refuse core entry r reason) ∧
      (r.role = 3 → let t := s1.refuse core entry r reason
        t.mem = (s1.clearValid core entry).mem ∧ t.groups = s.groups ∧ t.wgs = s.wgs ∧ t.binds = s1.binds ∧
        (t.core core).slotStatus = BitVec.ofNat 64 (r.slot % 64 + reason * 2 ^ 6 + min 255 ((s.core core).slotStatus.toNat / 2 ^ 8 % 2 ^ 8 + 1) * 2 ^ 8))) ∧
    ∀ s2 id l b, s1.bindReason core r = none → s1.launchAt r.launch r.pitch = (s2, .some id) → s2.launches.get? id = some l → l.node = none →
      r.role = 0 →
      let m := r.wgid - r.nbhid * l.desc.w * l.desc.h
      l.wgidOf r.nbhid m = r.wgid → m < l.desc.w * l.desc.h → r.nbhid < gridSize l.req →
      ((s2.pitches.get? r.pitch).bind fun p =>
        lowestFit p.reserved p.saveBase (p.saveBase + p.saveLen) (Wg.make l 0 0 core m 0 0 r).saveSize) = some b →
      ∃ t u w, exec (.bindRecord core entry) s = .next t ∧ t.wgs.get? u = some w ∧ w.phase = .resident ∧ w.core = core ∧
        w.slot = r.slot ∧ w.wgid = r.wgid ∧ w.pitch = r.pitch ∧ w.saveAt = b ∧ w.desc = l.desc ∧
        ∀ j < r.ngroups, ∃ g, t.groups.get? (gid core (r.slot + j)) = some g ∧ g.wg = u ∧ g.gi = j ∧ g.ofs = l.desc.entry) ∧
  (∀ r rs, s.requests = r :: rs →
    (∀ s1 d, s.judge r = (s1, .accepted d) → ∃ (t : State) (id : Nat) (l : Launch), exec .launchRequest s = .next (t.place r.pitch) ∧
      t.requests = rs ∧ t.launches.get? id = some l ∧ l.pitch = r.pitch ∧ l.pasid = r.pasid ∧ l.desc = d ∧ l.node = r.node ∧
      l.done = false ∧ l.stopped = false ∧ l.pending = List.range (gridSize l.req) ∧ l.frame.isSome = true ∧
      (∀ n, n ≠ 4 → l.req.getD n 0 = r.words.getD n 0) ∧
      (4 < r.words.length → (∀ p, s1.pitches.get? r.pitch = some p → p.prioLo < 128 ∧ p.prioHi < 128) →
        l.prio = s1.clampPrio r.pitch (field (r.words.getD 4 0) 0 7) ∧
        l.slack = (if field (r.words.getD 4 0) 8 7 = 0 then 16 else field (r.words.getD 4 0) 8 7) ∧
        ∀ n, ¬ (n < 7 ∨ (8 ≤ n ∧ n < 15)) → (l.req.getD 4 0).getLsbD n = (r.words.getD 4 0).getLsbD n) ∧
      ∀ k q, r.hw = some k → s1.slots.get? k = some q → q.asked = true →
        t.slots.get? k = some { q with verdict := some 0, waiting := false }) ∧
    (r.node = none → requestOk r.words = false → s.judge r = (s, .refused 0xA7)) ∧
    (∀ s1 s2 cause, s.judge r = (s1, .refused cause) → r.node.isSome = true →
      s1.refuseRecords (Launch.make r.words r.pitch r.pasid default 0 r.node) cause = (s2, true) →
      ∃ t id l, exec .launchRequest s = .next t ∧ t.requests = rs ∧ t.mem = s2.mem ∧ t.launches.get? id = some l ∧ l.node = r.node ∧
        l.done = true ∧ l.pending = []) ∧
    ∀ s1 s2 s3 cause, s.judge r = (s1, .refused cause) → r.node = none →
      s1.writeRecord r.pasid ((Launch.make r.words r.pitch r.pasid default 0 none).complOf 0 0)
        ([BitVec.ofNat 64 (3 + cause.toNat * 2 ^ 8), 0, BitVec.ofNat 64 (0x7F * 2 ^ 32), BitVec.ofNat 64 s1.time] ++ List.replicate 12 0) = (s2, true) →
      s2.signalLaunch r.pasid r.words = (s3, true) →
      exec .launchRequest s = .next ({ s3 with requests := rs }.answer r.hw (BitVec.ofNat 64 (0x100 + cause.toNat)))) ∧
  (∀ u w, s.wgs.get? u = some w →
    let asks (i : Instr) : Prop := exec i s = .next (s.askPreempt u) ∧ (u ∈ s.preemptSet u → w.preempt = false →
      ((s.askPreempt u).wgs.get? u).map (·.preempt) = some true)
    let items := s.savedItems w.pitch ++ s.pendingItems w.pitch
    (w.preempt = false → w.phase = .resident → s.sliceVictim w.pitch = some u → asks (.wgsliceExpiry u)) ∧
    (Tab.sorted s.wgs = true → s.sliceVictim w.pitch = some u → w.phase = .resident ∧ (∃ x ∈ items, x.1 = w.prio) ∧
      ∃ l, s.launches.get? w.launch = some l ∧ 0 < l.slice ∧ w.since + l.slice ≤ s.time) ∧
    (w.preempt = false → w.phase = .resident → s.victim w.pitch = some u → asks (.preemptWorkgroup u)) ∧
    (Tab.sorted s.wgs = true → s.victim w.pitch = some u → w.phase = .resident ∧ ∃ x ∈ items, w.prio < x.1) ∧
    (s.canSave u w = true → Tab.sorted s.wgs = true →
      let s1 := s.saveWg u w
      (∃ first, exec (.preemptWorkgroup u) s = .next ((s1.placeSome w.pitch (s.preemptSet u) first).place w.pitch) ∧
        ∀ p, first p = true ↔ w.prio < p ∨ (p = w.prio ∧ s.sliceOver w = true)) ∧
      (s1.wgs.get? u).map (·.phase) = some .saved ∧ ∀ k g, s1.groups.get? k = some g → g.wg ≠ u) ∧
    (∀ l s1, s.recordReady u w = true → s.launches.get? w.launch = some l → s.pairOf u = none → l.node = none → l.desc.auditable = false →
      l.stopped = false → l.recorded + 1 < l.total →
      (s.release w.core 3).writeRecord w.pasid (l.complOf w.nbhid w.wgid) ((s.release w.core 3).record u w false) = (s1, true) →
      s1.wgs.get? u = some w → s1.launches = s.launches → s1.pairOf u = none → ∃ t, exec (.completionRecord u) s = .next t ∧
        t.wgs.get? u = some { w with phase := .recorded } ∧ ∃ n, t.launches.get? w.launch = some { l with recorded := l.recorded + 1, ended := n }) ∧
    (s.pairOf u = none →
      let r := s.record u w false
      r.length = 16 ∧ r.getD 2 0 = BitVec.ofNat 64 (w.wgid % 2 ^ 32 + w.core * 2 ^ 32) ∧ r.getD 3 0 = BitVec.ofNat 64 w.endTime ∧
      (∀ k, (r.getD 0 0).getLsbD k = if k = 0 then true else if k = 1 then w.failed else if k = 2 then w.poisoned else if k = 3 then w.meshOvf
        else if k = 5 then w.selfcheck else decide (8 ≤ k) && w.cause.getLsbD (k - 8)) ∧
      ∀ i < 8, r.getD (8 + i) 0 = ((w.trap.map (·.words)).getD []).getD i 0)) ∧
  (∀ core slot g, s.groups.get? (gid core slot) = some g → slot < 64 → g.ended = true → s.groupIdle g.wg g.gi = true →
    (∀ k p lead, s.pairOf g.wg = some (k, p, lead) → s.pairEnded p = true ∨
      ((s.groupsOf g.wg).length ≠ 1 ∧ ∀ x ∈ (p.role lead).saved, x.gi ≠ g.gi)) →
    let freed (t : State) : Prop :=
      t.groups.get? (gid core slot) = none ∧ (∀ k, k ≠ gid core slot → t.groups.get? k = s.groups.get? k) ∧
      t.copies = s.copies ∧ t.accs = s.accs ∧ t.pitches = s.pitches ∧ ∀ u w, s.wgs.get? u = some w →
        t.wgs.get? u = some (if u = g.wg then { w with poisoned := w.poisoned || g.chk.poison } else w)
    ((s.groupsOf g.wg).length ≠ 1 → ∃ t, exec (.groupSlotRelease core slot) s = .next t ∧ freed t) ∧
    ((s.groupsOf g.wg).length = 1 → (∀ w, s.wgs.get? g.wg = some w → w.mqueue = []) → ∃ t : State,
      exec (.groupSlotRelease core slot) s = .next (t.endWg g.wg) ∧ freed t)) ∧
  ∀ a o r wo wr l, s.replays.get? a = some (o, r) → s.wgs.get? o = some wo → s.wgs.get? r = some wr → wr.phase = .ended →
    s.launches.get? wo.launch = some l → l.recorded < l.total →
    let sig (u : Nat) : W64 := ((s.audits.get? u).map (·.sig)).getD 0
    (sig o = sig r ∨ wr.failed = true ∨ wr.poisoned = true → exec (.auditVerdict a) s = .next { s with
      replays := s.replays.del a, wgs := s.wgs.set r { wr with phase := .recorded },
      launches := s.launches.set wo.launch { l with audits := l.audits - 1 } }) ∧
    ∀ s1 bs s2, sig o ≠ sig r → wr.failed = false → wr.poisoned = false → s.fwRead wo.pasid (l.complOf wo.nbhid wo.wgid) 8 = .ok s1 bs →
      s.fwWrite wo.pasid (l.complOf wo.nbhid wo.wgid) (leBytes 8 (BitVec.ofNat 64 (leNat bs) ||| 16 : W64).toNat) = (s2, true) →
      s2.launches = s.launches → ∃ t, exec (.auditVerdict a) s = .next t ∧ t.replays.get? a = none ∧
        ((t.core wo.core).outOfService = true ∨ (t.core wo.core).dead = true)

/-- R459–R468: GRAPH_SET takes a graph whose node descriptors are in order; the dispatcher makes one launch of up to BATCH published
records of a node and counts them dispatched; a mesh output handed over is rasterised into its target, or fails with LAUNCH_ARG.
Beside the rules it rests on readings and choices of the model: log entries 26, 27 and 82. -/
def Obligations.GraphsAndRaster : Prop := ∀ (s : State) (blk : W64),
  (let a := s.arg 0
   let at_ := (s.arg 1).toNat
   let count := field a 8 5 + 1
   let nodes := (List.range count).map fun i => wordsOf (s.polBytes (at_ + 64 * i) 64)
   let pitch := field a 16 4
   let open_ := s.isOpen pitch = true ∧ ∀ g, s.graphs.get? (field a 0 4) = some g → s.isOpen g.pitch = true
   let legal := field a 5 3 = 0 ∧ field a 13 3 = 0 ∧ field a 20 44 = 0 ∧ at_ % 8 = 0 ∧ inSram at_ (64 * count) = true ∧
     (s.pitches.get? pitch).isSome ∧ nodes.all nodeClean = true ∧
     (a.getLsbD 4 = true → s.buffersShared (field a 0 4) pitch nodes = false)
   s.onPort blk 18 = true → (¬ open_ → exec (.graphSet blk) s = .next (s.ends 0x1A0)) ∧
     (open_ → ¬ legal → exec (.graphSet blk) s = .next (s.ends 2)) ∧
     (∀ s1, open_ → legal → s.nodesFit (s.graphPasid pitch) nodes = .ok s1 false → exec (.graphSet blk) s = .next (s1.ends 2)) ∧
     ∀ s1, open_ → legal → s.nodesFit (s.graphPasid pitch) nodes = .ok s1 true → ∃ (t : State) (g : Graph), exec (.graphSet blk) s = .next (t.ends 0) ∧
       t.graphs.get? (field a 0 4) = some g ∧ g.enabled = a.getLsbD 4 ∧ g.pitch = pitch ∧ g.nodes = nodes) ∧
  (∀ pitch graph node g p s1 k, s.graphs.get? graph = some g → s.pitches.get? pitch = some p →
    let n := g.nodes.getD node []
    let d := g.dispatched.getD node 0
    g.enabled = true → g.pitch = pitch → n ≠ [] → s.boot.pc = serviceLoop → p.removing = false → s.port.wait ≠ .standby →
    p.tdi = .opened ∨ p.tdi = .run → (∀ x ∈ s.launches, x.2.stopped = true → x.2.node.map (fun y => (y.1, y.2.1)) ≠ some (graph, node)) →
    s.published (s.graphPasid pitch) (n.getD 2 0) (max 1 (field (n.getD 5 0) 0 8)) d = (s1, k) →
    (k = 0 → exec (.recordDispatch pitch graph node) s = .next s1) ∧
    ∀ s2, 0 < k → s1.fwWrite (s.graphPasid pitch) (BitVec.ofNat 64 ((nodeRange n).1 + 0x80)) (leBytes 8 (d + k)) = (s2, true) →
      s2.requests = s.requests → ∃ t r, exec (.recordDispatch pitch graph node) s = .next t ∧ t.requests = s.requests ++ [r] ∧
        r.node = some (graph, node, d, k) ∧ r.pitch = pitch ∧ r.pasid = s.graphPasid pitch ∧ r.hw = none ∧
        r.words = [n.getD 0 0, n.getD 1 0, n.getD 2 0, BitVec.ofNat 64 (k + 2 ^ 16 + 2 ^ 32),
          BitVec.ofNat 64 (field (n.getD 3 0) 48 7 + field (n.getD 3 0) 55 2 * 2 ^ 15), BitVec.ofNat 64 (field (n.getD 3 0) 0 48), 0, 0] ∧
        t.graphs.get? graph = some { g with dispatched := g.dispatched.set node (d + k) }) ∧
  (s.outputs ≠ [] → ∃ u w, (u, w) ∈ s.outputs ∧ ∀ g y n r, s.meshRecord w = some (g, n, r) → s.graphs.get? g = some y →
    let target := field ((y.nodes.getD n []).getD 4 0) 0 48
    let fails (x : State) : Prop := exec .rasteriseOutput s =
      .next { x with wgs := x.wgs.modify u fun w => { w with rastered := true, failed := true, cause := 0xA7 } }
    (target % 64 ≠ 0 → fails s) ∧
    (∀ x, target % 64 = 0 → s.fwPlaces w.pasid 0 (BitVec.ofNat 64 target) 64 = .fail x → fails x) ∧
    ∀ x ps, target % 64 = 0 → s.fwPlaces w.pasid 0 (BitVec.ofNat 64 target) 64 = .ok x ps →
      let desc := wordsOf (ps.map fun p => x.readPlace 96 2 p)
      let lies : Prop := ∀ p ∈ ps, ∃ key ca a, p = .mem key ca a ∧ targetOf a = .dram
      (rtargetOf desc = none ∨ ¬ lies → fails x) ∧
      ∀ t z, rtargetOf desc = some t → lies →
        x.putEntries w.pasid t (t.entries w (w.committed.getD (0, 0)).1 (w.committed.getD (0, 0)).2) = (z, true) →
        exec .rasteriseOutput s = .next { z with wgs := z.wgs.modify u fun w => { w with rastered := true } })

/-- R168, R330, R341–R346: CKPT has no effect where its launch is not redundant, and waits for the log; in a pair the lead waits for
its own stores and updates and asks for a checkpoint, and the sweep goes on. An entry that both roles made alike is performed once and
leaves both; one that differs, or has no counterpart for 100 µs, rolls the pair back to its recorded groups and scratchpad bytes, or,
where it has rolled back or committed already, ends it with RED_RETRY_FAIL; a checkpoint of a pair at rest records both roles.
Beside the rules it rests on readings and choices of the model: log entries 22 and 32. -/
def Obligations.RedundantPairs : Prop := ∀ (s : State),
  (∀ w c, (s.Issues (.ckpt w) c → s.hasLog c.g.wg c.g.gi = false → s.Passes (.ckpt w) c) ∧
    (s.Reaches (.ckpt w) c → s.hasLog c.g.wg c.g.gi = true → s.Waits (.ckpt w))) ∧
  (∀ (r : RedRole) w, s.wgs.get? r.wg = some w → r.saved.Pairwise (fun a b => a.gi ≠ b.gi) →
    (∀ g ∈ r.saved, g.wg = r.wg) → r.journal.Pairwise (fun a b => a.1 + a.2.length ≤ b.1 ∨ b.1 + b.2.length ≤ a.1) →
    let t := (s.restoreRole r).1
    (∀ g ∈ r.saved, ∃ h, t.groups.get? (w.gid g.gi) = some h ∧ h = { g with stamp := h.stamp, stop := h.stop }) ∧
    (∀ k h, t.groups.get? k = some h → h.wg = r.wg → ∃ g ∈ r.saved, k = w.gid g.gi) ∧
    ∀ x ∈ r.journal, ∀ j < x.2.length, t.scrByte w.core (s.pitchKey w.pitch) (x.1 + j) = x.2.getD j 0) ∧
  ∀ k p, s.pairs.get? k = some p →
    (∀ w c lead, s.ctx? (Instr.ckpt w).congruent = some c → c.wordCause s (.ckpt w) = none →
      (wordSpans (.ckpt w)).any c.g.isPending = false → s.aheadOfLead c.g = false → (s.core c.core).inject = none →
      c.g.ofs.toNat + 1 < c.w.desc.len → s.hasLog c.g.wg c.g.gi = false → s.pairOf c.g.wg = some (k, p, lead) →
      Tab.sorted s.pairs = true →
      let busy : Prop := (∃ e ∈ p.lead.entries, e.stream = c.g.gi) ∨ ∃ x ∈ s.accsOf c.g.wg c.g.gi, x.2.isUpdate = true ∨ x.2.kind = 1
      (lead = true → busy → s.Waits (.ckpt w)) ∧
      (lead = false ∨ ¬ busy → ∃ t q, exec (.ckpt w) s = .next t ∧ t.mem = s.mem ∧ t.accs = s.accs ∧
        t.groups.get? c.k = some (c.g.behind (.ckpt w) c.plane s.stepNo) ∧ t.pairs.get? k = some q ∧
        q.ckpt = (p.ckpt || lead) ∧ q.lead.entries = p.lead.entries ∧ q.sweep.entries = p.sweep.entries)) ∧
    let both := p.lead.entries.filterMap fun e => (p.sweep.twin e).map fun f => (e, f)
    let rolls (i : Instr) (cause : BitVec 8) (e : Entry) : Prop := exec i s = .next (s.rollback k p cause e.ofs e.plane)
    (∀ cause ofs plane, p.mustRoll = some (cause, ofs, plane) → exec (.compareEntry k) s = .next (s.rollback k p cause ofs plane)) ∧
    (∀ e f rest, p.mustRoll = none → both = (e, f) :: rest → e.sig ≠ f.sig → rolls (.compareEntry k) 0x80 e) ∧
    (∀ e f rest, p.mustRoll = none → both = (e, f) :: rest → e.sig = f.sig → (2 ≤ e.kind → e.kind ≤ 5 → p.settled = true) →
      (∀ a, e.act ≠ .trap a) → s.drainWaits p e = none → exec (.compareEntry k) s = .next (s.performMatch k p e f) ∧
      ∀ a o a2 o2, e.kind < 2 → e.act = .access a o → f.act = .access a2 o2 → a.isUpdate = true → a.relScope = none → (s.wgs.get? a.wg).isSome →
        s.performMatch k p e f = { s.setPair k { p with lead := p.lead.take e, sweep := p.sweep.take e } with
          accs := s.accs.set o { a with mirror := some (p.sweep.wg, o2) } }) ∧
    (∀ e, p.lead.entries.find? (fun e => (p.sweep.twin e).isNone && decide (e.time + 100000 ≤ s.time)) = some e →
      rolls (.redSlackTimeout k) 0x83 e) ∧
    (∀ e, (∀ e ∈ p.lead.entries, (p.sweep.twin e).isSome = true ∨ s.time < e.time + 100000) →
      p.sweep.entries.find? (fun e => (p.lead.twin e).isNone && decide (e.time + 100000 ≤ s.time)) = some e →
      rolls (.redSlackTimeout k) 0x83 e) ∧
    ((∀ e ∈ p.lead.entries, (p.sweep.twin e).isSome) → (∀ e ∈ p.sweep.entries, (p.lead.twin e).isSome) →
      exec (.redSlackTimeout k) s = .fault .notEnabled) ∧
    (∀ cause ofs plane, p.rolled = false → p.committed = false → ∃ p', (s.rollback k p cause ofs plane).pairs.get? k = some p' ∧
      p'.rolled = true ∧ p'.lastCause = cause ∧ p'.lastOfs = ofs ∧ p'.rollbacks = min 255 (p.rollbacks + 1) ∧ p'.lead.saved = p.lead.saved ∧
      ((s.wgs.get? p.lead.wg).isSome → p'.lead.entries = [] ∧ p'.lead.journal = []) ∧
      ((s.wgs.get? p.sweep.wg).isSome → p'.sweep.entries = [] ∧ p'.sweep.journal = [])) ∧
    (∀ cause ofs plane, p.rolled = true ∨ p.committed = true → (∃ p', (s.rollback k p cause ofs plane).pairs.get? k = some p' ∧
      p'.failed = true ∧ p'.lead.entries = [] ∧ p'.sweep.entries = []) ∧
      ∀ u w, u = p.lead.wg ∨ u = p.sweep.wg → s.wgs.get? u = some w → ∃ w', (s.rollback k p cause ofs plane).wgs.get? u = some w' ∧
        w'.failed = true ∧ w'.cause = 0x82) ∧
    (p.ckpt = true → p.due = [] → p.mustRoll = none → s.atRest p.lead = true → s.atRest p.sweep = true → p.level = true →
      Tab.sorted s.groups = true → ∃ t p', exec (.checkpoint k) s = .next t ∧ t.pairs.get? k = some p' ∧ p'.ckpt = false ∧ p'.rolled = false ∧ p'.committed = false ∧
        p'.places = [] ∧ p'.dbg = [] ∧ p'.lead.journal = [] ∧ p'.sweep.journal = [] ∧
        ∀ x ∈ s.groups, x.2.ended = false →
          (x.2.wg = p.lead.wg → ∃ g ∈ p'.lead.saved, g = { x.2 with wait := .none, todo := none, ckptPtr := g.ckptPtr }) ∧
          (x.2.wg = p.sweep.wg → ∃ g ∈ p'.sweep.saved, g = { x.2 with wait := .none, todo := none, ckptPtr := g.ckptPtr }))

/-- R426–R430, R434, R437, R440, R443, R456: the display's commands check their records, leave what takes effect at the next frame
start, and zero the status record; LANTERN_SHOW arms Lantern's own pipe; a sensor that falls silent sets STALL; a failed pipe
retires, and the lowest free one takes over its surface and FRAME.
Beside the rules it rests on readings and choices of the model: log entries 24, 82 and 83. -/
def Obligations.DisplayCommands : Prop := ∀ (s : State) (blk : W64),
  let a := (s.arg 0).toNat
  (let pipe := a / 4 % 4
   let enable := a / 16 % 2 == 1
   ∀ ws, s.onPort blk 13 = true → s.displayRecord 16 = some ws →
     let w0 := ws.getD 0 0
     let w1 := ws.getD 1 0
     let c : SurfCfg := ⟨pipe, enable, field w0 0 16, field w0 16 16, field w0 32 16, field w1 0 32, w1.getLsbD 32⟩
     let legal := a < 32 ∧ field w0 48 16 = 0 ∧ field w1 33 31 = 0 ∧ 64 ≤ c.w ∧ c.w ≤ 7680 ∧ 64 ≤ c.h ∧ c.h ≤ 4320 ∧ c.w % 4 = 0 ∧
       c.h % 4 = 0 ∧ c.h + 8 ≤ c.vtotal ∧ 2000000 ≤ c.period ∧ c.period ≤ 1000000000 ∧
       (enable = true → ∀ x ∈ s.surfaces, x.1 ≠ a % 4 → x.2.conf.enable = true → x.2.conf.pipe ≠ pipe)
     (¬ legal → exec (.surfSet blk) s = .next (s.ends 2)) ∧
     let sets := s.surfaces.set (a % 4) ⟨((s.surfaces.get? (a % 4)).map (·.cur)).getD SurfCfg.none, some c⟩
     (legal → (∀ p < 4, (s.pipe p).failed = false) →
       exec (.surfSet blk) s = .next (({ s with surfaces := sets }.pipeRecZero pipe).ends 0))) ∧
  (∀ w c p sf, s.onPort blk 14 = true → s.displayRecord 64 = some w → s.pasids.get? (lPasid w) = some c → c.pitch = p →
    s.surfaces.get? (a % 4) = some sf →
    let k := 16 * (a % 4) + a / 16 % 16
    let legal := s.arg 0 &&& 0xF3 = s.arg 0 ∧ layerClean w = true ∧ lX w + lW w ≤ sf.conf.w ∧ lY w + lH w ≤ sf.conf.h ∧
      (s.pitches.get? p).isSome ∧ (lSafe w = true → s.safetyFits w p = true) ∧ s.coversSafety k w = false
    (s.isOpen p = false → exec (.layerSet blk) s = .next (s.ends 0x1A0)) ∧
    (s.isOpen p = true → ¬ legal → exec (.layerSet blk) s = .next (s.ends 2)) ∧
    let old := s.layers.getD k (Layer.fresh [] p)
    (s.isOpen p = true → legal → exec (.layerSet blk) s =
      .next (((s.setLayer k { old with next := some (w, p) }).polPut (0x081FE000 + 64 * k) (List.replicate 64 0)).ends 0))) ∧
  (∀ w n sf, s.onPort blk 15 = true → s.displayRecord 128 = some w →
    s.surfaces.findBy (fun _ x => x.conf.enable && x.conf.pipe == a) = some (n, sf) →
    let lead := field (w.getD 1 0) 20 12
    let legal := a < 4 ∧ field (w.getD 0 0) 48 16 = 0 ∧ field (w.getD 1 0) 33 31 = 0 ∧ field (w.getD 11 0) 48 16 = 0 ∧
      (∀ x ∈ w.drop 12, x = 0) ∧ (w.getD 0 0).toNat % 32 = 0 ∧ (w.getD 11 0).toNat % 8 = 0 ∧ 64 ≤ lead ∧ lead < sf.conf.vtotal ∧ sf.conf.h % 4 = 0
    (¬ legal → exec (.hudSet blk) s = .next (s.ends 2)) ∧
    (legal → exec (.hudSet blk) s = .next (((s.setPipe a { s.pipe a with hudNext := some w }).pipeRecZero a).ends 0))) ∧
  (s.onPort blk 4 = true → s.lanternPipe = none → exec (.lanternShow blk) s = .next (s.ends 5)) ∧
  (∀ p, s.onPort blk 4 = true → s.lanternPipe = some p →
    (s.arg 0 ≠ BitVec.ofNat 64 p ∨ 2 ≤ (s.arg 1).toNat → exec (.lanternShow blk) s = .next (s.ends 2)) ∧
    (s.arg 0 = BitVec.ofNat 64 p → s.arg 1 = 0 →
      exec (.lanternShow blk) s = .next ((s.setPipe p { s.pipe p with routeNext := false }).ends 0)) ∧
    (s.arg 0 = BitVec.ofNat 64 p → s.arg 1 = 1 →
      exec (.lanternShow blk) s = .next ((s.setPipe p { s.pipe p with routeNext := true, showAt := s.time }).ends 0))) ∧
  exec .cameraFrame s = .next { s with camFrame := s.camFrame + 1, camTime := s.time } ∧
  (∀ p, (s.pipe p).route = true → (s.pipe p).stall = false →
    (if s.camFrame = 0 then 0 else s.camTime) + 100000000 ≤ s.time → (s.pipe p).showAt + 100000000 ≤ s.time →
    exec (.lanternStall p) s = .next ((s.setPipe p { s.pipe p with stall := true }).pipeRec p)) ∧
  ∀ p < 4, (s.pipe p).failed = false → ∃ t, exec (.pipeFailover p) s = .next t ∧ t.retPipe = s.retPipe ||| (1#4 <<< p) ∧
    (t.pipe p).failed = true ∧ ∀ n sf q, (∀ r < 4, (s.pipe r).failed = false) → s.surfaces.get? n = some sf → sf.cur.enable = true →
      sf.cur.pipe = p → s.freePipe = some q → (t.pipe q).frame = (s.pipe p).frame ∧ (t.pipe q).failed = false ∧
        ∃ y, t.surfaces.get? n = some y ∧ y.cur = { sf.cur with pipe := q }

/-- R422–R424, R427, R431–R434, R438, R441: FRAME advances once a period and what was accepted takes effect there; a tile's signature
is R431's sums of its pixels, and two that differ count a mismatch, name the suspects and arm substitution, as a row without a
matching pair does at its deadline; a latch takes the pose of an even SEQ, and else counts a skip.
Beside the rules it rests on readings and choices of the model: log entries 12, 83 and 84. -/
def Obligations.DisplayFrames : Prop := ∀ (s : State),
  (∀ p < 4, (∀ r < 4, (s.pipe r).failed = false) → Tab.sorted s.surfaces = true →
    let s1 := (s.endFrame p).applyConfig p
    ∀ start, (∀ per vt, (s.pipe p).tm = some (per, vt) → (s.pipe p).startAt + per ≤ s.time ∧ start = (s.pipe p).startAt + per) →
      ((s.pipe p).tm = none → s.wouldRun p = true ∧ start = s.time) →
      ∃ t, exec (.frameStart p) s = .next t ∧
        (∀ tm, s1.timing p = some tm → (t.pipe p).frame = (s.pipe p).frame + 1 ∧ (t.pipe p).startAt = start ∧ (t.pipe p).tm = some tm) ∧
        (s1.timing p = none → (t.pipe p).tm = none ∧ (t.pipe p).frame = (s.pipe p).frame) ∧
        (t.pipe p).latched = [] ∧ (t.pipe p).route = (s.pipe p).routeNext ∧
        ∀ n sf c, s.surfaces.get? n = some sf → sf.next = some c → (if sf.cur.enable then sf.cur.pipe = p else c.pipe = p) →
          t.surfaces.get? n = some ⟨c, none⟩) ∧
  (∀ sf, (s.pipe (s.pipeOf sf)).tm.isSome → ∃ t, exec (.signaturePoll sf) s = .next t ∧ t.pipes = s.pipes) ∧
  (∀ k l frame t b s1 bs, l.watches b = true → (if b then (l.tiles.getD t .start).readyB else (l.tiles.getD t .start).readyA) = false →
    s.fwRead (lPasid l.words) (lDone l.words b + BitVec.ofNat 64 (8 * t)) 8 = .ok s1 bs →
    s.pollTile k l frame t b =
      if leNat bs = frame then s1.setTile k t fun x => { x with readyA := x.readyA || !b, readyB := x.readyB || b } else s1) ∧
  (∀ px : List W32, px.length = 4096 →
    tileSig ((px.map fun p => leBytes 4 p.toNat).flatten) =
      (4096 + ((List.range 4096).map fun i => (4096 - i) * (px.getD i 0).toNat).sum) % 65521 * 65536 +
        (1 + (px.map (·.toNat)).sum) % 65521) ∧
  (∀ sf tile l b s1 px, let k := 16 * sf + tile / 256
    let x := l.tiles.getD (tile % 256) .start
    let todo (b : Bool) : Prop := l.watches b = true ∧
      (if b then x.readyB = true ∧ x.deadB = false ∧ x.sigB = none else x.readyA = true ∧ x.deadA = false ∧ x.sigA = none)
    s.layers.get? k = some l → todo b → (b = true → ¬ todo false) → s.readTile l.words b (tile % 256) = .ok s1 px →
    exec (.tileSignatureDone sf tile) s = .next ((s1.setTile k (tile % 256) fun x =>
      if b then { x with sigB := some (tileSig px) } else { x with sigA := some (tileSig px) }).compareTile k (tile % 256))) ∧
  (∀ k t l sa sb, s.layers.get? k = some l → l.mode ≠ 2 → (l.tiles.getD t .start).sigA = some sa → (l.tiles.getD t .start).sigB = some sb →
    ∃ l', (s.compareTile k t).layers.get? k = some l' ∧
      (sa ≠ sb → l'.mismatch = min (l.mismatch + 1) 65535 ∧ l'.lastFrame = (s.pipe (s.pipeOf (k / 16))).frame.toNat ∧ l'.lastTile = t ∧
        l'.sigA = sa ∧ l'.sigB = sb ∧ l'.mode = 1 ∧ l'.armed.isSome ∧ l'.suspect = (match l.refs with
          | some rs => if rs.getD t 0 ≠ sa ∧ rs.getD t 0 = sb then 1 else if rs.getD t 0 = sa ∧ rs.getD t 0 ≠ sb then 2 else 3
          | none => 3)) ∧
      (sa = sb → (∀ j < lTiles l.words, (l.tiles.getD j .start).matched = true) → l' = { l with checked := (s.pipe (s.pipeOf (k / 16))).frame.toNat }) ∧
      (sa = sb → (∃ j < lTiles l.words, (l.tiles.getD j .start).matched = false) → l' = l)) ∧
  (∀ p row k l, s.layersOn p true = [(k, l)] → s.layers.get? k = some l → l.mode = 0 ∨ l.mode = 1 → lSafe l.words = true →
    64 * row < lH l.words → let line := lY l.words + 64 * row - 64
    (s.pipe p).reached line s.time = true →
    let bad := ((List.range (lTw l.words)).map fun j => row * lTw l.words + j).filter fun t =>
      !(l.tiles.getD t .start).matched && !(l.tiles.getD t .start).late
    bad ≠ [] → ∃ t l', exec (.tileDeadline p row) s = .next t ∧ t.layers.get? k = some l' ∧ l'.late = min (l.late + bad.length) 65535 ∧
      l'.armed = some (min line (l.armed.getD line)) ∧ ∀ j ∈ bad, (l'.tiles.getD j .start).late = true) ∧
  ∀ p slice n sf, s.surfaces.findBy (fun _ y => y.cur.enable && y.cur.pipe == p) = some (n, sf) → slice < 4 →
    let x := s.pipe p
    (x.hud.getD 1 0).getLsbD 32 = true → slice ∉ x.latched → x.reached (x.latchLine sf.cur.h slice) s.time = true →
    ∃ t, exec (.hudLatch p slice) s = .next t ∧ (t.pipe p).lastSlice = slice ∧ (t.pipe p).latched = slice :: x.latched ∧
      (let at_ := s.mappedPlaces (field (x.hud.getD 1 0) 0 20) (BitVec.ofNat 64 (field (x.hud.getD 0 0) 0 48)) 32
       (at_ = none → (t.pipe p).skips = min 0xFFFFFFFF (x.skips + 1) ∧ (t.pipe p).out = x.out ∧ (t.pipe p).latSeq = x.latSeq) ∧
       ∀ ps, at_ = some ps →
         let bs := ps.map fun q => s.readPlace 96 2 q
         (s.anyPoison ps = true ∨ leNat (bs.take 8) % 2 = 1 → (t.pipe p).skips = min 0xFFFFFFFF (x.skips + 1) ∧ (t.pipe p).out = x.out ∧
           (t.pipe p).latSeq = x.latSeq) ∧
         (s.anyPoison ps = false → leNat (bs.take 8) % 2 = 0 →
           let o := hudOutputs x.hud ((List.range 6).map fun j => bytesAt bs (8 + 4 * j) 4)
           (t.pipe p).skips = x.skips ∧ (t.pipe p).latSeq = BitVec.ofNat 64 (leNat (bs.take 8)) ∧
           (t.pipe p).out = (BitVec.ofNat 32 (o.getD 0 0), BitVec.ofNat 32 (o.getD 1 0))))

/-! ### The whole machine -/

/-- R13, R25, R352, R376: after power-on reset the boot program stands at its first action, the port's fields are 0, no
pitch, PASID or queue is configured, nothing is bound or runs, no key exists and nothing is measured; and the state meets the
invariant. What the spec gives no reset value for is not stated here.
Beside the rules it rests on readings and choices of the model: log entries 1 and 17. -/
def Obligations.ResetState : Prop :=
  State.reset.inv = true ∧ State.reset.power = .run ∧
  State.reset.boot.pc = 0 ∧ State.reset.boot.halted = false ∧
  State.reset.port.block = 0 ∧ State.reset.port.busy = false ∧ State.reset.port.badBlock = false ∧ State.reset.port.opcode = 0 ∧
  State.reset.port.bootprog = 0 ∧ State.reset.port.ready = false ∧
  (∀ p, State.reset.pitches.get? p = none) ∧ (∀ p, State.reset.pasids.get? p = none) ∧
  (∀ q, State.reset.queueReady q = false) ∧ State.reset.groups = [] ∧ State.reset.wgs = [] ∧ State.reset.accs = [] ∧
  State.reset.copies = [] ∧ State.reset.meas = [] ∧ State.reset.images = [] ∧
  State.reset.mem = []

/-- Every step keeps: no word in the course of issue, the memory's canonical form, one entry for each number in the
tables of slots, groups, workgroups and surfaces, and of every queue slot b0 empty (R299), at most 512 words executed
(R312) and at most eight EMITs (R307). -/
def Obligations.InvariantKept : Prop := ∀ s t : State, s.inv = true → step s = .next t → t.inv = true

/-- R111–R128, R303, R304: decoding what a well-formed word of a core or of a queue program is written as gives the word
back, with every operand and modifier; and a queue word has one reading and that one writing. -/
def Obligations.EncodingRoundTrip : Prop :=
  (∀ i : Instr, i.wellFormed = true → encode i ≠ .none → decodeCode (encode i) = some i) ∧
  ∀ (w : W32) (i : Instr), decodeQueue w = some i → encode i = .queue w

/-- A step is what the outside posted first, else one of the things the machine may do next, and then the clocks. Among
these are the words: the words of a group's occupied planes at its offset are read at code_base + (p·L + o)·8 (R57), and
the lowest plane left, or all of them at once where a word is congruent, issues the word that its bits decode to (R58, R61,
R111, R112), a captured follow-on as PNOP (R228); a pipe issues for its ready group with the smallest stamp (R317); a
running packet executes the word at its place (R301).
Beside the rules it rests on readings and choices of the model: log entries 2, 4, 6, 7, 28 and 90. -/
def Obligations.StepRunsDecodedWord : Prop :=
  (∀ s i rest, s.inbox = i :: rest → step s = match exec i { s with inbox := rest } with
    | .next t => .next (t.tick s.stepNo)
    | r => r) ∧
  (∀ s, s.inbox = [] → ∃ t, step s = .next (t.tick s.stepNo) ∧ (s.candidates = [] → t = s) ∧ (s.candidates ≠ [] → t ∈ s.candidates)) ∧
  (∀ (s : State) core pipe t, pipe < 4 → s.power = .run → s.pipeStep core pipe = some t → t ∈ s.candidates) ∧
  (∀ (s : State) core pipe t, s.pipeStep core pipe = some t ↔ ∃ pre slot post, s.pipeOrder core pipe = pre ++ slot :: post ∧
    s.groupStep core slot = some t ∧ ∀ x ∈ pre, s.groupStep core x = none) ∧
  (∀ (s : State) core pipe slot, slot < 64 → (slot ∈ s.pipeOrder core pipe ↔
    slot % 4 = pipe ∧ ∃ g, (gid core slot, g) ∈ s.groups)) ∧
  (∀ (s : State) core pipe, Tab.sorted s.groups = true → (s.pipeOrder core pipe).Pairwise fun a b =>
    ∀ g h, s.groups.get? (gid core a) = some g → s.groups.get? (gid core b) = some h →
      g.stamp < h.stamp ∨ g.stamp = h.stamp ∧ a < b) ∧
  (∀ (s : State) core slot w g t, s.groups.get? (gid core slot) = some g → s.wgs.get? g.wg = some w → s.mayIssue core g = true →
    g.todo.isSome → g.stepReq = false → s.issueAt core slot = .next t → t.progress (gid core slot) ≠ s.progress (gid core slot) →
    s.groupStep core slot = some t) ∧
  (∀ (s : State) core slot c m (word : Nat → W64) y i, s.ctxOf core slot (lowPlane m) true = some c → c.g.wait = .none → c.g.todo = some m → m ≠ 0 →
    let plane := lowPlane m
    let o := c.g.ofs.toNat
    let planes := c.g.pmask
    planes.getLsbD plane = true → (∀ p < 8, planes.getLsbD p = true → s.codeWord c.w p o = .ok (word p)) →
    (∀ p < 8, planes.getLsbD p = true → congruentBits (word p) = false) ∨
      (∀ p < 8, planes.getLsbD p = true → word p = word plane) →
    (c.g.captured.getLsbD plane = true → s.issueAt core slot = exec .pnop { s with focus := .group core slot plane }) ∧
    (c.g.captured.getLsbD plane = false → o + 1 < c.w.desc.len → s.codeWord c.w plane (o + 1) = .ok y →
      decodeWord (word plane) (some y) = .ok i →
      s.issueAt core slot = exec i { s with focus := .group core slot plane }) ∧
    (c.g.captured.getLsbD plane = false → c.w.desc.len ≤ o + 1 → decodeWord (word plane) none = .ok i →
      s.issueAt core slot = exec i { s with focus := .group core slot plane })) ∧
  (∀ (s : State) (w : Wg) p o t, s.translate w.core w.pasid w.pitch 3 (w.codeBase + BitVec.ofNat 64 ((p * w.desc.len + o) * 8)) = .ok t →
    ∃ x, s.codeWord w p o = .ok x ∧ ∀ k < 8, x.extractLsb' (8 * k) 8 =
      s.memByte (Pte.key t.leaf) (t.phys (w.codeBase + BitVec.ofNat 64 ((p * w.desc.len + o) * 8)) + k)) ∧
  (∀ (s : State) hw q i, q.running = true → q.waiting = false → decodeQueue (q.prog.words.getD q.pc 0) = some i →
    s.packetStep hw q = given (exec i { s with focus := .queue hw })) ∧
  (∀ (s : State) hw q t, s.power = .run → s.slots.get? hw = some q → q.running = true → t ∈ s.packetStep hw q → t ∈ s.candidates) ∧
  (∀ (w : W32) i t, decodeQueue w = some i →
    exec i { State.reset.withFetchWord 32 w.toNat with focus := .queue 0 } = .next t →
    step (State.reset.withFetchWord 32 w.toNat) = .next (t.tick 0)) ∧
  -- words the spec writes out (R113, R118–R123, R303)
  decodeWord 0x080860503C080000 none = .ok (.iadd ⟨⟨true, 3⟩, .v 5, .v 7, .s 2, .v 0, 0⟩) ∧
  decodeWord 0x0A17F0A006789ABC (some 0x800000000002468A) = .ok (.movi ⟨.always, .s 10, .v 0, 0x6789ABC, some 0x2468A⟩) ∧
  decodeWord 0x410020480E0050A0 none = .ok (.pairWord ⟨.iadd, false, 0, 4, 9, 0⟩ ⟨.fmul, false, 0, 5, 10, 0⟩) ∧
  decodeWord 0x0030400000800007 none = .ok (.brc ⟨⟨false, 2⟩, 4, 7⟩) ∧
  decodeWord 0x1037E08008080601 none = .ok (.ffma ⟨.always, .v 8, .v 1, .v 2, .v 3, 1⟩) ∧
  decodeWord 0x1807E09010303C8B none = .ok (.cvt ⟨.always, .v 9, .v 2, 0b01100, .v 30, 0x8B⟩) ∧
  decodeWord 0x2007E0481000804C none = .ok (.ld ⟨.always, .v 4, .s 2, 64, 0x4C⟩) ∧
  decodeWord 0x2877E00D06840000 none = .ok (.arrive ⟨.always, .v 0, .imm 32, .imm 33, .v 0, 0⟩) ∧
  decodeWord 0x3017E0200C120A53 none = .ok (.mma ⟨.always, .v 2, .v 1, .s 4, .s 5, 0x53⟩) ∧
  decodeWord 0x3857E0A820080001 none = .ok (.hgf ⟨.always, .v 10, .s 4, .v 2, .v 0, 1⟩) ∧
  decodeQueue 0x10400008 = some (.qbLdd 1 0 0 8) ∧ decodeQueue 0x20408010 = some (.qbStd 1 0 2 16) ∧
  decodeQueue 0xC4008000 = some (.emit 0 2 0) ∧ decodeQueue 0xF8000000 = some .halt
end

