-- ==== Sys2Proof/Laws/Tables.lean ====
section
/-! SUPPORT. Laws of tables: what a lookup finds after a change, and that changes keep the rising order of the keys. -/

namespace Sys2Proof

variable {α β : Type}

@[simp] theorem Tab.get?_nil (x : Nat) : Tab.get? ([] : Tab α) x = none := rfl

@[simp] theorem Tab.get?_cons (k : Nat) (v : α) (t : Tab α) (x : Nat) :
    Tab.get? ((k, v) :: t) x = if k = x then some v else Tab.get? t x := rfl

theorem Tab.get?_set (t : Tab α) (x y : Nat) (a : α) :
    Tab.get? (t.set x a) y = if x = y then some a else Tab.get? t y := by
  induction t with
  | nil => rfl
  | cons e t ih =>
    obtain ⟨k, v⟩ := e
    simp only [Tab.set]
    split
    · next h => subst h; simp only [Tab.get?_cons]; split <;> rfl
    · split
      · rfl
      · simp only [Tab.get?_cons, ih]; split <;> split <;> first | rfl | omega

@[simp] theorem Tab.get?_set_self (t : Tab α) (x : Nat) (a : α) : Tab.get? (t.set x a) x = some a := by
  simp [Tab.get?_set]

theorem Tab.get?_set_ne (t : Tab α) {x y : Nat} (a : α) (h : y ≠ x) : Tab.get? (t.set x a) y = Tab.get? t y := by
  simp [Tab.get?_set, Ne.symm h]

theorem Tab.get?_del (t : Tab α) (x y : Nat) : Tab.get? (t.del x) y = if x = y then none else Tab.get? t y := by
  unfold Tab.del
  induction t with
  | nil => simp
  | cons e t ih =>
    obtain ⟨k, v⟩ := e
    simp only [List.filter_cons]
    by_cases h : k = x
    · subst h; simp only [bne_self_eq_false, Bool.false_eq_true, if_false, ih, Tab.get?_cons]; split <;> rfl
    · simp only [bne_iff_ne, ne_eq, h, not_false_eq_true, if_true, Tab.get?_cons, ih]
      split <;> split <;> first | rfl | omega

theorem Tab.get?_put [DecidableEq α] (d : α) (t : Tab α) (x y : Nat) (a : α) :
    (Tab.get? (Tab.put d t x a) y).getD d = if x = y then a else (Tab.get? t y).getD d := by
  unfold Tab.put
  split
  · next h => subst h; rw [Tab.get?_del]; split <;> rfl
  · rw [Tab.get?_set]; split <;> rfl

theorem Tab.getD_put [DecidableEq α] (d : α) (t : Tab α) (x y : Nat) (a : α) :
    Tab.getD (Tab.put d t x a) y d = if x = y then a else Tab.getD t y d := Tab.get?_put d t x y a

theorem Tab.getD_set (t : Tab α) (x y : Nat) (a d : α) :
    Tab.getD (t.set x a) y d = if x = y then a else Tab.getD t y d := by
  simp only [Tab.getD, Tab.get?_set]; split <;> rfl

theorem Tab.get?_modify (t : Tab α) (x y : Nat) (f : α → α) :
    Tab.get? (t.modify x f) y = if x = y then (Tab.get? t y).map f else Tab.get? t y := by
  unfold Tab.modify
  split
  · next h => rw [Tab.get?_set]; split <;> simp_all
  · next h => split <;> simp_all

theorem Tab.get?_mapV (t : Tab α) (f : α → α) (x : Nat) : Tab.get? (t.mapV f) x = (Tab.get? t x).map f := by
  unfold Tab.mapV
  induction t with
  | nil => rfl
  | cons e t ih =>
    obtain ⟨k, v⟩ := e
    simp only [List.map_cons, Tab.get?_cons, ih]
    split <;> rfl

/-! ### Rising keys -/

theorem Tab.sorted_iff (t : Tab α) : t.sorted = true ↔ List.Pairwise (fun a b => a.1 < b.1) t := by
  induction t with
  | nil => simp [Tab.sorted]
  | cons e t ih =>
    obtain ⟨k, v⟩ := e
    cases t with
    | nil => simp [Tab.sorted]
    | cons e' t =>
      obtain ⟨k', v'⟩ := e'
      simp only [Tab.sorted, Bool.and_eq_true, decide_eq_true_eq, ih, List.pairwise_cons]
      constructor
      · rintro ⟨h, h', h''⟩
        refine ⟨?_, h', h''⟩
        intro b hb
        rcases List.mem_cons.1 hb with rfl | hb
        · exact h
        · exact Nat.lt_trans h (h' b hb)
      · rintro ⟨h, h', h''⟩
        exact ⟨h _ (List.mem_cons_self ..), h', h''⟩

theorem Tab.mem_set {t : Tab α} {x : Nat} {a : α} {e : Nat × α} (h : e ∈ t.set x a) : e = (x, a) ∨ e ∈ t := by
  induction t with
  | nil => simpa [Tab.set] using h
  | cons e' t ih =>
    obtain ⟨k, v⟩ := e'
    simp only [Tab.set] at h
    split at h
    · rcases List.mem_cons.1 h with h | h
      · exact .inl h
      · exact .inr (List.mem_cons_of_mem _ h)
    · split at h
      · rcases List.mem_cons.1 h with h | h
        · exact .inl h
        · exact .inr h
      · rcases List.mem_cons.1 h with h | h
        · exact .inr (h ▸ List.mem_cons_self ..)
        · rcases ih h with h | h
          · exact .inl h
          · exact .inr (List.mem_cons_of_mem _ h)

theorem Tab.sorted_set {t : Tab α} (h : t.sorted = true) (x : Nat) (a : α) : (t.set x a).sorted = true := by
  rw [Tab.sorted_iff] at *
  induction t with
  | nil => simp [Tab.set]
  | cons e t ih =>
    obtain ⟨k, v⟩ := e
    rw [List.pairwise_cons] at h
    simp only [Tab.set]
    split
    · next hk => subst hk; exact List.pairwise_cons.2 ⟨h.1, h.2⟩
    · split
      · next hx =>
        refine List.pairwise_cons.2 ⟨?_, List.pairwise_cons.2 h⟩
        intro b hb
        rcases List.mem_cons.1 hb with rfl | hb
        · exact hx
        · exact Nat.lt_trans hx (h.1 b hb)
      · next hx =>
        refine List.pairwise_cons.2 ⟨?_, ih h.2⟩
        intro b hb
        rcases Tab.mem_set hb with rfl | hb
        · show k < x; omega
        · exact h.1 b hb

theorem Tab.sorted_filter {t : Tab α} (h : t.sorted = true) (p : Nat × α → Bool) : Tab.sorted (t.filter p) = true := by
  rw [Tab.sorted_iff] at *; exact h.filter p

theorem Tab.sorted_del {t : Tab α} (h : t.sorted = true) (x : Nat) : (t.del x).sorted = true := Tab.sorted_filter h _

theorem Tab.sorted_put [DecidableEq α] {t : Tab α} (h : t.sorted = true) (d : α) (x : Nat) (a : α) :
    (Tab.put d t x a).sorted = true := by
  unfold Tab.put; split
  · exact Tab.sorted_del h x
  · exact Tab.sorted_set h x a

/-! ### Canonical memory -/

theorem Memory.wf_put {m : List Host.Cell} (h : Memory.wf m = true) (a : Nat) (b : Byte) :
    Memory.wf (Tab.put 0 m a b) = true := by
  simp only [Memory.wf, Bool.and_eq_true, List.all_eq_true] at *
  refine ⟨Tab.sorted_put h.1 0 a b, ?_⟩
  intro e he
  unfold Tab.put at he
  split at he
  · exact h.2 e (List.mem_filter.1 he).1
  · next hb =>
    rcases Tab.mem_set he with rfl | he
    · simpa using hb
    · exact h.2 e he

theorem Memory.wf_filter {m : List Host.Cell} (h : Memory.wf m = true) (p : Host.Cell → Bool) :
    Memory.wf (m.filter p) = true := by
  simp only [Memory.wf, Bool.and_eq_true, List.all_eq_true] at *
  exact ⟨Tab.sorted_filter h.1 p, fun e he => h.2 e (List.mem_filter.1 he).1⟩

end Sys2Proof
end

