-- ==== Sys2Proof/Laws/Registers.lean ====
section
/-! SUPPORT. Laws of registers: what each register reads as after each kind of write, and the result of the shared ALU
course. -/

namespace Sys2Proof.Machine

/-! ### One write -/

theorem Regs.vec_setVec (r : Regs) (n l m k : Nat) (x : W32) (hl : l < 32) (hk : k < 32) :
    (r.setVec n l x).vec m k = if m = n ∧ k = l then x else r.vec m k := by
  simp only [Regs.vec, Regs.setVec, Tab.getD_put]
  split <;> split <;> first | rfl | omega

@[simp] theorem Regs.uni_setVec (r : Regs) (n l m : Nat) (x : W32) : (r.setVec n l x).uni m = r.uni m := rfl
@[simp] theorem Regs.pred_setVec (r : Regs) (n l m : Nat) (x : W32) : (r.setVec n l x).pred m = r.pred m := rfl

theorem Regs.vec_setVec64 (r : Regs) (n l m k : Nat) (x : W64) (hl : l < 32) (hk : k < 32) :
    (r.setVec64 n l x).vec m k =
      if m = n ∧ k = l then x.truncate 32 else if m = n + 1 ∧ k = l then x.extractLsb' 32 32 else r.vec m k := by
  simp only [Regs.setVec64, Regs.vec_setVec, hl, hk]
  split <;> split <;> first | rfl | omega

@[simp] theorem Regs.uni_setVec64 (r : Regs) (n l m : Nat) (x : W64) : (r.setVec64 n l x).uni m = r.uni m := rfl
@[simp] theorem Regs.pred_setVec64 (r : Regs) (n l m : Nat) (x : W64) : (r.setVec64 n l x).pred m = r.pred m := rfl

theorem Regs.uni_setUni (r : Regs) (n m : Nat) (x : W64) : (r.setUni n x).uni m = if m = n then x else r.uni m := by
  simp only [Regs.uni, Regs.setUni, Tab.getD_put]
  split <;> split <;> first | rfl | omega

@[simp] theorem Regs.vec_setUni (r : Regs) (n m l : Nat) (x : W64) : (r.setUni n x).vec m l = r.vec m l := rfl
@[simp] theorem Regs.pred_setUni (r : Regs) (n m : Nat) (x : W64) : (r.setUni n x).pred m = r.pred m := rfl

theorem Regs.pred_setPred (r : Regs) (n m : Nat) (x : Mask) : (r.setPred n x).pred m = if m = n then x else r.pred m := by
  simp only [Regs.pred, Regs.setPred, Tab.getD_put]
  split <;> split <;> first | rfl | omega

@[simp] theorem Regs.vec_setPred (r : Regs) (n m l : Nat) (x : Mask) : (r.setPred n x).vec m l = r.vec m l := rfl
@[simp] theorem Regs.uni_setPred (r : Regs) (n m : Nat) (x : Mask) : (r.setPred n x).uni m = r.uni m := rfl

/-! ### Lanes -/

theorem mem_lanesOf {m : Mask} {l : Nat} : l ∈ lanesOf m ↔ l < 32 ∧ m.getLsbD l = true := by
  simp [lanesOf]

theorem lanesOf_nodup (m : Mask) : (lanesOf m).Nodup := List.nodup_range.sublist List.filter_sublist

theorem lanesOf_zero : lanesOf 0 = [] := by decide

theorem part_eq_zero_iff (m : Mask) : m = 0 ↔ ∀ l, l < 32 → m.getLsbD l = false := by
  constructor
  · rintro rfl l _; simp
  · intro h
    apply BitVec.eq_of_getLsbD_eq
    intro i hi; rw [h i hi]; simp

theorem lanesOf_eq_nil_iff (m : Mask) : lanesOf m = [] ↔ m = 0 := by
  rw [part_eq_zero_iff, List.eq_nil_iff_forall_not_mem]
  constructor
  · intro h l hl
    cases hm : m.getLsbD l with
    | false => rfl
    | true => exact absurd (mem_lanesOf.2 ⟨hl, hm⟩) (h l)
  · intro h l hl
    obtain ⟨h1, h2⟩ := mem_lanesOf.1 hl
    rw [h l h1] at h2; cases h2

/-! ### Folding a write over lanes -/

/-- A fold of writes that each touch one lane: the reading of a lane is that of its own write. -/
theorem Regs.foldl_lane (w : Regs → Nat → Regs) (get : Regs → W32) (k : Nat)
    (other : ∀ r l, l < 32 → l ≠ k → get (w r l) = get r) :
    ∀ (ls : List Nat) (r : Regs), (∀ l ∈ ls, l < 32) → k ∉ ls → get (ls.foldl w r) = get r
  | [], _, _, _ => rfl
  | l :: ls, r, hb, hn => by
    rw [List.foldl_cons, Regs.foldl_lane w get k other ls _ (fun x hx => hb x (List.mem_cons_of_mem _ hx))
      (fun h => hn (List.mem_cons_of_mem _ h))]
    exact other r l (hb l (List.mem_cons_self ..)) (fun h => hn (h ▸ List.mem_cons_self ..))

theorem Regs.foldl_lane_mem (w : Regs → Nat → Regs) (get : Regs → W32) (k : Nat)
    (other : ∀ r l, l < 32 → l ≠ k → get (w r l) = get r) (v : W32) (own : ∀ r, get (w r k) = v) :
    ∀ (ls : List Nat) (r : Regs), (∀ l ∈ ls, l < 32) → ls.Nodup → k ∈ ls → get (ls.foldl w r) = v
  | [], _, _, _, h => by cases h
  | l :: ls, r, hb, hd, hk => by
    obtain ⟨hl, hd'⟩ := List.nodup_cons.1 hd
    have hb' : ∀ x ∈ ls, x < 32 := fun x hx => hb x (List.mem_cons_of_mem _ hx)
    rw [List.foldl_cons]
    by_cases h : k ∈ ls
    · exact Regs.foldl_lane_mem w get k other v own ls _ hb' hd' h
    · rcases List.mem_cons.1 hk with rfl | h'
      · rw [Regs.foldl_lane w get k other ls _ hb' h, own]
      · exact absurd h' h

/-- A property that every write of a fold keeps. -/
theorem Regs.foldl_keep {α β : Type} (w : Regs → α → Regs) (get : Regs → β) :
    ∀ (ls : List α) (r : Regs), (∀ r, ∀ x ∈ ls, get (w r x) = get r) → get (ls.foldl w r) = get r
  | [], _, _ => rfl
  | x :: ls, r, keep => by
    rw [List.foldl_cons, Regs.foldl_keep w get ls _ (fun r y hy => keep r y (List.mem_cons_of_mem _ hy)),
      keep r x (List.mem_cons_self ..)]

/-! ### The result of an ALU word -/

/-- The registers after an ALU word with a vector or uniform destination. -/
def Ctx.aluRegs (c : Ctx) (g : Guard) (d : Opnd) (wide : Bool) (f : Nat → W64) (r : Regs) : Regs :=
  if d.isUni then (if c.part g = 0 then r else r.setDst d wide 0 (f 0))
  else (lanesOf (c.part g)).foldl (fun r l => r.setDst d wide l (f l)) r

theorem Regs.setDst_uni (r : Regs) (d : Opnd) (wide : Bool) (l m : Nat) (x : W64) (h : d.isUni = false) :
    (r.setDst d wide l x).uni m = r.uni m := by
  cases d with
  | v n => simp only [Regs.setDst]; split <;> rfl
  | s n => simp [Opnd.isUni] at h
  | _ => rfl

theorem Regs.setDst_pred (r : Regs) (d : Opnd) (wide : Bool) (l m : Nat) (x : W64) :
    (r.setDst d wide l x).pred m = r.pred m := by
  cases d with
  | v n => simp only [Regs.setDst]; split <;> rfl
  | _ => rfl

theorem Regs.setDst_vec (r : Regs) (d : Opnd) (wide : Bool) (l m k : Nat) (x : W64) (hl : l < 32) (hk : k < 32) :
    (r.setDst d wide l x).vec m k =
      if d.isVec ∧ m = d.num ∧ k = l then x.truncate 32
      else if wide ∧ d.isVec ∧ m = d.num + 1 ∧ k = l then x.extractLsb' 32 32 else r.vec m k := by
  cases d with
  | v n =>
    simp only [Regs.setDst, Opnd.isVec, Opnd.num, true_and]
    cases wide
    · simp only [Bool.false_eq_true, if_false, false_and]; exact Regs.vec_setVec r _ l m k _ hl hk
    · simp only [if_true, true_and]; exact Regs.vec_setVec64 r _ l m k _ hl hk
  | _ => simp [Regs.setDst, Opnd.isVec]

theorem Ctx.aluRegs_result (c : Ctx) (g : Guard) (d : Opnd) (wide : Bool) (f : Nat → W64) (r : Regs) :
    r.Result (c.aluRegs g d wide f r) d wide (c.part g) f := by
  cases hu : d.isUni with
  | true =>
    have hv : d.isVec = false := by cases d <;> simp_all [Opnd.isUni, Opnd.isVec]
    obtain ⟨n, rfl⟩ : ∃ n, d = .s n := by cases d <;> simp_all [Opnd.isUni]
    unfold Ctx.aluRegs
    by_cases hp : c.part g = 0
    · refine ⟨⟨?_, ?_⟩, ?_⟩ <;> intros <;> simp [Opnd.isUni, Opnd.isVec, hp]
    · rw [if_pos hu, if_neg hp]
      refine ⟨⟨?_, ?_⟩, ?_⟩ <;> intros <;> simp [Opnd.isUni, Opnd.isVec, Opnd.num, Regs.setDst]
      rw [Regs.uni_setUni]; simp [show c.part g ≠ 0#32 from hp]
  | false =>
    refine ⟨⟨?_, ?_⟩, ?_⟩
    · intro n l hl
      simp only [Ctx.aluRegs, hu, Bool.false_eq_true, if_false]
      have hb : ∀ x ∈ lanesOf (c.part g), x < 32 := fun x hx => (mem_lanesOf.1 hx).1
      have other : ∀ (r : Regs) (x : Nat), x < 32 → x ≠ l → (r.setDst d wide x (f x)).vec n l = r.vec n l := by
        intro r x hx hne
        rw [Regs.setDst_vec r d wide x n l _ hx hl]
        simp [Ne.symm hne]
      by_cases hm : (c.part g).getLsbD l = true
      · have own : ∀ r : Regs, (r.setDst d wide l (f l)).vec n l =
            if d.isVec ∧ n = d.num then (f l).truncate 32
            else if wide ∧ d.isVec ∧ n = d.num + 1 then (f l).extractLsb' 32 32 else r.vec n l := by
          intro r; rw [Regs.setDst_vec r d wide l n l _ hl hl]; simp
        by_cases hd : (d.isVec = true ∧ n = d.num) ∨ (wide = true ∧ d.isVec = true ∧ n = d.num + 1)
        · rw [Regs.foldl_lane_mem _ (fun r => r.vec n l) l other _ (fun r => ?_) _ r hb (lanesOf_nodup _)
            (mem_lanesOf.2 ⟨hl, hm⟩)]
          rw [own]; simp only [hm, and_true]
          rcases hd with hd | hd
          · simp [hd]
          · by_cases hd' : d.isVec = true ∧ n = d.num
            · simp [hd']
            · simp [hd]
        · have hd1 : ¬(d.isVec = true ∧ n = d.num) := fun h => hd (.inl h)
          have hd2 : ¬(wide = true ∧ d.isVec = true ∧ n = d.num + 1) := fun h => hd (.inr h)
          rw [Regs.foldl_keep _ (fun r => r.vec n l) _ r (fun r x hx => ?_)]
          · simp only [hm, and_true, hd1, hd2, if_false]
          · show (r.setDst d wide x (f x)).vec n l = r.vec n l
            rw [Regs.setDst_vec r d wide x n l _ (hb x hx) hl]
            rw [if_neg (fun h => hd1 ⟨h.1, h.2.1⟩), if_neg (fun h => hd2 ⟨h.1, h.2.1, h.2.2.1⟩)]
      · rw [Regs.foldl_lane _ (fun r => r.vec n l) l other _ r hb (fun h => hm (mem_lanesOf.1 h).2)]
        simp [hm]
    · intro n
      simp only [Ctx.aluRegs, hu, Bool.false_eq_true, if_false, false_and]
      exact Regs.foldl_keep _ (fun r => r.uni n) _ r (fun r x _ => Regs.setDst_uni r d wide x n _ hu)
    · intro n
      simp only [Ctx.aluRegs, hu, Bool.false_eq_true, if_false]
      exact Regs.foldl_keep _ (fun r => r.pred n) _ r (fun r x _ => Regs.setDst_pred r d wide x n _)

end Sys2Proof.Machine
end

