-- ==== Sys2Proof/Laws/State.lean ====
section
/-! SUPPORT. Each named update of the state, field by field: what it sets, and that it leaves every other field. -/

namespace Sys2Proof.Machine

variable (s : State)

section setCore
variable (n : Nat) (x : CoreSt)
@[simp] theorem State.setCore_groups : (s.setCore n x).groups = s.groups := rfl
@[simp] theorem State.setCore_cores : (s.setCore n x).cores = s.cores.set n x := rfl
@[simp] theorem State.setCore_wgs : (s.setCore n x).wgs = s.wgs := rfl
@[simp] theorem State.setCore_nbhs : (s.setCore n x).nbhs = s.nbhs := rfl
@[simp] theorem State.setCore_launches : (s.setCore n x).launches = s.launches := rfl
@[simp] theorem State.setCore_nextId : (s.setCore n x).nextId = s.nextId := rfl
@[simp] theorem State.setCore_accs : (s.setCore n x).accs = s.accs := rfl
@[simp] theorem State.setCore_faults : (s.setCore n x).faults = s.faults := rfl
@[simp] theorem State.setCore_copies : (s.setCore n x).copies = s.copies := rfl
@[simp] theorem State.setCore_monitors : (s.setCore n x).monitors = s.monitors := rfl
@[simp] theorem State.setCore_mem : (s.setCore n x).mem = s.mem := rfl
@[simp] theorem State.setCore_keyTags : (s.setCore n x).keyTags = s.keyTags := rfl
@[simp] theorem State.setCore_scrTags : (s.setCore n x).scrTags = s.scrTags := rfl
@[simp] theorem State.setCore_poison : (s.setCore n x).poison = s.poison := rfl
@[simp] theorem State.setCore_l1 : (s.setCore n x).l1 = s.l1 := rfl
@[simp] theorem State.setCore_msc : (s.setCore n x).msc = s.msc := rfl
@[simp] theorem State.setCore_fused : (s.setCore n x).fused = s.fused := rfl
@[simp] theorem State.setCore_l1Tlb : (s.setCore n x).l1Tlb = s.l1Tlb := rfl
@[simp] theorem State.setCore_baseTlb : (s.setCore n x).baseTlb = s.baseTlb := rfl
@[simp] theorem State.setCore_lastPage : (s.setCore n x).lastPage = s.lastPage := rfl
@[simp] theorem State.setCore_ports : (s.setCore n x).ports = s.ports := rfl
@[simp] theorem State.setCore_ide : (s.setCore n x).ide = s.ide := rfl
@[simp] theorem State.setCore_atomicReq : (s.setCore n x).atomicReq = s.atomicReq := rfl
@[simp] theorem State.setCore_atsReqs : (s.setCore n x).atsReqs = s.atsReqs := rfl
@[simp] theorem State.setCore_atsCache : (s.setCore n x).atsCache = s.atsCache := rfl
@[simp] theorem State.setCore_comms : (s.setCore n x).comms = s.comms := rfl
@[simp] theorem State.setCore_pairs : (s.setCore n x).pairs = s.pairs := rfl
@[simp] theorem State.setCore_audits : (s.setCore n x).audits = s.audits := rfl
@[simp] theorem State.setCore_errs : (s.setCore n x).errs = s.errs := rfl
@[simp] theorem State.setCore_failCh : (s.setCore n x).failCh = s.failCh := rfl
@[simp] theorem State.setCore_retCh : (s.setCore n x).retCh = s.retCh := rfl
@[simp] theorem State.setCore_retPipe : (s.setCore n x).retPipe = s.retPipe := rfl
@[simp] theorem State.setCore_pitches : (s.setCore n x).pitches = s.pitches := rfl
@[simp] theorem State.setCore_keyGen : (s.setCore n x).keyGen = s.keyGen := rfl
@[simp] theorem State.setCore_pasids : (s.setCore n x).pasids = s.pasids := rfl
@[simp] theorem State.setCore_vfs : (s.setCore n x).vfs = s.vfs := rfl
@[simp] theorem State.setCore_queues : (s.setCore n x).queues = s.queues := rfl
@[simp] theorem State.setCore_slots : (s.setCore n x).slots = s.slots := rfl
@[simp] theorem State.setCore_qprogs : (s.setCore n x).qprogs = s.qprogs := rfl
@[simp] theorem State.setCore_served : (s.setCore n x).served = s.served := rfl
@[simp] theorem State.setCore_windowAt : (s.setCore n x).windowAt = s.windowAt := rfl
@[simp] theorem State.setCore_requests : (s.setCore n x).requests = s.requests := rfl
@[simp] theorem State.setCore_doe : (s.setCore n x).doe = s.doe := rfl
@[simp] theorem State.setCore_msix : (s.setCore n x).msix = s.msix := rfl
@[simp] theorem State.setCore_hashCtxs : (s.setCore n x).hashCtxs = s.hashCtxs := rfl
@[simp] theorem State.setCore_meas : (s.setCore n x).meas = s.meas := rfl
@[simp] theorem State.setCore_port : (s.setCore n x).port = s.port := rfl
@[simp] theorem State.setCore_boot : (s.setCore n x).boot = s.boot := rfl
@[simp] theorem State.setCore_busError : (s.setCore n x).busError = s.busError := rfl
@[simp] theorem State.setCore_keyHash : (s.setCore n x).keyHash = s.keyHash := rfl
@[simp] theorem State.setCore_minSvn : (s.setCore n x).minSvn = s.minSvn := rfl
@[simp] theorem State.setCore_devId : (s.setCore n x).devId = s.devId := rfl
@[simp] theorem State.setCore_latch : (s.setCore n x).latch = s.latch := rfl
@[simp] theorem State.setCore_trained : (s.setCore n x).trained = s.trained := rfl
@[simp] theorem State.setCore_pitched : (s.setCore n x).pitched = s.pitched := rfl
@[simp] theorem State.setCore_images : (s.setCore n x).images = s.images := rfl
@[simp] theorem State.setCore_binds : (s.setCore n x).binds = s.binds := rfl
@[simp] theorem State.setCore_window : (s.setCore n x).window = s.window := rfl
@[simp] theorem State.setCore_graphs : (s.setCore n x).graphs = s.graphs := rfl
@[simp] theorem State.setCore_replays : (s.setCore n x).replays = s.replays := rfl
@[simp] theorem State.setCore_surfaces : (s.setCore n x).surfaces = s.surfaces := rfl
@[simp] theorem State.setCore_layers : (s.setCore n x).layers = s.layers := rfl
@[simp] theorem State.setCore_pipes : (s.setCore n x).pipes = s.pipes := rfl
@[simp] theorem State.setCore_lantern : (s.setCore n x).lantern = s.lantern := rfl
@[simp] theorem State.setCore_routePipe : (s.setCore n x).routePipe = s.routePipe := rfl
@[simp] theorem State.setCore_camFrame : (s.setCore n x).camFrame = s.camFrame := rfl
@[simp] theorem State.setCore_camTime : (s.setCore n x).camTime = s.camTime := rfl
@[simp] theorem State.setCore_ueLog : (s.setCore n x).ueLog = s.ueLog := rfl
@[simp] theorem State.setCore_dev3 : (s.setCore n x).dev3 = s.dev3 := rfl
@[simp] theorem State.setCore_challenge : (s.setCore n x).challenge = s.challenge := rfl
@[simp] theorem State.setCore_power : (s.setCore n x).power = s.power := rfl
@[simp] theorem State.setCore_wakeHeld : (s.setCore n x).wakeHeld = s.wakeHeld := rfl
@[simp] theorem State.setCore_clkHalf : (s.setCore n x).clkHalf = s.clkHalf := rfl
@[simp] theorem State.setCore_time : (s.setCore n x).time = s.time := rfl
@[simp] theorem State.setCore_reply : (s.setCore n x).reply = s.reply := rfl
@[simp] theorem State.setCore_stepNo : (s.setCore n x).stepNo = s.stepNo := rfl
@[simp] theorem State.setCore_drbgNo : (s.setCore n x).drbgNo = s.drbgNo := rfl
@[simp] theorem State.setCore_inbox : (s.setCore n x).inbox = s.inbox := rfl
@[simp] theorem State.setCore_focus : (s.setCore n x).focus = s.focus := rfl
end setCore

section setGroup
variable (k : Nat) (g : Group)
@[simp] theorem State.setGroup_groups : (s.setGroup k g).groups = s.groups.set k g := rfl
@[simp] theorem State.setGroup_cores : (s.setGroup k g).cores = s.cores := rfl
@[simp] theorem State.setGroup_wgs : (s.setGroup k g).wgs = s.wgs := rfl
@[simp] theorem State.setGroup_nbhs : (s.setGroup k g).nbhs = s.nbhs := rfl
@[simp] theorem State.setGroup_launches : (s.setGroup k g).launches = s.launches := rfl
@[simp] theorem State.setGroup_nextId : (s.setGroup k g).nextId = s.nextId := rfl
@[simp] theorem State.setGroup_accs : (s.setGroup k g).accs = s.accs := rfl
@[simp] theorem State.setGroup_faults : (s.setGroup k g).faults = s.faults := rfl
@[simp] theorem State.setGroup_copies : (s.setGroup k g).copies = s.copies := rfl
@[simp] theorem State.setGroup_monitors : (s.setGroup k g).monitors = s.monitors := rfl
@[simp] theorem State.setGroup_mem : (s.setGroup k g).mem = s.mem := rfl
@[simp] theorem State.setGroup_keyTags : (s.setGroup k g).keyTags = s.keyTags := rfl
@[simp] theorem State.setGroup_scrTags : (s.setGroup k g).scrTags = s.scrTags := rfl
@[simp] theorem State.setGroup_poison : (s.setGroup k g).poison = s.poison := rfl
@[simp] theorem State.setGroup_l1 : (s.setGroup k g).l1 = s.l1 := rfl
@[simp] theorem State.setGroup_msc : (s.setGroup k g).msc = s.msc := rfl
@[simp] theorem State.setGroup_fused : (s.setGroup k g).fused = s.fused := rfl
@[simp] theorem State.setGroup_l1Tlb : (s.setGroup k g).l1Tlb = s.l1Tlb := rfl
@[simp] theorem State.setGroup_baseTlb : (s.setGroup k g).baseTlb = s.baseTlb := rfl
@[simp] theorem State.setGroup_lastPage : (s.setGroup k g).lastPage = s.lastPage := rfl
@[simp] theorem State.setGroup_ports : (s.setGroup k g).ports = s.ports := rfl
@[simp] theorem State.setGroup_ide : (s.setGroup k g).ide = s.ide := rfl
@[simp] theorem State.setGroup_atomicReq : (s.setGroup k g).atomicReq = s.atomicReq := rfl
@[simp] theorem State.setGroup_atsReqs : (s.setGroup k g).atsReqs = s.atsReqs := rfl
@[simp] theorem State.setGroup_atsCache : (s.setGroup k g).atsCache = s.atsCache := rfl
@[simp] theorem State.setGroup_comms : (s.setGroup k g).comms = s.comms := rfl
@[simp] theorem State.setGroup_pairs : (s.setGroup k g).pairs = s.pairs := rfl
@[simp] theorem State.setGroup_audits : (s.setGroup k g).audits = s.audits := rfl
@[simp] theorem State.setGroup_errs : (s.setGroup k g).errs = s.errs := rfl
@[simp] theorem State.setGroup_failCh : (s.setGroup k g).failCh = s.failCh := rfl
@[simp] theorem State.setGroup_retCh : (s.setGroup k g).retCh = s.retCh := rfl
@[simp] theorem State.setGroup_retPipe : (s.setGroup k g).retPipe = s.retPipe := rfl
@[simp] theorem State.setGroup_pitches : (s.setGroup k g).pitches = s.pitches := rfl
@[simp] theorem State.setGroup_keyGen : (s.setGroup k g).keyGen = s.keyGen := rfl
@[simp] theorem State.setGroup_pasids : (s.setGroup k g).pasids = s.pasids := rfl
@[simp] theorem State.setGroup_vfs : (s.setGroup k g).vfs = s.vfs := rfl
@[simp] theorem State.setGroup_queues : (s.setGroup k g).queues = s.queues := rfl
@[simp] theorem State.setGroup_slots : (s.setGroup k g).slots = s.slots := rfl
@[simp] theorem State.setGroup_qprogs : (s.setGroup k g).qprogs = s.qprogs := rfl
@[simp] theorem State.setGroup_served : (s.setGroup k g).served = s.served := rfl
@[simp] theorem State.setGroup_windowAt : (s.setGroup k g).windowAt = s.windowAt := rfl
@[simp] theorem State.setGroup_requests : (s.setGroup k g).requests = s.requests := rfl
@[simp] theorem State.setGroup_doe : (s.setGroup k g).doe = s.doe := rfl
@[simp] theorem State.setGroup_msix : (s.setGroup k g).msix = s.msix := rfl
@[simp] theorem State.setGroup_hashCtxs : (s.setGroup k g).hashCtxs = s.hashCtxs := rfl
@[simp] theorem State.setGroup_meas : (s.setGroup k g).meas = s.meas := rfl
@[simp] theorem State.setGroup_port : (s.setGroup k g).port = s.port := rfl
@[simp] theorem State.setGroup_boot : (s.setGroup k g).boot = s.boot := rfl
@[simp] theorem State.setGroup_busError : (s.setGroup k g).busError = s.busError := rfl
@[simp] theorem State.setGroup_keyHash : (s.setGroup k g).keyHash = s.keyHash := rfl
@[simp] theorem State.setGroup_minSvn : (s.setGroup k g).minSvn = s.minSvn := rfl
@[simp] theorem State.setGroup_devId : (s.setGroup k g).devId = s.devId := rfl
@[simp] theorem State.setGroup_latch : (s.setGroup k g).latch = s.latch := rfl
@[simp] theorem State.setGroup_trained : (s.setGroup k g).trained = s.trained := rfl
@[simp] theorem State.setGroup_pitched : (s.setGroup k g).pitched = s.pitched := rfl
@[simp] theorem State.setGroup_images : (s.setGroup k g).images = s.images := rfl
@[simp] theorem State.setGroup_binds : (s.setGroup k g).binds = s.binds := rfl
@[simp] theorem State.setGroup_window : (s.setGroup k g).window = s.window := rfl
@[simp] theorem State.setGroup_graphs : (s.setGroup k g).graphs = s.graphs := rfl
@[simp] theorem State.setGroup_replays : (s.setGroup k g).replays = s.replays := rfl
@[simp] theorem State.setGroup_surfaces : (s.setGroup k g).surfaces = s.surfaces := rfl
@[simp] theorem State.setGroup_layers : (s.setGroup k g).layers = s.layers := rfl
@[simp] theorem State.setGroup_pipes : (s.setGroup k g).pipes = s.pipes := rfl
@[simp] theorem State.setGroup_lantern : (s.setGroup k g).lantern = s.lantern := rfl
@[simp] theorem State.setGroup_routePipe : (s.setGroup k g).routePipe = s.routePipe := rfl
@[simp] theorem State.setGroup_camFrame : (s.setGroup k g).camFrame = s.camFrame := rfl
@[simp] theorem State.setGroup_camTime : (s.setGroup k g).camTime = s.camTime := rfl
@[simp] theorem State.setGroup_ueLog : (s.setGroup k g).ueLog = s.ueLog := rfl
@[simp] theorem State.setGroup_dev3 : (s.setGroup k g).dev3 = s.dev3 := rfl
@[simp] theorem State.setGroup_challenge : (s.setGroup k g).challenge = s.challenge := rfl
@[simp] theorem State.setGroup_power : (s.setGroup k g).power = s.power := rfl
@[simp] theorem State.setGroup_wakeHeld : (s.setGroup k g).wakeHeld = s.wakeHeld := rfl
@[simp] theorem State.setGroup_clkHalf : (s.setGroup k g).clkHalf = s.clkHalf := rfl
@[simp] theorem State.setGroup_time : (s.setGroup k g).time = s.time := rfl
@[simp] theorem State.setGroup_reply : (s.setGroup k g).reply = s.reply := rfl
@[simp] theorem State.setGroup_stepNo : (s.setGroup k g).stepNo = s.stepNo := rfl
@[simp] theorem State.setGroup_drbgNo : (s.setGroup k g).drbgNo = s.drbgNo := rfl
@[simp] theorem State.setGroup_inbox : (s.setGroup k g).inbox = s.inbox := rfl
@[simp] theorem State.setGroup_focus : (s.setGroup k g).focus = s.focus := rfl
end setGroup

section updGroup
variable (k : Nat) (f : Group → Group)
@[simp] theorem State.updGroup_groups : (s.updGroup k f).groups = s.groups.modify k f := rfl
@[simp] theorem State.updGroup_cores : (s.updGroup k f).cores = s.cores := rfl
@[simp] theorem State.updGroup_wgs : (s.updGroup k f).wgs = s.wgs := rfl
@[simp] theorem State.updGroup_nbhs : (s.updGroup k f).nbhs = s.nbhs := rfl
@[simp] theorem State.updGroup_launches : (s.updGroup k f).launches = s.launches := rfl
@[simp] theorem State.updGroup_nextId : (s.updGroup k f).nextId = s.nextId := rfl
@[simp] theorem State.updGroup_accs : (s.updGroup k f).accs = s.accs := rfl
@[simp] theorem State.updGroup_faults : (s.updGroup k f).faults = s.faults := rfl
@[simp] theorem State.updGroup_copies : (s.updGroup k f).copies = s.copies := rfl
@[simp] theorem State.updGroup_monitors : (s.updGroup k f).monitors = s.monitors := rfl
@[simp] theorem State.updGroup_mem : (s.updGroup k f).mem = s.mem := rfl
@[simp] theorem State.updGroup_keyTags : (s.updGroup k f).keyTags = s.keyTags := rfl
@[simp] theorem State.updGroup_scrTags : (s.updGroup k f).scrTags = s.scrTags := rfl
@[simp] theorem State.updGroup_poison : (s.updGroup k f).poison = s.poison := rfl
@[simp] theorem State.updGroup_l1 : (s.updGroup k f).l1 = s.l1 := rfl
@[simp] theorem State.updGroup_msc : (s.updGroup k f).msc = s.msc := rfl
@[simp] theorem State.updGroup_fused : (s.updGroup k f).fused = s.fused := rfl
@[simp] theorem State.updGroup_l1Tlb : (s.updGroup k f).l1Tlb = s.l1Tlb := rfl
@[simp] theorem State.updGroup_baseTlb : (s.updGroup k f).baseTlb = s.baseTlb := rfl
@[simp] theorem State.updGroup_lastPage : (s.updGroup k f).lastPage = s.lastPage := rfl
@[simp] theorem State.updGroup_ports : (s.updGroup k f).ports = s.ports := rfl
@[simp] theorem State.updGroup_ide : (s.updGroup k f).ide = s.ide := rfl
@[simp] theorem State.updGroup_atomicReq : (s.updGroup k f).atomicReq = s.atomicReq := rfl
@[simp] theorem State.updGroup_atsReqs : (s.updGroup k f).atsReqs = s.atsReqs := rfl
@[simp] theorem State.updGroup_atsCache : (s.updGroup k f).atsCache = s.atsCache := rfl
@[simp] theorem State.updGroup_comms : (s.updGroup k f).comms = s.comms := rfl
@[simp] theorem State.updGroup_pairs : (s.updGroup k f).pairs = s.pairs := rfl
@[simp] theorem State.updGroup_audits : (s.updGroup k f).audits = s.audits := rfl
@[simp] theorem State.updGroup_errs : (s.updGroup k f).errs = s.errs := rfl
@[simp] theorem State.updGroup_failCh : (s.updGroup k f).failCh = s.failCh := rfl
@[simp] theorem State.updGroup_retCh : (s.updGroup k f).retCh = s.retCh := rfl
@[simp] theorem State.updGroup_retPipe : (s.updGroup k f).retPipe = s.retPipe := rfl
@[simp] theorem State.updGroup_pitches : (s.updGroup k f).pitches = s.pitches := rfl
@[simp] theorem State.updGroup_keyGen : (s.updGroup k f).keyGen = s.keyGen := rfl
@[simp] theorem State.updGroup_pasids : (s.updGroup k f).pasids = s.pasids := rfl
@[simp] theorem State.updGroup_vfs : (s.updGroup k f).vfs = s.vfs := rfl
@[simp] theorem State.updGroup_queues : (s.updGroup k f).queues = s.queues := rfl
@[simp] theorem State.updGroup_slots : (s.updGroup k f).slots = s.slots := rfl
@[simp] theorem State.updGroup_qprogs : (s.updGroup k f).qprogs = s.qprogs := rfl
@[simp] theorem State.updGroup_served : (s.updGroup k f).served = s.served := rfl
@[simp] theorem State.updGroup_windowAt : (s.updGroup k f).windowAt = s.windowAt := rfl
@[simp] theorem State.updGroup_requests : (s.updGroup k f).requests = s.requests := rfl
@[simp] theorem State.updGroup_doe : (s.updGroup k f).doe = s.doe := rfl
@[simp] theorem State.updGroup_msix : (s.updGroup k f).msix = s.msix := rfl
@[simp] theorem State.updGroup_hashCtxs : (s.updGroup k f).hashCtxs = s.hashCtxs := rfl
@[simp] theorem State.updGroup_meas : (s.updGroup k f).meas = s.meas := rfl
@[simp] theorem State.updGroup_port : (s.updGroup k f).port = s.port := rfl
@[simp] theorem State.updGroup_boot : (s.updGroup k f).boot = s.boot := rfl
@[simp] theorem State.updGroup_busError : (s.updGroup k f).busError = s.busError := rfl
@[simp] theorem State.updGroup_keyHash : (s.updGroup k f).keyHash = s.keyHash := rfl
@[simp] theorem State.updGroup_minSvn : (s.updGroup k f).minSvn = s.minSvn := rfl
@[simp] theorem State.updGroup_devId : (s.updGroup k f).devId = s.devId := rfl
@[simp] theorem State.updGroup_latch : (s.updGroup k f).latch = s.latch := rfl
@[simp] theorem State.updGroup_trained : (s.updGroup k f).trained = s.trained := rfl
@[simp] theorem State.updGroup_pitched : (s.updGroup k f).pitched = s.pitched := rfl
@[simp] theorem State.updGroup_images : (s.updGroup k f).images = s.images := rfl
@[simp] theorem State.updGroup_binds : (s.updGroup k f).binds = s.binds := rfl
@[simp] theorem State.updGroup_window : (s.updGroup k f).window = s.window := rfl
@[simp] theorem State.updGroup_graphs : (s.updGroup k f).graphs = s.graphs := rfl
@[simp] theorem State.updGroup_replays : (s.updGroup k f).replays = s.replays := rfl
@[simp] theorem State.updGroup_surfaces : (s.updGroup k f).surfaces = s.surfaces := rfl
@[simp] theorem State.updGroup_layers : (s.updGroup k f).layers = s.layers := rfl
@[simp] theorem State.updGroup_pipes : (s.updGroup k f).pipes = s.pipes := rfl
@[simp] theorem State.updGroup_lantern : (s.updGroup k f).lantern = s.lantern := rfl
@[simp] theorem State.updGroup_routePipe : (s.updGroup k f).routePipe = s.routePipe := rfl
@[simp] theorem State.updGroup_camFrame : (s.updGroup k f).camFrame = s.camFrame := rfl
@[simp] theorem State.updGroup_camTime : (s.updGroup k f).camTime = s.camTime := rfl
@[simp] theorem State.updGroup_ueLog : (s.updGroup k f).ueLog = s.ueLog := rfl
@[simp] theorem State.updGroup_dev3 : (s.updGroup k f).dev3 = s.dev3 := rfl
@[simp] theorem State.updGroup_challenge : (s.updGroup k f).challenge = s.challenge := rfl
@[simp] theorem State.updGroup_power : (s.updGroup k f).power = s.power := rfl
@[simp] theorem State.updGroup_wakeHeld : (s.updGroup k f).wakeHeld = s.wakeHeld := rfl
@[simp] theorem State.updGroup_clkHalf : (s.updGroup k f).clkHalf = s.clkHalf := rfl
@[simp] theorem State.updGroup_time : (s.updGroup k f).time = s.time := rfl
@[simp] theorem State.updGroup_reply : (s.updGroup k f).reply = s.reply := rfl
@[simp] theorem State.updGroup_stepNo : (s.updGroup k f).stepNo = s.stepNo := rfl
@[simp] theorem State.updGroup_drbgNo : (s.updGroup k f).drbgNo = s.drbgNo := rfl
@[simp] theorem State.updGroup_inbox : (s.updGroup k f).inbox = s.inbox := rfl
@[simp] theorem State.updGroup_focus : (s.updGroup k f).focus = s.focus := rfl
end updGroup

section setWg
variable (u : Nat) (w : Wg)
@[simp] theorem State.setWg_groups : (s.setWg u w).groups = s.groups := rfl
@[simp] theorem State.setWg_cores : (s.setWg u w).cores = s.cores := rfl
@[simp] theorem State.setWg_wgs : (s.setWg u w).wgs = s.wgs.set u w := rfl
@[simp] theorem State.setWg_nbhs : (s.setWg u w).nbhs = s.nbhs := rfl
@[simp] theorem State.setWg_launches : (s.setWg u w).launches = s.launches := rfl
@[simp] theorem State.setWg_nextId : (s.setWg u w).nextId = s.nextId := rfl
@[simp] theorem State.setWg_accs : (s.setWg u w).accs = s.accs := rfl
@[simp] theorem State.setWg_faults : (s.setWg u w).faults = s.faults := rfl
@[simp] theorem State.setWg_copies : (s.setWg u w).copies = s.copies := rfl
@[simp] theorem State.setWg_monitors : (s.setWg u w).monitors = s.monitors := rfl
@[simp] theorem State.setWg_mem : (s.setWg u w).mem = s.mem := rfl
@[simp] theorem State.setWg_keyTags : (s.setWg u w).keyTags = s.keyTags := rfl
@[simp] theorem State.setWg_scrTags : (s.setWg u w).scrTags = s.scrTags := rfl
@[simp] theorem State.setWg_poison : (s.setWg u w).poison = s.poison := rfl
@[simp] theorem State.setWg_l1 : (s.setWg u w).l1 = s.l1 := rfl
@[simp] theorem State.setWg_msc : (s.setWg u w).msc = s.msc := rfl
@[simp] theorem State.setWg_fused : (s.setWg u w).fused = s.fused := rfl
@[simp] theorem State.setWg_l1Tlb : (s.setWg u w).l1Tlb = s.l1Tlb := rfl
@[simp] theorem State.setWg_baseTlb : (s.setWg u w).baseTlb = s.baseTlb := rfl
@[simp] theorem State.setWg_lastPage : (s.setWg u w).lastPage = s.lastPage := rfl
@[simp] theorem State.setWg_ports : (s.setWg u w).ports = s.ports := rfl
@[simp] theorem State.setWg_ide : (s.setWg u w).ide = s.ide := rfl
@[simp] theorem State.setWg_atomicReq : (s.setWg u w).atomicReq = s.atomicReq := rfl
@[simp] theorem State.setWg_atsReqs : (s.setWg u w).atsReqs = s.atsReqs := rfl
@[simp] theorem State.setWg_atsCache : (s.setWg u w).atsCache = s.atsCache := rfl
@[simp] theorem State.setWg_comms : (s.setWg u w).comms = s.comms := rfl
@[simp] theorem State.setWg_pairs : (s.setWg u w).pairs = s.pairs := rfl
@[simp] theorem State.setWg_audits : (s.setWg u w).audits = s.audits := rfl
@[simp] theorem State.setWg_errs : (s.setWg u w).errs = s.errs := rfl
@[simp] theorem State.setWg_failCh : (s.setWg u w).failCh = s.failCh := rfl
@[simp] theorem State.setWg_retCh : (s.setWg u w).retCh = s.retCh := rfl
@[simp] theorem State.setWg_retPipe : (s.setWg u w).retPipe = s.retPipe := rfl
@[simp] theorem State.setWg_pitches : (s.setWg u w).pitches = s.pitches := rfl
@[simp] theorem State.setWg_keyGen : (s.setWg u w).keyGen = s.keyGen := rfl
@[simp] theorem State.setWg_pasids : (s.setWg u w).pasids = s.pasids := rfl
@[simp] theorem State.setWg_vfs : (s.setWg u w).vfs = s.vfs := rfl
@[simp] theorem State.setWg_queues : (s.setWg u w).queues = s.queues := rfl
@[simp] theorem State.setWg_slots : (s.setWg u w).slots = s.slots := rfl
@[simp] theorem State.setWg_qprogs : (s.setWg u w).qprogs = s.qprogs := rfl
@[simp] theorem State.setWg_served : (s.setWg u w).served = s.served := rfl
@[simp] theorem State.setWg_windowAt : (s.setWg u w).windowAt = s.windowAt := rfl
@[simp] theorem State.setWg_requests : (s.setWg u w).requests = s.requests := rfl
@[simp] theorem State.setWg_doe : (s.setWg u w).doe = s.doe := rfl
@[simp] theorem State.setWg_msix : (s.setWg u w).msix = s.msix := rfl
@[simp] theorem State.setWg_hashCtxs : (s.setWg u w).hashCtxs = s.hashCtxs := rfl
@[simp] theorem State.setWg_meas : (s.setWg u w).meas = s.meas := rfl
@[simp] theorem State.setWg_port : (s.setWg u w).port = s.port := rfl
@[simp] theorem State.setWg_boot : (s.setWg u w).boot = s.boot := rfl
@[simp] theorem State.setWg_busError : (s.setWg u w).busError = s.busError := rfl
@[simp] theorem State.setWg_keyHash : (s.setWg u w).keyHash = s.keyHash := rfl
@[simp] theorem State.setWg_minSvn : (s.setWg u w).minSvn = s.minSvn := rfl
@[simp] theorem State.setWg_devId : (s.setWg u w).devId = s.devId := rfl
@[simp] theorem State.setWg_latch : (s.setWg u w).latch = s.latch := rfl
@[simp] theorem State.setWg_trained : (s.setWg u w).trained = s.trained := rfl
@[simp] theorem State.setWg_pitched : (s.setWg u w).pitched = s.pitched := rfl
@[simp] theorem State.setWg_images : (s.setWg u w).images = s.images := rfl
@[simp] theorem State.setWg_binds : (s.setWg u w).binds = s.binds := rfl
@[simp] theorem State.setWg_window : (s.setWg u w).window = s.window := rfl
@[simp] theorem State.setWg_graphs : (s.setWg u w).graphs = s.graphs := rfl
@[simp] theorem State.setWg_replays : (s.setWg u w).replays = s.replays := rfl
@[simp] theorem State.setWg_surfaces : (s.setWg u w).surfaces = s.surfaces := rfl
@[simp] theorem State.setWg_layers : (s.setWg u w).layers = s.layers := rfl
@[simp] theorem State.setWg_pipes : (s.setWg u w).pipes = s.pipes := rfl
@[simp] theorem State.setWg_lantern : (s.setWg u w).lantern = s.lantern := rfl
@[simp] theorem State.setWg_routePipe : (s.setWg u w).routePipe = s.routePipe := rfl
@[simp] theorem State.setWg_camFrame : (s.setWg u w).camFrame = s.camFrame := rfl
@[simp] theorem State.setWg_camTime : (s.setWg u w).camTime = s.camTime := rfl
@[simp] theorem State.setWg_ueLog : (s.setWg u w).ueLog = s.ueLog := rfl
@[simp] theorem State.setWg_dev3 : (s.setWg u w).dev3 = s.dev3 := rfl
@[simp] theorem State.setWg_challenge : (s.setWg u w).challenge = s.challenge := rfl
@[simp] theorem State.setWg_power : (s.setWg u w).power = s.power := rfl
@[simp] theorem State.setWg_wakeHeld : (s.setWg u w).wakeHeld = s.wakeHeld := rfl
@[simp] theorem State.setWg_clkHalf : (s.setWg u w).clkHalf = s.clkHalf := rfl
@[simp] theorem State.setWg_time : (s.setWg u w).time = s.time := rfl
@[simp] theorem State.setWg_reply : (s.setWg u w).reply = s.reply := rfl
@[simp] theorem State.setWg_stepNo : (s.setWg u w).stepNo = s.stepNo := rfl
@[simp] theorem State.setWg_drbgNo : (s.setWg u w).drbgNo = s.drbgNo := rfl
@[simp] theorem State.setWg_inbox : (s.setWg u w).inbox = s.inbox := rfl
@[simp] theorem State.setWg_focus : (s.setWg u w).focus = s.focus := rfl
end setWg

section setPair
variable (k : Nat) (p : Pair)
@[simp] theorem State.setPair_groups : (s.setPair k p).groups = s.groups := rfl
@[simp] theorem State.setPair_cores : (s.setPair k p).cores = s.cores := rfl
@[simp] theorem State.setPair_wgs : (s.setPair k p).wgs = s.wgs := rfl
@[simp] theorem State.setPair_nbhs : (s.setPair k p).nbhs = s.nbhs := rfl
@[simp] theorem State.setPair_launches : (s.setPair k p).launches = s.launches := rfl
@[simp] theorem State.setPair_nextId : (s.setPair k p).nextId = s.nextId := rfl
@[simp] theorem State.setPair_accs : (s.setPair k p).accs = s.accs := rfl
@[simp] theorem State.setPair_faults : (s.setPair k p).faults = s.faults := rfl
@[simp] theorem State.setPair_copies : (s.setPair k p).copies = s.copies := rfl
@[simp] theorem State.setPair_monitors : (s.setPair k p).monitors = s.monitors := rfl
@[simp] theorem State.setPair_mem : (s.setPair k p).mem = s.mem := rfl
@[simp] theorem State.setPair_keyTags : (s.setPair k p).keyTags = s.keyTags := rfl
@[simp] theorem State.setPair_scrTags : (s.setPair k p).scrTags = s.scrTags := rfl
@[simp] theorem State.setPair_poison : (s.setPair k p).poison = s.poison := rfl
@[simp] theorem State.setPair_l1 : (s.setPair k p).l1 = s.l1 := rfl
@[simp] theorem State.setPair_msc : (s.setPair k p).msc = s.msc := rfl
@[simp] theorem State.setPair_fused : (s.setPair k p).fused = s.fused := rfl
@[simp] theorem State.setPair_l1Tlb : (s.setPair k p).l1Tlb = s.l1Tlb := rfl
@[simp] theorem State.setPair_baseTlb : (s.setPair k p).baseTlb = s.baseTlb := rfl
@[simp] theorem State.setPair_lastPage : (s.setPair k p).lastPage = s.lastPage := rfl
@[simp] theorem State.setPair_ports : (s.setPair k p).ports = s.ports := rfl
@[simp] theorem State.setPair_ide : (s.setPair k p).ide = s.ide := rfl
@[simp] theorem State.setPair_atomicReq : (s.setPair k p).atomicReq = s.atomicReq := rfl
@[simp] theorem State.setPair_atsReqs : (s.setPair k p).atsReqs = s.atsReqs := rfl
@[simp] theorem State.setPair_atsCache : (s.setPair k p).atsCache = s.atsCache := rfl
@[simp] theorem State.setPair_comms : (s.setPair k p).comms = s.comms := rfl
@[simp] theorem State.setPair_pairs : (s.setPair k p).pairs = s.pairs.set k p := rfl
@[simp] theorem State.setPair_audits : (s.setPair k p).audits = s.audits := rfl
@[simp] theorem State.setPair_errs : (s.setPair k p).errs = s.errs := rfl
@[simp] theorem State.setPair_failCh : (s.setPair k p).failCh = s.failCh := rfl
@[simp] theorem State.setPair_retCh : (s.setPair k p).retCh = s.retCh := rfl
@[simp] theorem State.setPair_retPipe : (s.setPair k p).retPipe = s.retPipe := rfl
@[simp] theorem State.setPair_pitches : (s.setPair k p).pitches = s.pitches := rfl
@[simp] theorem State.setPair_keyGen : (s.setPair k p).keyGen = s.keyGen := rfl
@[simp] theorem State.setPair_pasids : (s.setPair k p).pasids = s.pasids := rfl
@[simp] theorem State.setPair_vfs : (s.setPair k p).vfs = s.vfs := rfl
@[simp] theorem State.setPair_queues : (s.setPair k p).queues = s.queues := rfl
@[simp] theorem State.setPair_slots : (s.setPair k p).slots = s.slots := rfl
@[simp] theorem State.setPair_qprogs : (s.setPair k p).qprogs = s.qprogs := rfl
@[simp] theorem State.setPair_served : (s.setPair k p).served = s.served := rfl
@[simp] theorem State.setPair_windowAt : (s.setPair k p).windowAt = s.windowAt := rfl
@[simp] theorem State.setPair_requests : (s.setPair k p).requests = s.requests := rfl
@[simp] theorem State.setPair_doe : (s.setPair k p).doe = s.doe := rfl
@[simp] theorem State.setPair_msix : (s.setPair k p).msix = s.msix := rfl
@[simp] theorem State.setPair_hashCtxs : (s.setPair k p).hashCtxs = s.hashCtxs := rfl
@[simp] theorem State.setPair_meas : (s.setPair k p).meas = s.meas := rfl
@[simp] theorem State.setPair_port : (s.setPair k p).port = s.port := rfl
@[simp] theorem State.setPair_boot : (s.setPair k p).boot = s.boot := rfl
@[simp] theorem State.setPair_busError : (s.setPair k p).busError = s.busError := rfl
@[simp] theorem State.setPair_keyHash : (s.setPair k p).keyHash = s.keyHash := rfl
@[simp] theorem State.setPair_minSvn : (s.setPair k p).minSvn = s.minSvn := rfl
@[simp] theorem State.setPair_devId : (s.setPair k p).devId = s.devId := rfl
@[simp] theorem State.setPair_latch : (s.setPair k p).latch = s.latch := rfl
@[simp] theorem State.setPair_trained : (s.setPair k p).trained = s.trained := rfl
@[simp] theorem State.setPair_pitched : (s.setPair k p).pitched = s.pitched := rfl
@[simp] theorem State.setPair_images : (s.setPair k p).images = s.images := rfl
@[simp] theorem State.setPair_binds : (s.setPair k p).binds = s.binds := rfl
@[simp] theorem State.setPair_window : (s.setPair k p).window = s.window := rfl
@[simp] theorem State.setPair_graphs : (s.setPair k p).graphs = s.graphs := rfl
@[simp] theorem State.setPair_replays : (s.setPair k p).replays = s.replays := rfl
@[simp] theorem State.setPair_surfaces : (s.setPair k p).surfaces = s.surfaces := rfl
@[simp] theorem State.setPair_layers : (s.setPair k p).layers = s.layers := rfl
@[simp] theorem State.setPair_pipes : (s.setPair k p).pipes = s.pipes := rfl
@[simp] theorem State.setPair_lantern : (s.setPair k p).lantern = s.lantern := rfl
@[simp] theorem State.setPair_routePipe : (s.setPair k p).routePipe = s.routePipe := rfl
@[simp] theorem State.setPair_camFrame : (s.setPair k p).camFrame = s.camFrame := rfl
@[simp] theorem State.setPair_camTime : (s.setPair k p).camTime = s.camTime := rfl
@[simp] theorem State.setPair_ueLog : (s.setPair k p).ueLog = s.ueLog := rfl
@[simp] theorem State.setPair_dev3 : (s.setPair k p).dev3 = s.dev3 := rfl
@[simp] theorem State.setPair_challenge : (s.setPair k p).challenge = s.challenge := rfl
@[simp] theorem State.setPair_power : (s.setPair k p).power = s.power := rfl
@[simp] theorem State.setPair_wakeHeld : (s.setPair k p).wakeHeld = s.wakeHeld := rfl
@[simp] theorem State.setPair_clkHalf : (s.setPair k p).clkHalf = s.clkHalf := rfl
@[simp] theorem State.setPair_time : (s.setPair k p).time = s.time := rfl
@[simp] theorem State.setPair_reply : (s.setPair k p).reply = s.reply := rfl
@[simp] theorem State.setPair_stepNo : (s.setPair k p).stepNo = s.stepNo := rfl
@[simp] theorem State.setPair_drbgNo : (s.setPair k p).drbgNo = s.drbgNo := rfl
@[simp] theorem State.setPair_inbox : (s.setPair k p).inbox = s.inbox := rfl
@[simp] theorem State.setPair_focus : (s.setPair k p).focus = s.focus := rfl
end setPair

section setQrec
variable (q : Nat) (r : QRec)
@[simp] theorem State.setQrec_groups : (s.setQrec q r).groups = s.groups := rfl
@[simp] theorem State.setQrec_cores : (s.setQrec q r).cores = s.cores := rfl
@[simp] theorem State.setQrec_wgs : (s.setQrec q r).wgs = s.wgs := rfl
@[simp] theorem State.setQrec_nbhs : (s.setQrec q r).nbhs = s.nbhs := rfl
@[simp] theorem State.setQrec_launches : (s.setQrec q r).launches = s.launches := rfl
@[simp] theorem State.setQrec_nextId : (s.setQrec q r).nextId = s.nextId := rfl
@[simp] theorem State.setQrec_accs : (s.setQrec q r).accs = s.accs := rfl
@[simp] theorem State.setQrec_faults : (s.setQrec q r).faults = s.faults := rfl
@[simp] theorem State.setQrec_copies : (s.setQrec q r).copies = s.copies := rfl
@[simp] theorem State.setQrec_monitors : (s.setQrec q r).monitors = s.monitors := rfl
@[simp] theorem State.setQrec_mem : (s.setQrec q r).mem = s.mem := rfl
@[simp] theorem State.setQrec_keyTags : (s.setQrec q r).keyTags = s.keyTags := rfl
@[simp] theorem State.setQrec_scrTags : (s.setQrec q r).scrTags = s.scrTags := rfl
@[simp] theorem State.setQrec_poison : (s.setQrec q r).poison = s.poison := rfl
@[simp] theorem State.setQrec_l1 : (s.setQrec q r).l1 = s.l1 := rfl
@[simp] theorem State.setQrec_msc : (s.setQrec q r).msc = s.msc := rfl
@[simp] theorem State.setQrec_fused : (s.setQrec q r).fused = s.fused := rfl
@[simp] theorem State.setQrec_l1Tlb : (s.setQrec q r).l1Tlb = s.l1Tlb := rfl
@[simp] theorem State.setQrec_baseTlb : (s.setQrec q r).baseTlb = s.baseTlb := rfl
@[simp] theorem State.setQrec_lastPage : (s.setQrec q r).lastPage = s.lastPage := rfl
@[simp] theorem State.setQrec_ports : (s.setQrec q r).ports = s.ports := rfl
@[simp] theorem State.setQrec_ide : (s.setQrec q r).ide = s.ide := rfl
@[simp] theorem State.setQrec_atomicReq : (s.setQrec q r).atomicReq = s.atomicReq := rfl
@[simp] theorem State.setQrec_atsReqs : (s.setQrec q r).atsReqs = s.atsReqs := rfl
@[simp] theorem State.setQrec_atsCache : (s.setQrec q r).atsCache = s.atsCache := rfl
@[simp] theorem State.setQrec_comms : (s.setQrec q r).comms = s.comms := rfl
@[simp] theorem State.setQrec_pairs : (s.setQrec q r).pairs = s.pairs := rfl
@[simp] theorem State.setQrec_audits : (s.setQrec q r).audits = s.audits := rfl
@[simp] theorem State.setQrec_errs : (s.setQrec q r).errs = s.errs := rfl
@[simp] theorem State.setQrec_failCh : (s.setQrec q r).failCh = s.failCh := rfl
@[simp] theorem State.setQrec_retCh : (s.setQrec q r).retCh = s.retCh := rfl
@[simp] theorem State.setQrec_retPipe : (s.setQrec q r).retPipe = s.retPipe := rfl
@[simp] theorem State.setQrec_pitches : (s.setQrec q r).pitches = s.pitches := rfl
@[simp] theorem State.setQrec_keyGen : (s.setQrec q r).keyGen = s.keyGen := rfl
@[simp] theorem State.setQrec_pasids : (s.setQrec q r).pasids = s.pasids := rfl
@[simp] theorem State.setQrec_vfs : (s.setQrec q r).vfs = s.vfs := rfl
@[simp] theorem State.setQrec_queues : (s.setQrec q r).queues = s.queues.set q r := rfl
@[simp] theorem State.setQrec_slots : (s.setQrec q r).slots = s.slots := rfl
@[simp] theorem State.setQrec_qprogs : (s.setQrec q r).qprogs = s.qprogs := rfl
@[simp] theorem State.setQrec_served : (s.setQrec q r).served = s.served := rfl
@[simp] theorem State.setQrec_windowAt : (s.setQrec q r).windowAt = s.windowAt := rfl
@[simp] theorem State.setQrec_requests : (s.setQrec q r).requests = s.requests := rfl
@[simp] theorem State.setQrec_doe : (s.setQrec q r).doe = s.doe := rfl
@[simp] theorem State.setQrec_msix : (s.setQrec q r).msix = s.msix := rfl
@[simp] theorem State.setQrec_hashCtxs : (s.setQrec q r).hashCtxs = s.hashCtxs := rfl
@[simp] theorem State.setQrec_meas : (s.setQrec q r).meas = s.meas := rfl
@[simp] theorem State.setQrec_port : (s.setQrec q r).port = s.port := rfl
@[simp] theorem State.setQrec_boot : (s.setQrec q r).boot = s.boot := rfl
@[simp] theorem State.setQrec_busError : (s.setQrec q r).busError = s.busError := rfl
@[simp] theorem State.setQrec_keyHash : (s.setQrec q r).keyHash = s.keyHash := rfl
@[simp] theorem State.setQrec_minSvn : (s.setQrec q r).minSvn = s.minSvn := rfl
@[simp] theorem State.setQrec_devId : (s.setQrec q r).devId = s.devId := rfl
@[simp] theorem State.setQrec_latch : (s.setQrec q r).latch = s.latch := rfl
@[simp] theorem State.setQrec_trained : (s.setQrec q r).trained = s.trained := rfl
@[simp] theorem State.setQrec_pitched : (s.setQrec q r).pitched = s.pitched := rfl
@[simp] theorem State.setQrec_images : (s.setQrec q r).images = s.images := rfl
@[simp] theorem State.setQrec_binds : (s.setQrec q r).binds = s.binds := rfl
@[simp] theorem State.setQrec_window : (s.setQrec q r).window = s.window := rfl
@[simp] theorem State.setQrec_graphs : (s.setQrec q r).graphs = s.graphs := rfl
@[simp] theorem State.setQrec_replays : (s.setQrec q r).replays = s.replays := rfl
@[simp] theorem State.setQrec_surfaces : (s.setQrec q r).surfaces = s.surfaces := rfl
@[simp] theorem State.setQrec_layers : (s.setQrec q r).layers = s.layers := rfl
@[simp] theorem State.setQrec_pipes : (s.setQrec q r).pipes = s.pipes := rfl
@[simp] theorem State.setQrec_lantern : (s.setQrec q r).lantern = s.lantern := rfl
@[simp] theorem State.setQrec_routePipe : (s.setQrec q r).routePipe = s.routePipe := rfl
@[simp] theorem State.setQrec_camFrame : (s.setQrec q r).camFrame = s.camFrame := rfl
@[simp] theorem State.setQrec_camTime : (s.setQrec q r).camTime = s.camTime := rfl
@[simp] theorem State.setQrec_ueLog : (s.setQrec q r).ueLog = s.ueLog := rfl
@[simp] theorem State.setQrec_dev3 : (s.setQrec q r).dev3 = s.dev3 := rfl
@[simp] theorem State.setQrec_challenge : (s.setQrec q r).challenge = s.challenge := rfl
@[simp] theorem State.setQrec_power : (s.setQrec q r).power = s.power := rfl
@[simp] theorem State.setQrec_wakeHeld : (s.setQrec q r).wakeHeld = s.wakeHeld := rfl
@[simp] theorem State.setQrec_clkHalf : (s.setQrec q r).clkHalf = s.clkHalf := rfl
@[simp] theorem State.setQrec_time : (s.setQrec q r).time = s.time := rfl
@[simp] theorem State.setQrec_reply : (s.setQrec q r).reply = s.reply := rfl
@[simp] theorem State.setQrec_stepNo : (s.setQrec q r).stepNo = s.stepNo := rfl
@[simp] theorem State.setQrec_drbgNo : (s.setQrec q r).drbgNo = s.drbgNo := rfl
@[simp] theorem State.setQrec_inbox : (s.setQrec q r).inbox = s.inbox := rfl
@[simp] theorem State.setQrec_focus : (s.setQrec q r).focus = s.focus := rfl
end setQrec

section setByte
variable (a : Nat) (b : Byte)
@[simp] theorem State.setByte_groups : (s.setByte a b).groups = s.groups := rfl
@[simp] theorem State.setByte_cores : (s.setByte a b).cores = s.cores := rfl
@[simp] theorem State.setByte_wgs : (s.setByte a b).wgs = s.wgs := rfl
@[simp] theorem State.setByte_nbhs : (s.setByte a b).nbhs = s.nbhs := rfl
@[simp] theorem State.setByte_launches : (s.setByte a b).launches = s.launches := rfl
@[simp] theorem State.setByte_nextId : (s.setByte a b).nextId = s.nextId := rfl
@[simp] theorem State.setByte_accs : (s.setByte a b).accs = s.accs := rfl
@[simp] theorem State.setByte_faults : (s.setByte a b).faults = s.faults := rfl
@[simp] theorem State.setByte_copies : (s.setByte a b).copies = s.copies := rfl
@[simp] theorem State.setByte_monitors : (s.setByte a b).monitors = hitMonitors s.monitors a := rfl
@[simp] theorem State.setByte_mem : (s.setByte a b).mem = Tab.put 0 s.mem a b := rfl
@[simp] theorem State.setByte_keyTags : (s.setByte a b).keyTags = s.keyTags := rfl
@[simp] theorem State.setByte_scrTags : (s.setByte a b).scrTags = s.scrTags := rfl
@[simp] theorem State.setByte_poison : (s.setByte a b).poison = s.poison := rfl
@[simp] theorem State.setByte_l1 : (s.setByte a b).l1 = s.l1 := rfl
@[simp] theorem State.setByte_msc : (s.setByte a b).msc = s.msc := rfl
@[simp] theorem State.setByte_fused : (s.setByte a b).fused = s.fused := rfl
@[simp] theorem State.setByte_l1Tlb : (s.setByte a b).l1Tlb = s.l1Tlb := rfl
@[simp] theorem State.setByte_baseTlb : (s.setByte a b).baseTlb = s.baseTlb := rfl
@[simp] theorem State.setByte_lastPage : (s.setByte a b).lastPage = s.lastPage := rfl
@[simp] theorem State.setByte_ports : (s.setByte a b).ports = s.ports := rfl
@[simp] theorem State.setByte_ide : (s.setByte a b).ide = s.ide := rfl
@[simp] theorem State.setByte_atomicReq : (s.setByte a b).atomicReq = s.atomicReq := rfl
@[simp] theorem State.setByte_atsReqs : (s.setByte a b).atsReqs = s.atsReqs := rfl
@[simp] theorem State.setByte_atsCache : (s.setByte a b).atsCache = s.atsCache := rfl
@[simp] theorem State.setByte_comms : (s.setByte a b).comms = s.comms := rfl
@[simp] theorem State.setByte_pairs : (s.setByte a b).pairs = s.pairs := rfl
@[simp] theorem State.setByte_audits : (s.setByte a b).audits = s.audits := rfl
@[simp] theorem State.setByte_errs : (s.setByte a b).errs = s.errs := rfl
@[simp] theorem State.setByte_failCh : (s.setByte a b).failCh = s.failCh := rfl
@[simp] theorem State.setByte_retCh : (s.setByte a b).retCh = s.retCh := rfl
@[simp] theorem State.setByte_retPipe : (s.setByte a b).retPipe = s.retPipe := rfl
@[simp] theorem State.setByte_pitches : (s.setByte a b).pitches = s.pitches := rfl
@[simp] theorem State.setByte_keyGen : (s.setByte a b).keyGen = s.keyGen := rfl
@[simp] theorem State.setByte_pasids : (s.setByte a b).pasids = s.pasids := rfl
@[simp] theorem State.setByte_vfs : (s.setByte a b).vfs = s.vfs := rfl
@[simp] theorem State.setByte_queues : (s.setByte a b).queues = s.queues := rfl
@[simp] theorem State.setByte_slots : (s.setByte a b).slots = s.slots := rfl
@[simp] theorem State.setByte_qprogs : (s.setByte a b).qprogs = s.qprogs := rfl
@[simp] theorem State.setByte_served : (s.setByte a b).served = s.served := rfl
@[simp] theorem State.setByte_windowAt : (s.setByte a b).windowAt = s.windowAt := rfl
@[simp] theorem State.setByte_requests : (s.setByte a b).requests = s.requests := rfl
@[simp] theorem State.setByte_doe : (s.setByte a b).doe = s.doe := rfl
@[simp] theorem State.setByte_msix : (s.setByte a b).msix = s.msix := rfl
@[simp] theorem State.setByte_hashCtxs : (s.setByte a b).hashCtxs = s.hashCtxs := rfl
@[simp] theorem State.setByte_meas : (s.setByte a b).meas = s.meas := rfl
@[simp] theorem State.setByte_port : (s.setByte a b).port = s.port := rfl
@[simp] theorem State.setByte_boot : (s.setByte a b).boot = s.boot := rfl
@[simp] theorem State.setByte_busError : (s.setByte a b).busError = s.busError := rfl
@[simp] theorem State.setByte_keyHash : (s.setByte a b).keyHash = s.keyHash := rfl
@[simp] theorem State.setByte_minSvn : (s.setByte a b).minSvn = s.minSvn := rfl
@[simp] theorem State.setByte_devId : (s.setByte a b).devId = s.devId := rfl
@[simp] theorem State.setByte_latch : (s.setByte a b).latch = s.latch := rfl
@[simp] theorem State.setByte_trained : (s.setByte a b).trained = s.trained := rfl
@[simp] theorem State.setByte_pitched : (s.setByte a b).pitched = s.pitched := rfl
@[simp] theorem State.setByte_images : (s.setByte a b).images = s.images := rfl
@[simp] theorem State.setByte_binds : (s.setByte a b).binds = s.binds := rfl
@[simp] theorem State.setByte_window : (s.setByte a b).window = s.window := rfl
@[simp] theorem State.setByte_graphs : (s.setByte a b).graphs = s.graphs := rfl
@[simp] theorem State.setByte_replays : (s.setByte a b).replays = s.replays := rfl
@[simp] theorem State.setByte_surfaces : (s.setByte a b).surfaces = s.surfaces := rfl
@[simp] theorem State.setByte_layers : (s.setByte a b).layers = s.layers := rfl
@[simp] theorem State.setByte_pipes : (s.setByte a b).pipes = s.pipes := rfl
@[simp] theorem State.setByte_lantern : (s.setByte a b).lantern = s.lantern := rfl
@[simp] theorem State.setByte_routePipe : (s.setByte a b).routePipe = s.routePipe := rfl
@[simp] theorem State.setByte_camFrame : (s.setByte a b).camFrame = s.camFrame := rfl
@[simp] theorem State.setByte_camTime : (s.setByte a b).camTime = s.camTime := rfl
@[simp] theorem State.setByte_ueLog : (s.setByte a b).ueLog = s.ueLog := rfl
@[simp] theorem State.setByte_dev3 : (s.setByte a b).dev3 = s.dev3 := rfl
@[simp] theorem State.setByte_challenge : (s.setByte a b).challenge = s.challenge := rfl
@[simp] theorem State.setByte_power : (s.setByte a b).power = s.power := rfl
@[simp] theorem State.setByte_wakeHeld : (s.setByte a b).wakeHeld = s.wakeHeld := rfl
@[simp] theorem State.setByte_clkHalf : (s.setByte a b).clkHalf = s.clkHalf := rfl
@[simp] theorem State.setByte_time : (s.setByte a b).time = s.time := rfl
@[simp] theorem State.setByte_reply : (s.setByte a b).reply = s.reply := rfl
@[simp] theorem State.setByte_stepNo : (s.setByte a b).stepNo = s.stepNo := rfl
@[simp] theorem State.setByte_drbgNo : (s.setByte a b).drbgNo = s.drbgNo := rfl
@[simp] theorem State.setByte_inbox : (s.setByte a b).inbox = s.inbox := rfl
@[simp] theorem State.setByte_focus : (s.setByte a b).focus = s.focus := rfl
end setByte

/-! ### Readings -/

theorem State.core_setCore (n m : Nat) (x : CoreSt) : (s.setCore n x).core m = if n = m then x else s.core m := by
  simp [State.core, Tab.getD, Tab.get?_set]
  split <;> rfl
@[simp] theorem State.core_updGroup (k n : Nat) (f : Group → Group) : (s.updGroup k f).core n = s.core n := rfl
@[simp] theorem State.core_setGroup (k n : Nat) (g : Group) : (s.setGroup k g).core n = s.core n := rfl
theorem State.get?_updGroup (k n : Nat) (f : Group → Group) :
    (s.updGroup k f).groups.get? n = if k = n then (s.groups.get? n).map f else s.groups.get? n := Tab.get?_modify ..
theorem State.get?_setGroup (k n : Nat) (g : Group) :
    (s.setGroup k g).groups.get? n = if k = n then some g else s.groups.get? n := Tab.get?_set ..
@[simp] theorem State.pairOf_setGroup (k n : Nat) (g : Group) : (s.setGroup k g).pairOf n = s.pairOf n := rfl
@[simp] theorem State.pairOf_updGroup (k n : Nat) (f : Group → Group) : (s.updGroup k f).pairOf n = s.pairOf n := rfl
@[simp] theorem State.pairOf_setCore (k n : Nat) (x : CoreSt) : (s.setCore k x).pairOf n = s.pairOf n := rfl
@[simp] theorem State.pairOf_setWg (k n : Nat) (x : Wg) : (s.setWg k x).pairOf n = s.pairOf n := rfl

/-! ### Memory: a read after a write, and the canonical form -/

theorem State.byte_setByte (a x : Nat) (b : Byte) : (s.setByte a b).byte x = if a = x then b else s.byte x := by
  simp only [State.byte, State.setByte_mem, Tab.getD_put]
theorem State.wf_setByte (h : Memory.wf s.mem = true) (a : Nat) (b : Byte) : Memory.wf (s.setByte a b).mem = true :=
  Memory.wf_put h a b
theorem State.wf_rawBytes : ∀ (bs : List Byte) (s : State) (a : Nat), Memory.wf s.mem = true →
    Memory.wf (s.rawBytes a bs).mem = true
  | [], _, _, h => h
  | b :: bs, s, a, h => State.wf_rawBytes bs _ _ (State.wf_setByte s h a b)
theorem State.wf_rawWrite (h : Memory.wf s.mem = true) (a n v : Nat) : Memory.wf (s.rawWrite a n v).mem = true :=
  State.wf_rawBytes _ _ _ h
theorem State.wf_clearRange (h : Memory.wf s.mem = true) (a n : Nat) : Memory.wf (s.clearRange a n).mem = true :=
  Memory.wf_filter h _

theorem Memory.wf_foldl {f : List Host.Cell → Nat → List Host.Cell} (hf : ∀ m k, Memory.wf m = true → Memory.wf (f m k) = true) :
    ∀ (l : List Nat) (m : List Host.Cell), Memory.wf m = true → Memory.wf (l.foldl f m) = true
  | [], _, h => h
  | _ :: l, _, h => Memory.wf_foldl hf l _ (hf _ _ h)
theorem State.wf_mscEvict (h : Memory.wf s.mem = true) (line : Nat) : Memory.wf (s.mscEvict line).mem = true := by
  unfold State.mscEvict
  split
  · exact h
  · exact Memory.wf_foldl (fun m _ hm => Memory.wf_put hm _ _) _ _ h
theorem State.wf_mscForget (h : Memory.wf s.mem = true) : Memory.wf s.mscForget.mem = true := by
  unfold State.mscForget
  generalize (s.msc.filter fun x => isSystem (x.1 * 128)).map (·.1) = l
  induction l generalizing s with
  | nil => exact h
  | cons k l ih => exact ih _ (State.wf_mscEvict _ h k)
@[simp] theorem State.mscClean_mem : s.mscClean.mem = s.mem := rfl
/-- A line of the device's own memory, or one in which nothing has changed beneath, leaves memory as it reads. -/
theorem State.mem_mscEvict (line : Nat)
    (h : (targetOf (line * 128)).port.isNone = true ∨ ∀ l, s.msc.get? line = some l → l.stale = 0) :
    (s.mscEvict line).mem = s.mem := by
  unfold State.mscEvict
  split
  · rfl
  · rename_i l hl
    rcases h with h | h
    · simp only [h, if_true, List.foldl_nil]
    · have none : ((List.range 128).filter fun k => l.stale.getLsbD k && !l.dirty.getLsbD k) = [] := by
        rw [List.filter_eq_nil_iff]
        simp [h l hl]
      simp only [none, ite_self, List.foldl_nil]
theorem State.wf_setFarByte (h : Memory.wf s.mem = true) (a : Nat) (b : Byte) : Memory.wf (s.setFarByte a b).mem = true := by
  unfold State.setFarByte
  split
  · exact h
  · exact State.wf_setByte _ h a b
theorem State.wf_mscFill (h : Memory.wf s.mem = true) (key a : Nat) : Memory.wf (s.mscFill key a).mem = true := by
  unfold State.mscFill
  dsimp only
  repeat' split
  all_goals first
    | exact h
    | exact State.wf_mscEvict _ h _
theorem State.wf_mscMark (h : Memory.wf s.mem = true) (a : Nat) : Memory.wf (s.mscMark a).mem = true := by
  unfold State.mscMark
  dsimp only
  repeat' split
  all_goals exact h
theorem State.wf_mscDrop (h : Memory.wf s.mem = true) (line : Nat) (keep : Nat → Bool) :
    Memory.wf (s.mscDrop line keep).mem = true := by
  unfold State.mscDrop
  split
  · exact h
  · exact Memory.wf_foldl (fun m _ hm => Memory.wf_put hm _ _) _ _ (State.wf_mscEvict _ h line)
/-- The write of a byte of memory wherever it lies keeps the canonical form. -/
theorem State.wf_setDramByte (h : Memory.wf s.mem = true) (key a : Nat) (b : Byte) :
    Memory.wf (s.setDramByte key a b).mem = true := by
  unfold State.setDramByte
  split
  · refine State.wf_setByte _ (State.wf_mscMark _ ?_ a) a b
    split
    · split
      · exact h
      · exact State.wf_rawBytes _ _ _ h
    · exact h
  · exact State.wf_setByte _ (State.wf_mscMark _ h a) a b
  · exact State.wf_setByte _ (State.wf_mscMark _ h a) a b
  · exact h
theorem State.wf_setMemByte (h : Memory.wf s.mem = true) (key a : Nat) (b : Byte) :
    Memory.wf (s.setMemByte key a b).mem = true := State.wf_setDramByte _ (State.wf_mscFill _ h key a) key a b
theorem State.wf_setPastL1 (h : Memory.wf s.mem = true) (key cache scope a : Nat) (b : Byte) :
    Memory.wf (s.setPastL1 key cache scope a b).mem = true := by
  unfold State.setPastL1
  split
  · exact State.wf_setDramByte _ (State.wf_mscEvict _ h _) key a b
  · split
    · exact State.wf_setDramByte _ h key a b
    · exact State.wf_setMemByte _ h key a b
theorem State.wf_foldl {α : Type} {f : State → α → State} (hf : ∀ s x, Memory.wf s.mem = true → Memory.wf (f s x).mem = true) :
    ∀ (l : List α) (s : State), Memory.wf s.mem = true → Memory.wf (l.foldl f s).mem = true
  | [], _, h => h
  | _ :: l, _, h => State.wf_foldl hf l _ (hf _ _ h)
@[simp] theorem State.clearPoison_mem (l : List Nat) : (s.clearPoison l).mem = s.mem := by unfold State.clearPoison; split <;> rfl
/-- What leaves an L1, a combining buffer or a slice keeps the canonical form. -/
theorem State.wf_writeBack (h : Memory.wf s.mem = true) (a : Nat) (l : L1Line) : Memory.wf (s.writeBack a l).mem = true := by
  simp only [State.writeBack, State.clearPoison_mem]
  exact State.wf_foldl (fun s _ h => State.wf_setMemByte s h ..) _ _ h
theorem State.wf_evictL1 (h : Memory.wf s.mem = true) (k : Nat) : Memory.wf (s.evictL1 k).mem = true := by
  unfold State.evictL1
  split
  · exact State.wf_writeBack _ h _ _
  · exact h
theorem State.wf_drainWc (h : Memory.wf s.mem = true) (p : Nat → Bool) : Memory.wf (s.drainWc p).mem = true := by
  unfold State.drainWc
  dsimp only
  split
  · exact h
  · rw [State.clearPoison_mem]
    exact State.wf_foldl (fun s _ h => State.wf_setPastL1 _ (State.wf_evictL1 s h _) ..) _ _ h
/-- A buffer that holds nothing drains to nothing. -/
theorem State.drainWc_nil (h : s.wc = []) (p : Nat → Bool) : s.drainWc p = s := by simp [State.drainWc, h]
theorem State.combine_mem (core key a : Nat) (b : Byte)
    (h : s.wc.all (fun x => x.1 / 128 != wcKey core a / 128 || x.2.key == key) = true) :
    (s.combine core key a b).mem = s.mem := by simp [State.combine, h]
theorem State.wf_flushLine (h : Memory.wf s.mem = true) (core a : Nat) : Memory.wf (s.flushLine core a).mem = true :=
  State.wf_evictL1 _ (State.wf_drainWc s h _) _
theorem State.wf_mscTouch (h : Memory.wf s.mem = true) (key a : Nat) : Memory.wf (s.mscTouch key a).mem = true := by
  unfold State.mscTouch
  split
  · exact h
  · exact State.wf_mscFill s h key a
theorem State.wf_fillLine (h : Memory.wf s.mem = true) (core key a : Nat) : Memory.wf (s.fillLine core key a).mem = true := by
  have room : Memory.wf (s.makeRoom core a).mem = true := by
    unfold State.makeRoom
    dsimp only
    split
    · exact h
    · exact State.wf_evictL1 s h _
  unfold State.fillLine
  dsimp only
  split
  · split
    · exact h
    · exact State.wf_mscTouch _ (State.wf_flushLine s h core a) key a
  · exact State.wf_mscTouch _ room key a
theorem State.wf_storeByte (h : Memory.wf s.mem = true) (core key cache scope a : Nat) (b : Byte) :
    Memory.wf (s.storeByte core key cache scope a b).mem = true := by
  have d := State.wf_drainWc s h fun k => k / 128 == wcKey core a / 128
  unfold State.storeByte
  dsimp only
  split
  · unfold State.combine
    dsimp only
    split
    · exact h
    · exact d
  · split
    · split
      · exact State.wf_fillLine _ d core key a
      · exact State.wf_fillLine _ d core key a
    · split
      · exact State.wf_setPastL1 _ (State.wf_flushLine _ d core a) ..
      · refine State.wf_setPastL1 _ ?_ ..
        split
        · split
          · exact d
          · exact State.wf_flushLine _ d core a
        · exact d
/-- And so does the write of a byte of scratchpad. -/
theorem State.wf_setScrByte (h : Memory.wf s.mem = true) (core key ofs : Nat) (b : Byte) :
    Memory.wf (s.setScrByte core key ofs b).mem = true := by
  unfold State.setScrByte
  dsimp only
  refine State.wf_setByte _ ?_ _ b
  repeat' split
  all_goals first
    | exact h
    | exact State.wf_clearRange _ h _ _
/-- A write of bytes leaves every byte outside their range. -/
theorem State.byte_rawBytes_out : ∀ (bs : List Byte) (s : State) (a x : Nat), (x < a ∨ a + bs.length ≤ x) →
    (s.rawBytes a bs).byte x = s.byte x
  | [], _, _, _, _ => rfl
  | b :: bs, s, a, x, h => by
    simp only [List.length_cons] at h
    rw [State.rawBytes, State.byte_rawBytes_out bs _ _ _ (by omega), State.byte_setByte, if_neg (by omega)]
/-- A write of bytes is read back byte by byte. -/
theorem State.byte_rawBytes (bs : List Byte) : ∀ (s : State) (a k : Nat), k < bs.length →
    (s.rawBytes a bs).byte (a + k) = bs.getD k 0 := by
  induction bs with
  | nil => intro s a k h; simp at h
  | cons b bs ih =>
    intro s a k h
    cases k with
    | zero => rw [State.rawBytes, State.byte_rawBytes_out bs _ _ _ (by omega), State.byte_setByte, if_pos (by omega)]; simp
    | succ k =>
      rw [State.rawBytes, show a + (k + 1) = a + 1 + k by omega, ih _ _ _ (by simpa using h)]; simp

end Sys2Proof.Machine
end

