-- ==== Sys2Proof/Laws/Issue.lean ====
section
/-! SUPPORT. The law of issuing a word: under `State.Issues` a word whose body ends in a next state leaves that state
with the group moved on and the core's counters advanced, and nothing else. -/

namespace Sys2Proof.Machine

/-! ### Contexts -/

theorem State.ctxOf_eq {s : State} {core slot plane : Nat} {cong : Bool} {c : Ctx} (h : s.ctxOf core slot plane cong = some c) :
    s.groups.get? (gid core slot) = some c.g ∧ c.g.ended = false ∧ s.wgs.get? c.g.wg = some c.w ∧ c.core = core ∧
      c.slot = slot ∧ c.k = gid core slot ∧ c.plane = plane ∧ c.clk = [] ∧ c.regs = s.readRegs core slot c.g.regs ∧
      c.lanes = (if cong then c.g.exec else c.g.active plane) := by
  simp only [State.ctxOf] at h
  split at h
  · next g hg =>
    split at h
    · cases h
    · next he =>
      cases hw : s.wgs.get? g.wg with
      | none => rw [hw] at h; cases h
      | some w =>
        rw [hw] at h
        injection h with h
        subst h
        exact ⟨hg, by simpa using he, hw, rfl, rfl, rfl, rfl, rfl, rfl, rfl⟩
  · cases h

theorem State.readRegs_sound {s : State} {core slot : Nat} (r : Regs) (h : (s.core core).inject = none) :
    s.readRegs core slot r = r := by simp [State.readRegs, h]

/-- What the focused plane's context holds when its word issues. -/
theorem State.Reaches.spec {s : State} {i : Instr} {c : Ctx} (h : s.Reaches i c) :
    s.focus = .group c.core c.slot c.plane ∧ s.groups.get? c.k = some c.g ∧ c.g.ended = false ∧
      s.wgs.get? c.g.wg = some c.w ∧ c.k = gid c.core c.slot ∧ c.clk = [] ∧ c.regs = c.g.regs ∧
      c.lanes = (if i.congruent then c.g.exec else c.g.active c.plane) := by
  have hh := h.here
  unfold State.ctx? at hh
  split at hh
  · next core slot plane hf =>
    obtain ⟨h1, h2, h3, h4, h5, h6, h7, h8, h9, h10⟩ := State.ctxOf_eq hh
    have hs := h.sound
    subst h4 h5 h7
    refine ⟨hf, h6 ▸ h1, h2, h3, h6, h8, ?_, h10⟩
    rw [h9, State.readRegs_sound _ hs]
  · cases hh

theorem State.Issues.spec {s : State} {i : Instr} {c : Ctx} (h : s.Issues i c) :
    s.focus = .group c.core c.slot c.plane ∧ s.groups.get? c.k = some c.g ∧ c.g.ended = false ∧
      s.wgs.get? c.g.wg = some c.w ∧ c.k = gid c.core c.slot ∧ c.clk = [] ∧ c.regs = c.g.regs ∧
      c.lanes = (if i.congruent then c.g.exec else c.g.active c.plane) := h.toReaches.spec

/-- A word without an encoding cause passes every check (R51, R112, R129). -/
theorem legal_checks {i : Instr} {w : Wg} (h : encodingCause i w = none) :
    pairIllegal i = false ∧ i.modOk = true ∧ i.operandsOk = true ∧ (wordSpans i).all w.inBudget = true ∧
      extMissing i = false := by
  unfold encodingCause at h
  cases h1 : pairIllegal i <;> cases h2 : i.modOk <;> cases h3 : i.operandsOk <;>
    cases h4 : (wordSpans i).all w.inBudget <;> cases h5 : extMissing i <;> simp_all

/-- A word that raises no encoding cause at its place raises none by itself (R228). -/
theorem Ctx.wordCause_none {c : Ctx} {s : State} {i : Instr} (h : c.wordCause s i = none) :
    encodingCause i c.w = none ∧ (takesFollowOn i = true → c.noFollowOn s c.plane = false) := by
  unfold Ctx.wordCause at h
  split at h
  · cases h
  · next hf => exact ⟨h, fun ht => by simpa [ht] using hf⟩

/-! ### The course of an issue -/

theorem State.aheadOfLead_alone {s : State} {g : Group} (h : s.pairOf g.wg = none) : s.aheadOfLead g = false := by
  simp [State.aheadOfLead, h]

theorem State.pairOf_congr {s t : State} (h : t.pairs = s.pairs) (w : Nat) : t.pairOf w = s.pairOf w := by
  simp [State.pairOf, h]

/-- A word that issues ends as its body does. -/
theorem issue_eq {s : State} {i : Instr} {c : Ctx} (h : s.Reaches i c) (body : State → Ctx → Res)
    (clk : ∀ l, body s { c with clk := l } = body s { c with clk := [] } ∨
      l ≠ [BitVec.ofNat 64 (s.core c.core).cycle, BitVec.ofNat 64 s.time, groupReg c.w c.g]) :
    issue i s body = .next (c.finish s i i.congruent (body s c)) := by
  have hc : c.clk = [] := h.spec.2.2.2.2.2.1
  have hcc : ({ c with clk := [] } : Ctx) = c := by cases c; simp_all
  unfold issue
  simp only [h.here, State.aheadOfLead_alone h.alone, h.legal, h.ready, Bool.false_eq_true, if_false]
  split
  · simp only [Ctx.shared, h.alone]
    rcases clk [BitVec.ofNat 64 (s.core c.core).cycle, BitVec.ofNat 64 s.time, groupReg c.w c.g] with e | e
    · rw [e, hcc]
    · exact absurd rfl e
  · rfl

theorem Ctx.counted_alone {c : Ctx} {s : State} (h : s.pairOf c.g.wg = none) : c.counted s = s := by
  simp [Ctx.counted, State.counted, h]

/-- `OnlyGroup` starts from any state that differs from `s` in that group alone. -/
theorem State.OnlyGroup.trans_left {s s1 t : State} {i : Instr} {c : Ctx} {g : Group}
    (h : s1.OnlyGroup t i c g) (hr : s1 = { s with groups := s1.groups })
    (ho : ∀ k, k ≠ c.k → s1.groups.get? k = s.groups.get? k) : s.OnlyGroup t i c g := by
  have hc : ∀ n, s1.core n = s.core n := by intro n; rw [hr]; rfl
  refine ⟨?_, h.group, fun k hk => (h.others k hk).trans (ho k hk), ?_, fun n hn => (h.cores n hn).trans (hc n)⟩
  · have e := h.rest
    rw [hr] at e
    exact e
  · rw [h.core, hc]

theorem State.injectWrite_sound {s : State} {core slot : Nat} (o : BitVec 24) (w : List (RegSpan × Mask))
    (h : (s.core core).inject = none) : s.injectWrite core slot o w = s := by simp [State.injectWrite, h]
theorem State.injectRead_sound {s : State} {core slot : Nat} (i : Instr)
    (h : (s.core core).inject = none) : s.injectRead core slot i = s := by simp [State.injectRead, h]

/-- What issuing leaves on the group and on its core. -/
theorem Ctx.stamped_spec {c : Ctx} {s : State} (i : Instr) {g : Group} (hg : s.groups.get? c.k = some g)
    (hi : (s.core c.core).inject = none) :
    s.OnlyGroup (c.stamped s i) i c (g.issued i s.stepNo) := by
  have key : c.stamped s i = if isPnop i then s.updGroup c.k (fun g => { g with heldTrap := false })
      else c.noted (s.updGroup c.k fun g => { g with heldTrap := false }) := by
    have hn : ((if isPnop i then s.updGroup c.k (fun g => { g with heldTrap := false })
        else c.noted (s.updGroup c.k fun g => { g with heldTrap := false })).core c.core).inject = none := by
      split
      · exact hi
      · simpa [Ctx.noted, State.core_setCore] using hi
    simp only [Ctx.stamped]
    rw [State.injectWrite_sound (h := hn), ite_self, State.injectRead_sound (h := hn)]
  rw [key]
  cases hp : isPnop i with
  | true =>
    rw [if_pos rfl]
    refine ⟨rfl, ?_, ?_, ?_, fun n _ => rfl⟩
    · simp [Tab.get?_modify, hg, Group.issued, hp]
    · intro k hk; simp [Tab.get?_modify, Ne.symm hk]
    · simp [CoreSt.counts, hp]
  | false =>
    rw [if_neg Bool.false_ne_true]
    refine ⟨rfl, ?_, ?_, ?_, ?_⟩
    · simp [Ctx.noted, Tab.get?_modify, hg, Group.issued, hp]
    · intro k hk; simp [Ctx.noted, Tab.get?_modify, Ne.symm hk]
    · rw [Ctx.noted, State.core_setCore, if_pos rfl, CoreSt.counts, hp]; rfl
    · intro n hn; simp [Ctx.noted, State.core_setCore, Ne.symm hn]

/-- Moving past a word, where an offset lies behind. -/
theorem Ctx.goOn_spec {c : Ctx} {s : State} (cong : Bool) {g : Group} {w : Wg} (hg : s.groups.get? c.k = some g)
    (he : g.ended = false) (hw : s.wgs.get? g.wg = some w) (hl : g.ofs.toNat + 1 < w.desc.len) :
    c.goOn s cong = s.setGroup c.k (if cong then g.onward else g.past c.plane) := by
  have adv : ∀ g1 : Group, g1.wg = g.wg → g1.ofs = g.ofs → ∀ t : State, t.groups.get? c.k = some g1 →
      t.wgs.get? g1.wg = some w → t.advance c.k =
        t.setGroup c.k { g1 with ofs := g1.ofs + 1, exec := g1.execNext, planes := g1.planesNext, todo := none,
                                 captured := g1.capturedNext, capturedNext := 0 } := by
    intro g1 _ ho t ht hw1
    unfold State.advance
    simp only [ht, hw1, ho]
    rw [if_neg (by omega)]
  have twice : ∀ (t : State) (a b : Group), (t.setGroup c.k a).setGroup c.k b = t.setGroup c.k b := by
    intro t a b
    simp only [State.setGroup]
    congr 1
    generalize t.groups = T
    induction T with
    | nil => simp [Tab.set]
    | cons e T ih =>
      obtain ⟨k, v⟩ := e
      simp only [Tab.set]
      split
      · next h => subst h; simp [Tab.set]
      · split
        · simp [Tab.set]
        · next h1 h2 => simp [Tab.set, h1, h2, ih]
  unfold Ctx.goOn
  cases cong with
  | true =>
    simp only [if_true, hg]
    rw [adv { g with todo := some 0 } rfl rfl _ (by simp [State.setGroup]) (by exact hw), twice]
    rfl
  | false =>
    have e : s.planeDone c.k c.plane = if (g.todo.getD 0) &&& ~~~(1#8 <<< c.plane) = 0 then
        (s.setGroup c.k { g with todo := some 0 }).advance c.k
        else s.setGroup c.k { g with todo := some ((g.todo.getD 0) &&& ~~~(1#8 <<< c.plane)) } := by
      unfold State.planeDone; rw [hg]; simp only [he]; rfl
    rw [if_neg Bool.false_ne_true, if_neg Bool.false_ne_true, e, Group.past]
    by_cases hz : (g.todo.getD 0) &&& ~~~(1#8 <<< c.plane) = 0
    · rw [if_pos hz, adv { g with todo := some 0 } rfl rfl _ (by simp [State.setGroup]) (by exact hw), twice]
      simp only [hz, if_true]
    · rw [if_neg hz]; simp only [hz, if_false]

/-- A word whose body ends in a next state: that state, with the group behind the word and the issue counted. -/
theorem issue_next {s s' : State} {i : Instr} {c : Ctx} (h : s.Reaches i c) {body : State → Ctx → Res} {g : Group} {w : Wg}
    (clk : ∀ l, body s { c with clk := l } = body s { c with clk := [] } ∨
      l ≠ [BitVec.ofNat 64 (s.core c.core).cycle, BitVec.ofNat 64 s.time, groupReg c.w c.g])
    (hb : body s c = .next s') (hg : s'.groups.get? c.k = some g) (he : g.ended = false)
    (hw : s'.wgs.get? g.wg = some w) (hl : g.ofs.toNat + 1 < w.desc.len)
    (hp : s'.pairOf c.g.wg = none) (hi : (s'.core c.core).inject = none) :
    ∃ t, issue i s body = .next t ∧ s'.OnlyGroup t i c (g.behind i c.plane s'.stepNo) := by
  have hs := Ctx.stamped_spec (c := c) i hg hi
  have hpr : (c.stamped s' i).pairOf c.g.wg = none := by rw [hs.rest]; exact hp
  have hwg : (c.stamped s' i).wgs.get? (g.issued i s'.stepNo).wg = some w := by rw [hs.rest]; exact hw
  have hgo := Ctx.goOn_spec (c := c) i.congruent hs.group (by exact he) hwg (by exact hl)
  refine ⟨(c.stamped s' i).setGroup c.k (g.behind i c.plane s'.stepNo), ?_, ?_⟩
  · rw [issue_eq h body clk, hb]
    simp only [Ctx.finish, Ctx.issued]
    rw [Ctx.counted_alone hpr, hgo]
    simp only [Ctx.fits, State.pairOf_setGroup, hpr]
    rfl
  · refine ⟨?_, ?_, ?_, hs.core, hs.cores⟩
    · have e := hs.rest
      unfold State.setGroup
      rw [e]
    · simp [State.setGroup]
    · intro k hk
      simp only [State.setGroup]
      rw [Tab.get?_set_ne _ _ hk]
      exact hs.others k hk

/-- A word whose body moves the group itself: that state, with the issue counted. -/
theorem issue_moved {s s' : State} {i : Instr} {c : Ctx} (h : s.Reaches i c) {body : State → Ctx → Res} {g : Group}
    (clk : ∀ l, body s { c with clk := l } = body s { c with clk := [] } ∨
      l ≠ [BitVec.ofNat 64 (s.core c.core).cycle, BitVec.ofNat 64 s.time, groupReg c.w c.g])
    (hb : body s c = .moved s') (hg : s'.groups.get? c.k = some g)
    (hp : s'.pairOf c.g.wg = none) (hi : (s'.core c.core).inject = none) :
    ∃ t, issue i s body = .next t ∧ s'.OnlyGroup t i c (g.issued i s'.stepNo) := by
  have hs := Ctx.stamped_spec (c := c) i hg hi
  have hpr : (c.stamped s' i).pairOf c.g.wg = none := by rw [hs.rest]; exact hp
  refine ⟨c.stamped s' i, ?_, hs⟩
  rw [issue_eq h body clk, hb]
  simp only [Ctx.finish, Ctx.issued]
  rw [Ctx.counted_alone hpr]
  simp only [Ctx.fits, hpr]

/-- A word whose body sets the group and moves it: nothing else changes. -/
theorem issue_goto {s : State} {i : Instr} {c : Ctx} (h : s.Reaches i c) {body : State → Ctx → Res} (g : Group)
    (clk : ∀ l, body s { c with clk := l } = body s { c with clk := [] } ∨
      l ≠ [BitVec.ofNat 64 (s.core c.core).cycle, BitVec.ofNat 64 s.time, groupReg c.w c.g])
    (hb : body s c = .moved (s.setGroup c.k g)) : 
    ∃ t, issue i s body = .next t ∧ s.OnlyGroup t i c (g.issued i s.stepNo) := by
  obtain ⟨t, ht, ho⟩ := issue_moved (g := g) h clk hb (by simp [State.setGroup]) h.alone h.sound
  exact ⟨t, ht, ho.trans_left rfl (by intro k hk; simp [State.setGroup, Tab.get?_set_ne _ _ hk])⟩

/-- A word whose body traps raises that cause. -/
theorem issue_trap {s : State} {i : Instr} {c : Ctx} (h : s.Reaches i c) {body : State → Ctx → Res} {cause : BitVec 8}
    {lanes : Mask} {addr extra : W64}
    (clk : ∀ l, body s { c with clk := l } = body s { c with clk := [] } ∨
      l ≠ [BitVec.ofNat 64 (s.core c.core).cycle, BitVec.ofNat 64 s.time, groupReg c.w c.g])
    (hb : body s c = .trap cause lanes addr extra) :
    issue i s body = .next (c.raise s i.congruent false cause lanes addr extra) := by
  rw [issue_eq h body clk, hb]; rfl

/-- A word whose body changes the group alone. -/
theorem issue_group {s : State} {i : Instr} {c : Ctx} (h : s.Issues i c) {body : State → Ctx → Res} (f : Group → Group)
    (clk : ∀ l, body s { c with clk := l } = body s { c with clk := [] } ∨
      l ≠ [BitVec.ofNat 64 (s.core c.core).cycle, BitVec.ofNat 64 s.time, groupReg c.w c.g])
    (hb : body s c = .next (s.updGroup c.k f))
    (he : (f c.g).ended = false) (hwg : (f c.g).wg = c.g.wg) (ho : (f c.g).ofs = c.g.ofs) :
    ∃ t, issue i s body = .next t ∧ s.OnlyGroup t i c ((f c.g).behind i c.plane s.stepNo) := by
  obtain ⟨_, hg, _, hw, _⟩ := h.spec
  obtain ⟨t, ht, ho⟩ := issue_next (s' := s.updGroup c.k f) (g := f c.g) (w := c.w) h.toReaches clk hb
    (by simp [Tab.get?_modify, hg]) he (by rw [hwg]; exact hw) (by rw [ho]; exact h.onward) h.alone h.sound
  exact ⟨t, ht, ho.trans_left rfl (by intro k hk; simp [Tab.get?_modify, Ne.symm hk])⟩

end Sys2Proof.Machine
end

