-- ==== Sys2Proof/Laws/Alu.lean ====
section
/-! SUPPORT. The law of ALU words: a word whose meaning is the shared ALU course completes with its result alone. -/

namespace Sys2Proof.Machine

/-- The clock registers read alike whether they are sampled for the load-value queue or not (R336). -/
theorem State.sreg_clk {s : State} {c : Ctx} (hc : c.clk = []) (r : SReg) (l : Nat) :
    s.sreg { c with clk := [BitVec.ofNat 64 (s.core c.core).cycle, BitVec.ofNat 64 s.time, groupReg c.w c.g] } r l =
      s.sreg c r l := by
  cases r <;> simp [State.sreg, hc]
theorem State.read64_clk {s : State} {c : Ctx} (hc : c.clk = []) (o : Opnd) (l : Nat) :
    s.read64 { c with clk := [BitVec.ofNat 64 (s.core c.core).cycle, BitVec.ofNat 64 s.time, groupReg c.w c.g] } o l =
      s.read64 c o l := by
  cases o <;> simp [State.read64, State.sreg_clk hc]
theorem State.read32_clk {s : State} {c : Ctx} (hc : c.clk = []) (o : Opnd) (l : Nat) :
    s.read32 { c with clk := [BitVec.ofNat 64 (s.core c.core).cycle, BitVec.ofNat 64 s.time, groupReg c.w c.g] } o l =
      s.read32 c o l := by
  cases o <;> simp [State.read32, State.read64_clk hc]
theorem State.readW_clk {s : State} {c : Ctx} (hc : c.clk = []) (w : Bool) (o : Opnd) (l : Nat) :
    s.readW { c with clk := [BitVec.ofNat 64 (s.core c.core).cycle, BitVec.ofNat 64 s.time, groupReg c.w c.g] } w o l =
      s.readW c w o l := by
  simp [State.readW, State.read64_clk hc, State.read32_clk hc]
theorem State.readF_clk {s : State} {c : Ctx} (hc : c.clk = []) (f : Fmt) (o : Opnd) (l : Nat) :
    s.readF { c with clk := [BitVec.ofNat 64 (s.core c.core).cycle, BitVec.ofNat 64 s.time, groupReg c.w c.g] } f o l =
      s.readF c f o l := by
  cases o <;> simp [State.readF, State.read32_clk hc]
theorem State.readH_clk {s : State} {c : Ctx} (hc : c.clk = []) (f : Fmt) (o : Opnd) (l : Nat) :
    s.readH { c with clk := [BitVec.ofNat 64 (s.core c.core).cycle, BitVec.ofNat 64 s.time, groupReg c.w c.g] } f o l =
      s.readH c f o l := by
  cases o <;> simp [State.readH, State.read32_clk hc]

/-- The context of a word with a clock operand. -/
abbrev Ctx.timed (c : Ctx) (s : State) : Ctx :=
  { c with clk := [BitVec.ofNat 64 (s.core c.core).cycle, BitVec.ofNat 64 s.time, groupReg c.w c.g] }

/-- A body that reads the clocks alike issues alike. -/
theorem clk_of_timed {s : State} {c : Ctx} (hc : c.clk = []) {body : State → Ctx → Res}
    (h : body s (c.timed s) = body s c) :
    ∀ l, body s { c with clk := l } = body s { c with clk := [] } ∨
      l ≠ [BitVec.ofNat 64 (s.core c.core).cycle, BitVec.ofNat 64 s.time, groupReg c.w c.g] := by
  intro l
  by_cases hl : l = [BitVec.ofNat 64 (s.core c.core).cycle, BitVec.ofNat 64 s.time, groupReg c.w c.g]
  · subst hl
    refine .inl (h.trans ?_)
    cases c; simp only at hc; subst hc; rfl
  · exact .inr hl

theorem Ctx.alu_eq (c : Ctx) (s : State) (g : Guard) (d : Opnd) (wide : Bool) (f : Nat → W64) :
    c.alu s g d wide f = .next s ∧ c.part g = 0 ∧ d.isUni = true ∨
      c.alu s g d wide f = .next (s.updRegs c.k (c.aluRegs g d wide f)) := by
  unfold Ctx.alu
  cases hu : d.isUni with
  | true =>
    by_cases hp : c.part g = 0
    · exact .inl ⟨by simp [hp], hp, rfl⟩
    · refine .inr ?_
      have e : c.aluRegs g d wide f = fun r => r.setDst d wide 0 (f 0) := by
        funext r; simp only [Ctx.aluRegs, hu, if_true]; rw [if_neg hp]
      rw [e]; simp only [if_true]; rw [if_neg hp]
  | false =>
    refine .inr ?_
    have e : c.aluRegs g d wide f = fun r =>
        ((lanesOf (c.part g)).map fun l => (l, f l)).foldl (fun r x => r.setDst d wide x.1 x.2) r := by
      funext r; simp only [Ctx.aluRegs, hu, Bool.false_eq_true, if_false, List.foldl_map]
    rw [e]; simp only [Bool.false_eq_true, if_false]

/-- A word that changes the registers of its group alone. -/
theorem leaves_of_updRegs {s : State} {i : Instr} {c : Ctx} {p : Regs → Prop} (h : s.Issues i c) {body : State → Ctx → Res}
    (hx : exec i s = issue i s body) (ht : body s (c.timed s) = body s c) {f : Regs → Regs}
    (hb : body s c = .next (s.updRegs c.k f)) (hp : p (f c.g.regs)) : s.Leaves i c p := by
  obtain ⟨t, e, ho⟩ := issue_group (body := body) h (fun g' => { g' with regs := f g'.regs })
    (clk_of_timed h.spec.2.2.2.2.2.1 ht) hb h.spec.2.2.1 rfl rfl
  exact ⟨_, t, hx.trans e, hp, ho⟩
/-- A word that changes no register. -/
theorem leaves_of_same {s : State} {i : Instr} {c : Ctx} {p : Regs → Prop} (h : s.Issues i c) {body : State → Ctx → Res}
    (hx : exec i s = issue i s body) (ht : body s (c.timed s) = body s c)
    (hb : body s c = .next s) (hp : p c.g.regs) : s.Leaves i c p := by
  obtain ⟨_, hg, he, hw, _, hc, _⟩ := h.spec
  obtain ⟨t, e, ho⟩ := issue_next (body := body) h.toReaches (clk_of_timed hc ht) hb hg he hw h.onward h.alone h.sound
  exact ⟨_, t, hx.trans e, hp, ho⟩

/-- A word that runs the shared ALU course once its operands are seen fit. -/
theorem leaves_of_alu {s : State} {i : Instr} {c : Ctx} {g : Guard} {d : Opnd} {wide : Bool} {f : Nat → W64}
    (h : s.Issues i c) {body : State → Ctx → Res} (hx : exec i s = issue i s body)
    (ht : body s (c.timed s) = body s c) (hb : body s c = c.alu s g d wide f) :
    s.Leaves i c fun r => c.g.regs.Result r d wide (c.part g) f := by
  rcases Ctx.alu_eq c s g d wide f with ⟨e, hp, hu⟩ | e
  · refine leaves_of_same h hx ht (hb.trans e) ?_
    have := c.aluRegs_result g d wide f c.g.regs
    rwa [show c.aluRegs g d wide f c.g.regs = c.g.regs by simp only [Ctx.aluRegs, hu, if_true]; rw [if_pos hp]] at this
  · exact leaves_of_updRegs h hx ht (hb.trans e) (c.aluRegs_result g d wide f c.g.regs)

/-- An ALU word completes: its destination holds the values, and nothing else changes. -/
theorem computes_of_alu {s : State} {i : Instr} {g : Guard} {d : Opnd} {wide : Bool} {f : State → Ctx → Nat → W64}
    (hx : exec i s = issue i s fun s c => c.alu s g d wide (f s c))
    (hf : ∀ c : Ctx, c.clk = [] → ∀ l, f s (c.timed s) l = f s c l) : s.Computes i g d wide (f s) := by
  intro c h _
  refine leaves_of_alu (body := fun s c => c.alu s g d wide (f s c)) h hx ?_ rfl
  show Ctx.alu _ _ _ _ _ _ = _
  rw [show f s (c.timed s) = f s c from funext (hf c h.spec.2.2.2.2.2.1)]; rfl

/-- A result that differs only above what a destination takes is the same result. -/
theorem Regs.Result.congr {r r' : Regs} {d : Opnd} {wide : Bool} {part : Mask} {f f' : Nat → W64}
    (h : r.Result r' d wide part f)
    (hv : d.isVec = true → ∀ l, (f l).truncate 32 = (f' l).truncate 32 ∧ (wide = true → f l = f' l))
    (hu : d.isUni = true → f 0 = f' 0) : r.Result r' d wide part f' := by
  refine ⟨⟨?_, ?_⟩, h.pred⟩
  · intro n l hl
    rw [h.vec n l hl]
    split
    · next h1 => exact (hv h1.1 l).1
    · split
      · next h1 => rw [(hv h1.2.1 l).2 h1.1]
      · rfl
  · intro n
    rw [h.uni n]
    split
    · next h1 => exact hu h1.1
    · rfl

theorem maskFold_getLsbD (p : Nat → Bool) (l : Nat) (hl : l < 32) :
    ∀ (ls : List Nat) (m : Mask), (∀ x ∈ ls, x < 32) →
      (ls.foldl (fun m x => if p x then m ||| (1#32 <<< x) else m) m).getLsbD l =
        (m.getLsbD l || (decide (l ∈ ls) && p l))
  | [], m, _ => by simp
  | x :: ls, m, hb => by
    rw [List.foldl_cons, maskFold_getLsbD p l hl ls _ (fun y hy => hb y (List.mem_cons_of_mem _ hy))]
    have hx : x < 32 := hb x (List.mem_cons_self ..)
    by_cases e : l = x
    · subst e
      cases p l <;> simp [hl]
    · have : (1#32 <<< x).getLsbD l = false := by
        simp only [BitVec.getLsbD_shiftLeft, BitVec.getLsbD_one]
        by_cases h : l < x
        · simp [h]
        · simp; omega
      cases hp : p x <;> simp [this, e]

/-- A word with a predicate destination completes. -/
theorem decides_of_aluP {s : State} {i : Instr} {g : Guard} {d : Opnd} {f : State → Ctx → Nat → Bool}
    (hx : exec i s = issue i s fun s c => c.aluP s g d (f s c))
    (hf : ∀ c : Ctx, c.clk = [] → ∀ l, f s (c.timed s) l = f s c l) : s.Decides i g d (f s) := by
  intro c h
  let bits : Mask := (lanesOf (c.part g)).foldl (fun m l => if f s c l then m ||| (1#32 <<< l) else m) 0
  refine leaves_of_updRegs (body := fun s c => c.aluP s g d (f s c)) h hx ?_
    (f := fun r => r.setPred d.num ((r.pred d.num &&& ~~~(c.part g)) ||| bits)) rfl ⟨⟨?_, ?_⟩, fun _ _ => rfl, fun _ => rfl⟩
  · show Ctx.aluP _ _ _ _ _ = _
    rw [show f s (c.timed s) = f s c from funext (hf c h.spec.2.2.2.2.2.1)]; rfl
  · intro l hl
    rw [Regs.pred_setPred, if_pos rfl]
    rw [BitVec.getLsbD_or, maskFold_getLsbD _ _ hl _ _ (fun x hx => (mem_lanesOf.1 hx).1)]
    simp only [BitVec.getLsbD_and, BitVec.getLsbD_not, hl, decide_true, Bool.true_and, mem_lanesOf, true_and]
    cases hm : (c.part g).getLsbD l <;> simp
  · intro n hn; rw [Regs.pred_setPred, if_neg hn]

end Sys2Proof.Machine
end

