-- ==== Sys2Proof/Laws/Integer.lean ====
section
/-! SUPPORT. Laws of the integer words: what the shared courses of one, two and three operands give, in exact integers or
in raw bits. -/

namespace Sys2Proof.Machine

/-- As `computes_of_alu`, for values that agree in what the destination takes. -/
theorem computes_of_alu_eq {s : State} {i : Instr} {g : Guard} {d : Opnd} {wide : Bool} {f : State → Ctx → Nat → W64}
    {f' : Ctx → Nat → W64} (hx : exec i s = issue i s fun s c => c.alu s g d wide (f s c))
    (hf : ∀ c : Ctx, c.clk = [] → ∀ l, f s (c.timed s) l = f s c l)
    (hv : ∀ c, s.Issues i c → d.isVec = true → ∀ l,
      (f s c l).truncate 32 = (f' c l).truncate 32 ∧ (wide = true → f s c l = f' c l))
    (hu : ∀ c, s.Issues i c → d.isUni = true → f s c 0 = f' c 0) : s.Computes i g d wide f' := by
  intro c h ht
  obtain ⟨r, t, e, hr, ho⟩ := computes_of_alu hx hf c h ht
  exact ⟨r, t, e, hr.congr (hv c h) (hu c h), ho⟩

theorem truncate_ofInt (x : Int) : (BitVec.ofInt 64 x).truncate 32 = BitVec.ofInt 32 x := by
  apply BitVec.eq_of_toNat_eq
  simp only [BitVec.truncate, BitVec.toNat_setWidth, BitVec.toNat_ofInt]
  omega

theorem narrow_eq (w : Nat) (uns sat : Bool) (x : Int) : narrow w uns sat x = BitVec.ofInt w (clamped w uns sat x) := by
  cases sat <;> cases uns <;> simp [narrow, clamped, minOf, maxOf]

theorem readAs_eq {w : Nat} (hw : 0 < w) (uns : Bool) (a : BitVec w) :
    readAs uns a = if uns ∨ a.toNat < 2 ^ (w - 1) then (a.toNat : Int) else (a.toNat : Int) - 2 ^ w := by
  unfold readAs
  cases uns
  · simp only [Bool.false_eq_true, if_false, false_or]
    rw [BitVec.toInt_eq_toNat_cond]
    obtain ⟨k, rfl⟩ : ∃ k, w = k + 1 := ⟨w - 1, by omega⟩
    have e : ((2 ^ (k + 1) : Nat) : Int) = 2 ^ (k + 1) := by norm_cast
    rw [e]
    by_cases h : a.toNat < 2 ^ k
    · rw [if_pos (by rw [Nat.pow_succ]; omega), if_pos (by simpa using h)]
    · rw [if_neg (by rw [Nat.pow_succ]; omega), if_neg (by simpa using h)]
  · simp

theorem State.intOf_narrow (s : State) (c : Ctx) (uns : Bool) (o : Opnd) (l : Nat) :
    s.intOf c false uns o l = readAs uns (s.read32 c o l) := by
  rw [readAs_eq (by decide)]; rfl
theorem State.intOf_wide (s : State) (c : Ctx) (uns : Bool) (o : Opnd) (l : Nat) :
    s.intOf c true uns o l = readAs uns (s.read64 c o l) := by
  rw [readAs_eq (by decide)]; rfl

theorem State.bitsOf_narrow (s : State) (c : Ctx) (o : Opnd) (l : Nat) : s.bitsOf c false o l = (s.read32 c o l).toNat := rfl
theorem State.bitsOf_wide (s : State) (c : Ctx) (o : Opnd) (l : Nat) : s.bitsOf c true o l = (s.read64 c o l).toNat := rfl

theorem truncate_ofNat (x : Nat) : (BitVec.ofNat 64 x).truncate 32 = BitVec.ofNat 32 x := by
  apply BitVec.eq_of_toNat_eq
  simp only [BitVec.truncate, BitVec.toNat_setWidth, BitVec.toNat_ofNat]
  omega

/-- A word that computes at one of two widths gives `T`, if its 64-bit function is `T` and its 32-bit function the low
half of `T`. -/
theorem computes_of_width {s : State} {i : Instr} {g : Guard} {d : Opnd} {wide : Bool} {T : Ctx → Nat → W64}
    (x64 : State → Ctx → Nat → W64) (x32 : State → Ctx → Nat → W32)
    (hx : exec i s = issue i s fun s c => c.alu s g d wide fun l => if wide then x64 s c l else widen false (x32 s c l))
    (k64 : ∀ c : Ctx, c.clk = [] → ∀ l, x64 s (c.timed s) l = x64 s c l)
    (k32 : ∀ c : Ctx, c.clk = [] → ∀ l, x32 s (c.timed s) l = x32 s c l)
    (hu : d.isUni = true → wide = true)
    (h64 : ∀ c, s.Issues i c → wide = true → ∀ l, x64 s c l = T c l)
    (h32 : ∀ c, s.Issues i c → wide = false → ∀ l, x32 s c l = (T c l).truncate 32) : s.Computes i g d wide T := by
  refine computes_of_alu_eq (f := fun s c l => if wide then x64 s c l else widen false (x32 s c l)) hx ?_ ?_ ?_
  · intro c hc l; simp only [k64 c hc, k32 c hc]
  · intro c hi _ l
    cases hw : wide
    · simp only [Bool.false_eq_true, if_false, false_implies, and_true]
      rw [h32 c hi hw]
      simp [widen]
    · simp only [if_true]
      rw [h64 c hi hw]
      exact ⟨rfl, fun _ => rfl⟩
  · intro c hi hd
    simp only [hu hd, if_true]
    exact h64 c hi (hu hd) 0

end Sys2Proof.Machine
end

