-- ==== Sys2Proof/Laws/PerInstr.lean ====
section
/-! SUPPORT. What holds of every instruction as it is written, one lemma for each constructor. -/

namespace Sys2Proof.Laws
open Sys2Proof

theorem class_encFull (opc : BitVec 10) (g : Guard) (low : BitVec 45) : (encFull opc g low).extractLsb' 62 2 = 0 := by
  apply BitVec.eq_of_getLsbD_eq
  intro i hi
  rw [BitVec.getLsbD_extractLsb']
  unfold encFull
  rw [BitVec.getLsbD_append, BitVec.getLsbD_append, BitVec.getLsbD_append, BitVec.getLsbD_append]
  have : i = 0 ∨ i = 1 := by omega
  rcases this with rfl | rfl <;> simp
theorem class_ext (x : BitVec 37) : BitVec.extractLsb' 62 2 ((2 : BitVec 2) ++ (0 : BitVec 25) ++ x : W64) = 2 := by
  apply BitVec.eq_of_getLsbD_eq
  intro i hi
  rw [BitVec.getLsbD_extractLsb', BitVec.getLsbD_append, BitVec.getLsbD_append]
  have : i = 0 ∨ i = 1 := by omega
  rcases this with rfl | rfl <;> simp
theorem class_pair (a b : BitVec 31) : BitVec.extractLsb' 62 2 ((1 : BitVec 2) ++ a ++ b : W64) = 1 := by
  apply BitVec.eq_of_getLsbD_eq
  intro i hi
  rw [BitVec.getLsbD_extractLsb', BitVec.getLsbD_append, BitVec.getLsbD_append]
  have : i = 0 ∨ i = 1 := by omega
  rcases this with rfl | rfl <;> simp

namespace WordClass

/-- The class of what an instruction is written as (R111): a core word of class 0, or 1 for a pair, and an extension word of
class 2 behind it. -/
def Statement (i : Instr) : Prop :=
  match encode i with
  | .core w ext => (w.extractLsb' 62 2 = 0 ∨ w.extractLsb' 62 2 = 1) ∧ ∀ x, ext = some x → x.extractLsb' 62 2 = 2
  | _ => True

theorem of_full {i : Instr} (opc : BitVec 10) (g : Guard) (low : BitVec 45) (h : encode i = .core (encFull opc g low) none) :
    Statement i := by
  simp [Statement, h, class_encFull]
theorem of_ri {i : Instr} (opc : BitVec 10) (w : RI) (h : encode i = encRI opc w) : Statement i := by
  simp only [Statement, h, encRI]
  refine ⟨.inl (class_encFull _ _ _), fun x hx => ?_⟩
  cases hw : w.ext with
  | none => simp [hw] at hx
  | some e =>
    rw [hw] at hx
    cases hx
    exact class_ext e
theorem nop (w : RRR) : Statement (.nop w) := of_full _ _ _ rfl
theorem pnop : Statement (.pnop) := of_full 0x001 .always 0 rfl
theorem bra (w : BR) : Statement (.bra w) := of_full _ _ _ rfl
theorem brc (w : BR) : Statement (.brc w) := of_full _ _ _ rfl
theorem bri (w : RRR) : Statement (.bri w) := of_full _ _ _ rfl
theorem call (w : BR) : Statement (.call w) := of_full _ _ _ rfl
theorem ret (w : RRR) : Statement (.ret w) := of_full _ _ _ rfl
theorem exit (w : RRR) : Statement (.exit w) := of_full _ _ _ rfl
theorem pset (w : RRR) : Statement (.pset w) := of_full _ _ _ rfl
theorem pseti (w : RI) : Statement (.pseti w) := of_ri _ _ rfl
theorem vote (w : RRR) : Statement (.vote w) := of_full _ _ _ rfl
theorem lshf (w : RRR) : Statement (.lshf w) := of_full _ _ _ rfl
theorem lred (w : RRR) : Statement (.lred w) := of_full _ _ _ rfl
theorem plog (w : RRR) : Statement (.plog w) := of_full _ _ _ rfl
theorem pmov (w : RRR) : Statement (.pmov w) := of_full _ _ _ rfl
theorem trap (w : RI) : Statement (.trap w) := of_ri _ _ rfl
theorem tret (w : RRR) : Statement (.tret w) := of_full _ _ _ rfl
theorem csrr (w : RI) : Statement (.csrr w) := of_ri _ _ rfl
theorem csrw (w : RI) : Statement (.csrw w) := of_ri _ _ rfl
theorem clock (w : RRR) : Statement (.clock w) := of_full _ _ _ rfl
theorem clockUntilExpiry (core slot : Nat) : Statement (.clockUntilExpiry core slot) := trivial
theorem chkerr (w : RRR) : Statement (.chkerr w) := of_full _ _ _ rfl
theorem phase (w : RRR) : Statement (.phase w) := of_full _ _ _ rfl
theorem ckpt (w : RRR) : Statement (.ckpt w) := of_full _ _ _ rfl
theorem prefc (w : RI) : Statement (.prefc w) := of_ri _ _ rfl
theorem iadd (w : RRR) : Statement (.iadd w) := of_full _ _ _ rfl
theorem isub (w : RRR) : Statement (.isub w) := of_full _ _ _ rfl
theorem imul (w : RRR) : Statement (.imul w) := of_full _ _ _ rfl
theorem imulh (w : RRR) : Statement (.imulh w) := of_full _ _ _ rfl
theorem imad (w : RRR) : Statement (.imad w) := of_full _ _ _ rfl
theorem imadw (w : RRR) : Statement (.imadw w) := of_full _ _ _ rfl
theorem idiv (w : RRR) : Statement (.idiv w) := of_full _ _ _ rfl
theorem irem (w : RRR) : Statement (.irem w) := of_full _ _ _ rfl
theorem imin (w : RRR) : Statement (.imin w) := of_full _ _ _ rfl
theorem imax (w : RRR) : Statement (.imax w) := of_full _ _ _ rfl
theorem iabs (w : RRR) : Statement (.iabs w) := of_full _ _ _ rfl
theorem ineg (w : RRR) : Statement (.ineg w) := of_full _ _ _ rfl
theorem icmp (w : RRR) : Statement (.icmp w) := of_full _ _ _ rfl
theorem iaddc (w : RRR) : Statement (.iaddc w) := of_full _ _ _ rfl
theorem and (w : RRR) : Statement (.and w) := of_full _ _ _ rfl
theorem or (w : RRR) : Statement (.or w) := of_full _ _ _ rfl
theorem xor (w : RRR) : Statement (.xor w) := of_full _ _ _ rfl
theorem andn (w : RRR) : Statement (.andn w) := of_full _ _ _ rfl
theorem not (w : RRR) : Statement (.not w) := of_full _ _ _ rfl
theorem shl (w : RRR) : Statement (.shl w) := of_full _ _ _ rfl
theorem shr (w : RRR) : Statement (.shr w) := of_full _ _ _ rfl
theorem sar (w : RRR) : Statement (.sar w) := of_full _ _ _ rfl
theorem rol (w : RRR) : Statement (.rol w) := of_full _ _ _ rfl
theorem bfx (w : RRR) : Statement (.bfx w) := of_full _ _ _ rfl
theorem bfi (w : RRR) : Statement (.bfi w) := of_full _ _ _ rfl
theorem popc (w : RRR) : Statement (.popc w) := of_full _ _ _ rfl
theorem clz (w : RRR) : Statement (.clz w) := of_full _ _ _ rfl
theorem ctz (w : RRR) : Statement (.ctz w) := of_full _ _ _ rfl
theorem brev (w : RRR) : Statement (.brev w) := of_full _ _ _ rfl
theorem permb (w : RRR) : Statement (.permb w) := of_full _ _ _ rfl
theorem sel (w : RRR) : Statement (.sel w) := of_full _ _ _ rfl
theorem lea (w : RRR) : Statement (.lea w) := of_full _ _ _ rfl
theorem mov (w : RRR) : Statement (.mov w) := of_full _ _ _ rfl
theorem movi (w : RI) : Statement (.movi w) := of_ri _ _ rfl
theorem dot4 (w : RRR) : Statement (.dot4 w) := of_full _ _ _ rfl
theorem iaddRi (w : RI) : Statement (.iaddRi w) := of_ri _ _ rfl
theorem isubRi (w : RI) : Statement (.isubRi w) := of_ri _ _ rfl
theorem imulRi (w : RI) : Statement (.imulRi w) := of_ri _ _ rfl
theorem iminRi (w : RI) : Statement (.iminRi w) := of_ri _ _ rfl
theorem imaxRi (w : RI) : Statement (.imaxRi w) := of_ri _ _ rfl
theorem icmpRi (w : RI) : Statement (.icmpRi w) := of_ri _ _ rfl
theorem andRi (w : RI) : Statement (.andRi w) := of_ri _ _ rfl
theorem orRi (w : RI) : Statement (.orRi w) := of_ri _ _ rfl
theorem xorRi (w : RI) : Statement (.xorRi w) := of_ri _ _ rfl
theorem shlRi (w : RI) : Statement (.shlRi w) := of_ri _ _ rfl
theorem shrRi (w : RI) : Statement (.shrRi w) := of_ri _ _ rfl
theorem sarRi (w : RI) : Statement (.sarRi w) := of_ri _ _ rfl
theorem rolRi (w : RI) : Statement (.rolRi w) := of_ri _ _ rfl
theorem leaRi (w : RI) : Statement (.leaRi w) := of_ri _ _ rfl
theorem movRi (w : RI) : Statement (.movRi w) := of_ri _ _ rfl
theorem fadd (w : RRR) : Statement (.fadd w) := of_full _ _ _ rfl
theorem fsub (w : RRR) : Statement (.fsub w) := of_full _ _ _ rfl
theorem fmul (w : RRR) : Statement (.fmul w) := of_full _ _ _ rfl
theorem ffma (w : RRR) : Statement (.ffma w) := of_full _ _ _ rfl
theorem fmin (w : RRR) : Statement (.fmin w) := of_full _ _ _ rfl
theorem fmax (w : RRR) : Statement (.fmax w) := of_full _ _ _ rfl
theorem fcmp (w : RRR) : Statement (.fcmp w) := of_full _ _ _ rfl
theorem fclass (w : RRR) : Statement (.fclass w) := of_full _ _ _ rfl
theorem frnd (w : RRR) : Statement (.frnd w) := of_full _ _ _ rfl
theorem frcp (w : RRR) : Statement (.frcp w) := of_full _ _ _ rfl
theorem frsq (w : RRR) : Statement (.frsq w) := of_full _ _ _ rfl
theorem fsqrt (w : RRR) : Statement (.fsqrt w) := of_full _ _ _ rfl
theorem fdiv (w : RRR) : Statement (.fdiv w) := of_full _ _ _ rfl
theorem fexp2 (w : RRR) : Statement (.fexp2 w) := of_full _ _ _ rfl
theorem flog2 (w : RRR) : Statement (.flog2 w) := of_full _ _ _ rfl
theorem fsinr (w : RRR) : Statement (.fsinr w) := of_full _ _ _ rfl
theorem fcosr (w : RRR) : Statement (.fcosr w) := of_full _ _ _ rfl
theorem fscale (w : RRR) : Statement (.fscale w) := of_full _ _ _ rfl
theorem hadd2 (w : RRR) : Statement (.hadd2 w) := of_full _ _ _ rfl
theorem hmul2 (w : RRR) : Statement (.hmul2 w) := of_full _ _ _ rfl
theorem hfma2 (w : RRR) : Statement (.hfma2 w) := of_full _ _ _ rfl
theorem hmin2 (w : RRR) : Statement (.hmin2 w) := of_full _ _ _ rfl
theorem hmax2 (w : RRR) : Statement (.hmax2 w) := of_full _ _ _ rfl
theorem hcmp2 (w : RRR) : Statement (.hcmp2 w) := of_full _ _ _ rfl
theorem faddRi (w : RI) : Statement (.faddRi w) := of_ri _ _ rfl
theorem fmulRi (w : RI) : Statement (.fmulRi w) := of_ri _ _ rfl
theorem ffmaRi (w : RI) : Statement (.ffmaRi w) := of_ri _ _ rfl
theorem fminRi (w : RI) : Statement (.fminRi w) := of_ri _ _ rfl
theorem fmaxRi (w : RI) : Statement (.fmaxRi w) := of_ri _ _ rfl
theorem fcmpRi (w : RI) : Statement (.fcmpRi w) := of_ri _ _ rfl
theorem cvt (w : CVTW) : Statement (.cvt w) := of_full _ _ _ rfl
theorem cvtp (w : RRR) : Statement (.cvtp w) := of_full _ _ _ rfl
theorem qnb8 (w : RRR) : Statement (.qnb8 w) := of_full _ _ _ rfl
theorem dqnb8 (w : RRR) : Statement (.dqnb8 w) := of_full _ _ _ rfl
theorem qmx (w : RRR) : Statement (.qmx w) := of_full _ _ _ rfl
theorem dqmx (w : RRR) : Statement (.dqmx w) := of_full _ _ _ rfl
theorem smax (w : RRR) : Statement (.smax w) := of_full _ _ _ rfl
theorem cvtfx (w : RRR) : Statement (.cvtfx w) := of_full _ _ _ rfl
theorem cvtxf (w : RRR) : Statement (.cvtxf w) := of_full _ _ _ rfl
theorem pairWord (h0 h1 : Half) : Statement (.pairWord h0 h1) := ⟨.inr (class_pair _ _), fun _ h => nomatch h⟩
theorem ld (w : MEM) : Statement (.ld w) := of_full _ _ _ rfl
theorem ldu (w : MEM) : Statement (.ldu w) := of_full _ _ _ rfl
theorem st (w : MEM) : Statement (.st w) := of_full _ _ _ rfl
theorem stu (w : MEM) : Statement (.stu w) := of_full _ _ _ rfl
theorem upd (w : MEM) : Statement (.upd w) := of_full _ _ _ rfl
theorem updr (w : MEM) : Statement (.updr w) := of_full _ _ _ rfl
theorem ucas (w : MEM) : Statement (.ucas w) := of_full _ _ _ rfl
theorem vismax (w : MEM) : Statement (.vismax w) := of_full _ _ _ rfl
theorem fence (w : RRR) : Statement (.fence w) := of_full _ _ _ rfl
theorem rfence (w : RRR) : Statement (.rfence w) := of_full _ _ _ rfl
theorem pref (w : MEM) : Statement (.pref w) := of_full _ _ _ rfl
theorem discard (w : MEM) : Statement (.discard w) := of_full _ _ _ rfl
theorem cpy (w : RRR) : Statement (.cpy w) := of_full _ _ _ rfl
theorem cpyg (w : RRR) : Statement (.cpyg w) := of_full _ _ _ rfl
theorem cpys (w : RRR) : Statement (.cpys w) := of_full _ _ _ rfl
theorem cpyt (w : RRR) : Statement (.cpyt w) := of_full _ _ _ rfl
theorem qfence (w : RRR) : Statement (.qfence w) := of_full _ _ _ rfl
theorem coll (w : RRR) : Statement (.coll w) := of_full _ _ _ rfl
theorem binit (w : RRR) : Statement (.binit w) := of_full _ _ _ rfl
theorem arrive (w : RRR) : Statement (.arrive w) := of_full _ _ _ rfl
theorem expect (w : RRR) : Statement (.expect w) := of_full _ _ _ rfl
theorem waitp (w : RRR) : Statement (.waitp w) := of_full _ _ _ rfl
theorem bpoll (w : RRR) : Statement (.bpoll w) := of_full _ _ _ rfl
theorem mona (w : RRR) : Statement (.mona w) := of_full _ _ _ rfl
theorem monaCancel (w : RRR) : Statement (.monaCancel w) := of_full _ _ _ rfl
theorem bld (w : RRR) : Statement (.bld w) := of_full _ _ _ rfl
theorem mma (w : RRR) : Statement (.mma w) := of_full _ _ _ rfl
theorem mmap (w : RRR) : Statement (.mmap w) := of_full _ _ _ rfl
theorem msa (w : RRR) : Statement (.msa w) := of_full _ _ _ rfl
theorem mzero (w : RRR) : Statement (.mzero w) := of_full _ _ _ rfl
theorem mdr (w : RRR) : Statement (.mdr w) := of_full _ _ _ rfl
theorem mmov (w : RRR) : Statement (.mmov w) := of_full _ _ _ rfl
theorem mmt (w : RRR) : Statement (.mmt w) := of_full _ _ _ rfl
theorem mres (w : RRR) : Statement (.mres w) := of_full _ _ _ rfl
theorem mchk (w : RRR) : Statement (.mchk w) := of_full _ _ _ rfl
theorem mstat (w : RRR) : Statement (.mstat w) := of_full _ _ _ rfl
theorem tex (w : RRR) : Statement (.tex w) := of_full _ _ _ rfl
theorem tld (w : RRR) : Statement (.tld w) := of_full _ _ _ rfl
theorem tgath (w : RRR) : Statement (.tgath w) := of_full _ _ _ rfl
theorem tdim (w : RRR) : Statement (.tdim w) := of_full _ _ _ rfl
theorem ist (w : RRR) : Statement (.ist w) := of_full _ _ _ rfl
theorem hgf (w : RRR) : Statement (.hgf w) := of_full _ _ _ rfl
theorem hgs (w : RRR) : Statement (.hgs w) := of_full _ _ _ rfl
theorem rbox (w : RRR) : Statement (.rbox w) := of_full _ _ _ rfl
theorem rtri (w : RRR) : Statement (.rtri w) := of_full _ _ _ rfl
theorem mvtx (w : RRR) : Statement (.mvtx w) := of_full _ _ _ rfl
theorem mprim (w : RRR) : Statement (.mprim w) := of_full _ _ _ rfl
theorem mcommit (w : RRR) : Statement (.mcommit w) := of_full _ _ _ rfl
theorem qbLdb (d : BitVec 4) (a : BitVec 4) (w : BitVec 4) (o : BitVec 14) : Statement (.qbLdb d a w o) := trivial
theorem qbLdh (d : BitVec 4) (a : BitVec 4) (w : BitVec 4) (o : BitVec 14) : Statement (.qbLdh d a w o) := trivial
theorem qbLdw (d : BitVec 4) (a : BitVec 4) (w : BitVec 4) (o : BitVec 14) : Statement (.qbLdw d a w o) := trivial
theorem qbLdd (d : BitVec 4) (a : BitVec 4) (w : BitVec 4) (o : BitVec 14) : Statement (.qbLdd d a w o) := trivial
theorem qbStb (d : BitVec 4) (a : BitVec 4) (w : BitVec 4) (o : BitVec 14) : Statement (.qbStb d a w o) := trivial
theorem qbSth (d : BitVec 4) (a : BitVec 4) (w : BitVec 4) (o : BitVec 14) : Statement (.qbSth d a w o) := trivial
theorem qbStw (d : BitVec 4) (a : BitVec 4) (w : BitVec 4) (o : BitVec 14) : Statement (.qbStw d a w o) := trivial
theorem qbStd (d : BitVec 4) (a : BitVec 4) (w : BitVec 4) (o : BitVec 14) : Statement (.qbStd d a w o) := trivial
theorem qbAdd (d : BitVec 4) (a : BitVec 4) (b : BitVec 4) : Statement (.qbAdd d a b) := trivial
theorem qbSub (d : BitVec 4) (a : BitVec 4) (b : BitVec 4) : Statement (.qbSub d a b) := trivial
theorem qbAnd (d : BitVec 4) (a : BitVec 4) (b : BitVec 4) : Statement (.qbAnd d a b) := trivial
theorem qbOr (d : BitVec 4) (a : BitVec 4) (b : BitVec 4) : Statement (.qbOr d a b) := trivial
theorem qbXor (d : BitVec 4) (a : BitVec 4) (b : BitVec 4) : Statement (.qbXor d a b) := trivial
theorem qbShl (d : BitVec 4) (a : BitVec 4) (b : BitVec 4) : Statement (.qbShl d a b) := trivial
theorem qbShr (d : BitVec 4) (a : BitVec 4) (b : BitVec 4) : Statement (.qbShr d a b) := trivial
theorem qbMul (d : BitVec 4) (a : BitVec 4) (b : BitVec 4) : Statement (.qbMul d a b) := trivial
theorem qbAddi (d : BitVec 4) (a : BitVec 4) (i : BitVec 18) : Statement (.qbAddi d a i) := trivial
theorem qbAndi (d : BitVec 4) (a : BitVec 4) (i : BitVec 18) : Statement (.qbAndi d a i) := trivial
theorem qbOri (d : BitVec 4) (a : BitVec 4) (i : BitVec 18) : Statement (.qbOri d a i) := trivial
theorem qbXori (d : BitVec 4) (a : BitVec 4) (i : BitVec 18) : Statement (.qbXori d a i) := trivial
theorem qbShli (d : BitVec 4) (a : BitVec 4) (s : BitVec 6) : Statement (.qbShli d a s) := trivial
theorem qbShri (d : BitVec 4) (a : BitVec 4) (s : BitVec 6) : Statement (.qbShri d a s) := trivial
theorem qbMovi (d : BitVec 4) (i : BitVec 18) : Statement (.qbMovi d i) := trivial
theorem qbShlor (d : BitVec 4) (i : BitVec 18) : Statement (.qbShlor d i) := trivial
theorem qbCeq (d : BitVec 4) (a : BitVec 4) (b : BitVec 4) : Statement (.qbCeq d a b) := trivial
theorem qbCne (d : BitVec 4) (a : BitVec 4) (b : BitVec 4) : Statement (.qbCne d a b) := trivial
theorem qbCltu (d : BitVec 4) (a : BitVec 4) (b : BitVec 4) : Statement (.qbCltu d a b) := trivial
theorem qbClts (d : BitVec 4) (a : BitVec 4) (b : BitVec 4) : Statement (.qbClts d a b) := trivial
theorem qbBz (a : BitVec 4) (i : BitVec 18) : Statement (.qbBz a i) := trivial
theorem qbBnz (a : BitVec 4) (i : BitVec 18) : Statement (.qbBnz a i) := trivial
theorem qbJmp (i : BitVec 18) : Statement (.qbJmp i) := trivial
theorem qbLoop (a : BitVec 4) (n : BitVec 6) (l : BitVec 12) : Statement (.qbLoop a n l) := trivial
theorem qbLidx (d : BitVec 4) : Statement (.qbLidx d) := trivial
theorem launch (d : BitVec 4) : Statement (.launch d) := trivial
theorem signal (d : BitVec 4) : Statement (.signal d) := trivial
theorem hash (d : BitVec 4) : Statement (.hash d) := trivial
theorem sign (d : BitVec 4) : Statement (.sign d) := trivial
theorem random (d : BitVec 4) : Statement (.random d) := trivial
theorem doesend (d : BitVec 4) : Statement (.doesend d) := trivial
theorem measread (d : BitVec 4) : Statement (.measread d) := trivial
theorem emit (a : BitVec 4) (w : BitVec 4) (o : BitVec 14) : Statement (.emit a w o) := trivial
theorem halt : Statement (.halt) := trivial
theorem fault (i : BitVec 18) : Statement (.fault i) := trivial
theorem packetStart (hw : Nat) : Statement (.packetStart hw) := trivial
theorem doorbellWrite (addr : BitVec 48) (value : W64) : Statement (.doorbellWrite addr value) := trivial
theorem manifestVerify (blk : W64) : Statement (.manifestVerify blk) := trivial
theorem measExtend (blk : W64) : Statement (.measExtend blk) := trivial
theorem lanternLoad (blk : W64) : Statement (.lanternLoad blk) := trivial
theorem lanternShow (blk : W64) : Statement (.lanternShow blk) := trivial
theorem dramTrain (blk : W64) : Statement (.dramTrain blk) := trivial
theorem pitchCfg (blk : W64) : Statement (.pitchCfg blk) := trivial
theorem pitchRemove (blk : W64) : Statement (.pitchRemove blk) := trivial
theorem pitchCoreCleared : Statement (.pitchCoreCleared) := trivial
theorem qprogLoad (blk : W64) : Statement (.qprogLoad blk) := trivial
theorem imageMap (blk : W64) : Statement (.imageMap blk) := trivial
theorem tlbInval (blk : W64) : Statement (.tlbInval blk) := trivial
theorem pasidSet (blk : W64) : Statement (.pasidSet blk) := trivial
theorem pasidClose (blk : W64) : Statement (.pasidClose blk) := trivial
theorem pasidDrainAck : Statement (.pasidDrainAck) := trivial
theorem commCfg (blk : W64) : Statement (.commCfg blk) := trivial
theorem linkStat (blk : W64) : Statement (.linkStat blk) := trivial
theorem surfSet (blk : W64) : Statement (.surfSet blk) := trivial
theorem layerSet (blk : W64) : Statement (.layerSet blk) := trivial
theorem hudSet (blk : W64) : Statement (.hudSet blk) := trivial
theorem errrecRead (blk : W64) : Statement (.errrecRead blk) := trivial
theorem faultInject (blk : W64) : Statement (.faultInject blk) := trivial
theorem graphSet (blk : W64) : Statement (.graphSet blk) := trivial
theorem keyGrant (blk : W64) : Statement (.keyGrant blk) := trivial
theorem tdiStateLock (blk : W64) : Statement (.tdiStateLock blk) := trivial
theorem tdiStateStart (blk : W64) : Statement (.tdiStateStart blk) := trivial
theorem tdiStateStop (blk : W64) : Statement (.tdiStateStop blk) := trivial
theorem tdiStateError (blk : W64) : Statement (.tdiStateError blk) := trivial
theorem debugSet (blk : W64) : Statement (.debugSet blk) := trivial
theorem debugChallenge (blk : W64) : Statement (.debugChallenge blk) := trivial
theorem debugToken (blk : W64) : Statement (.debugToken blk) := trivial
theorem debugHalt (blk : W64) : Statement (.debugHalt blk) := trivial
theorem debugStep (blk : W64) : Statement (.debugStep blk) := trivial
theorem debugResume (blk : W64) : Statement (.debugResume blk) := trivial
theorem powerSetRun (blk : W64) : Statement (.powerSetRun blk) := trivial
theorem powerSetStandby (blk : W64) : Statement (.powerSetStandby blk) := trivial
theorem svnRaise (blk : W64) : Statement (.svnRaise blk) := trivial
theorem scpstatWrite (value : W64) : Statement (.scpstatWrite value) := trivial
theorem hostrdyWrite (value : W64) : Statement (.hostrdyWrite value) := trivial
theorem registerWrite (addr : BitVec 48) (size : Nat) (value : W64) : Statement (.registerWrite addr size value) := trivial
theorem bindRecord (core entry : Nat) : Statement (.bindRecord core entry) := trivial
theorem slotStatusWrite (core : Nat) : Statement (.slotStatusWrite core) := trivial
theorem launchRequest : Statement (.launchRequest) := trivial
theorem wgsliceExpiry (wg : Nat) : Statement (.wgsliceExpiry wg) := trivial
theorem preemptWorkgroup (wg : Nat) : Statement (.preemptWorkgroup wg) := trivial
theorem groupSlotRelease (core slot : Nat) : Statement (.groupSlotRelease core slot) := trivial
theorem completionRecord (wg : Nat) : Statement (.completionRecord wg) := trivial
theorem recordDispatch (pitch graph node : Nat) : Statement (.recordDispatch pitch graph node) := trivial
theorem rasteriseOutput : Statement (.rasteriseOutput) := trivial
theorem loadReturn (acc : Nat) : Statement (.loadReturn acc) := trivial
theorem updateUnitApply (acc : Nat) : Statement (.updateUnitApply acc) := trivial
theorem translationFault (acc : Nat) : Statement (.translationFault acc) := trivial
theorem pageFaultService (leaf : Option W64) : Statement (.pageFaultService leaf) := trivial
theorem operandLogReplay (acc : Nat) : Statement (.operandLogReplay acc) := trivial
theorem pageMigration (pasid : Nat) (va : BitVec 48) (frame : BitVec 48) : Statement (.pageMigration pasid va frame) := trivial
theorem copyStart (cp : Nat) : Statement (.copyStart cp) := trivial
theorem copyComplete (cp : Nat) : Statement (.copyComplete cp) := trivial
theorem matrixCommandStart (core : Nat) : Statement (.matrixCommandStart core) := trivial
theorem matrixCommandComplete (core : Nat) : Statement (.matrixCommandComplete core) := trivial
theorem monitorFire (mon : Nat) : Statement (.monitorFire mon) := trivial
theorem monitorTimeout (mon : Nat) : Statement (.monitorTimeout mon) := trivial
theorem coreGate (core : Nat) : Statement (.coreGate core) := trivial
theorem coreWakeComplete (core : Nat) : Statement (.coreWakeComplete core) := trivial
theorem idleEntry : Statement (.idleEntry) := trivial
theorem compareEntry (pair : Nat) : Statement (.compareEntry pair) := trivial
theorem redSlackTimeout (pair : Nat) : Statement (.redSlackTimeout pair) := trivial
theorem checkpoint (pair : Nat) : Statement (.checkpoint pair) := trivial
theorem auditVerdict (audit : Nat) : Statement (.auditVerdict audit) := trivial
theorem selftestDone (core : Nat) (pass : Bool) : Statement (.selftestDone core pass) := trivial
theorem frameStart (pipe : Nat) : Statement (.frameStart pipe) := trivial
theorem signaturePoll (surface : Nat) : Statement (.signaturePoll surface) := trivial
theorem tileSignatureDone (surface tile : Nat) : Statement (.tileSignatureDone surface tile) := trivial
theorem tileDeadline (pipe row : Nat) : Statement (.tileDeadline pipe row) := trivial
theorem hudLatch (pipe slice : Nat) : Statement (.hudLatch pipe slice) := trivial
theorem cameraFrame : Statement (.cameraFrame) := trivial
theorem lanternStall (pipe : Nat) : Statement (.lanternStall pipe) := trivial
theorem pipeFailover (pipe : Nat) : Statement (.pipeFailover pipe) := trivial
theorem eccSectorRewrite (sector : Nat) : Statement (.eccSectorRewrite sector) := trivial
theorem channelFailing (channel : Nat) : Statement (.channelFailing channel) := trivial
theorem linkTrained (port width mode : Nat) : Statement (.linkTrained port width mode) := trivial
theorem linkRetrain (port width : Nat) : Statement (.linkRetrain port width) := trivial
theorem portDown (port : Nat) : Statement (.portDown port) := trivial
theorem ideIntegrityFailure (stream : Nat) : Statement (.ideIntegrityFailure stream) := trivial
theorem atsInvalidateRequest (pasid : Nat) (va : BitVec 48) (len : Nat) : Statement (.atsInvalidateRequest pasid va len) := trivial
theorem atsTranslationCompletion (req : Nat) (entry : Option W64) : Statement (.atsTranslationCompletion req entry) := trivial
theorem pageRequestResponse (req : Nat) (ok : Bool) : Statement (.pageRequestResponse req ok) := trivial
theorem hostAtomic (addr : BitVec 48) (op size : Nat) (v cmp : BitVec 128) : Statement (.hostAtomic addr op size v cmp) := trivial
theorem doeRequest (words : List W32) : Statement (.doeRequest words) := trivial
theorem doeDiscovery (words : List W32) : Statement (.doeDiscovery words) := trivial
theorem doeResponseRead : Statement (.doeResponseRead) := trivial
theorem doeAbort : Statement (.doeAbort) := trivial
theorem powerGood : Statement (.powerGood) := trivial
theorem powerLoss : Statement (.powerLoss) := trivial
theorem wakeInput : Statement (.wakeInput) := trivial
theorem powerManagerClocks (half : Bool) : Statement (.powerManagerClocks half) := trivial
theorem backInvalidation (line : BitVec 48) (data : List Byte) : Statement (.backInvalidation line data) := trivial
theorem hostOrPeerAccess (port : Nat) (addr : BitVec 48) (len : Nat) (data : Option (List Byte)) : Statement (.hostOrPeerAccess port addr len data) := trivial
theorem servedTimeWindow : Statement (.servedTimeWindow) := trivial

end WordClass
end Sys2Proof.Laws
end

