-- ==== Sys2Proof/Laws/Words.lean ====
section
/-! SUPPORT. Every core word is issued: its meaning is the shared course of an issue with a body of its own. -/

namespace Sys2Proof.Machine

theorem exec_core {i : Instr} {bits : W64} {ext : Option W64} (h : encode i = .core bits ext) (s : State) :
    ∃ body, exec i s = issue i s body := by
  cases i
  case pnop => exact ⟨_, show execPnop s = _ by unfold execPnop; rfl⟩
  case nop w => exact ⟨_, show execNop w s = _ by unfold execNop; rfl⟩
  case bri w => exact ⟨_, show execBri w s = _ by unfold execBri; rfl⟩
  case ret w => exact ⟨_, show execRet w s = _ by unfold execRet; rfl⟩
  case exit w => exact ⟨_, show execExit w s = _ by unfold execExit; rfl⟩
  case pset w => exact ⟨_, show execPset w s = _ by unfold execPset; rfl⟩
  case vote w => exact ⟨_, show execVote w s = _ by unfold execVote; rfl⟩
  case lshf w => exact ⟨_, show execLshf w s = _ by unfold execLshf; rfl⟩
  case lred w => exact ⟨_, show execLred w s = _ by unfold execLred; rfl⟩
  case plog w => exact ⟨_, show execPlog w s = _ by unfold execPlog; rfl⟩
  case pmov w => exact ⟨_, show execPmov w s = _ by unfold execPmov; rfl⟩
  case tret w => exact ⟨_, show execTret w s = _ by unfold execTret; rfl⟩
  case clock w => exact ⟨_, show execClock w s = _ by unfold execClock; rfl⟩
  case chkerr w => exact ⟨_, show execChkerr w s = _ by unfold execChkerr; rfl⟩
  case phase w => exact ⟨_, show execPhase w s = _ by unfold execPhase; rfl⟩
  case ckpt w => exact ⟨_, show execCkpt w s = _ by unfold execCkpt; rfl⟩
  case iadd w => exact ⟨_, show execIadd w s = _ by unfold execIadd; rfl⟩
  case isub w => exact ⟨_, show execIsub w s = _ by unfold execIsub; rfl⟩
  case imul w => exact ⟨_, show execImul w s = _ by unfold execImul; rfl⟩
  case imulh w => exact ⟨_, show execImulh w s = _ by unfold execImulh; rfl⟩
  case imad w => exact ⟨_, show execImad w s = _ by unfold execImad; rfl⟩
  case imadw w => exact ⟨_, show execImadw w s = _ by unfold execImadw; rfl⟩
  case idiv w => exact ⟨_, show execIdiv w s = _ by unfold execIdiv; rfl⟩
  case irem w => exact ⟨_, show execIrem w s = _ by unfold execIrem; rfl⟩
  case imin w => exact ⟨_, show execImin w s = _ by unfold execImin; rfl⟩
  case imax w => exact ⟨_, show execImax w s = _ by unfold execImax; rfl⟩
  case iabs w => exact ⟨_, show execIabs w s = _ by unfold execIabs; rfl⟩
  case ineg w => exact ⟨_, show execIneg w s = _ by unfold execIneg; rfl⟩
  case icmp w => exact ⟨_, show execIcmp w s = _ by unfold execIcmp; rfl⟩
  case iaddc w => exact ⟨_, show execIaddc w s = _ by unfold execIaddc; rfl⟩
  case and w => exact ⟨_, show execAnd w s = _ by unfold execAnd; rfl⟩
  case or w => exact ⟨_, show execOr w s = _ by unfold execOr; rfl⟩
  case xor w => exact ⟨_, show execXor w s = _ by unfold execXor; rfl⟩
  case andn w => exact ⟨_, show execAndn w s = _ by unfold execAndn; rfl⟩
  case not w => exact ⟨_, show execNot w s = _ by unfold execNot; rfl⟩
  case shl w => exact ⟨_, show execShl w s = _ by unfold execShl; rfl⟩
  case shr w => exact ⟨_, show execShr w s = _ by unfold execShr; rfl⟩
  case sar w => exact ⟨_, show execSar w s = _ by unfold execSar; rfl⟩
  case rol w => exact ⟨_, show execRol w s = _ by unfold execRol; rfl⟩
  case bfx w => exact ⟨_, show execBfx w s = _ by unfold execBfx; rfl⟩
  case bfi w => exact ⟨_, show execBfi w s = _ by unfold execBfi; rfl⟩
  case popc w => exact ⟨_, show execPopc w s = _ by unfold execPopc; rfl⟩
  case clz w => exact ⟨_, show execClz w s = _ by unfold execClz; rfl⟩
  case ctz w => exact ⟨_, show execCtz w s = _ by unfold execCtz; rfl⟩
  case brev w => exact ⟨_, show execBrev w s = _ by unfold execBrev; rfl⟩
  case permb w => exact ⟨_, show execPermb w s = _ by unfold execPermb; rfl⟩
  case sel w => exact ⟨_, show execSel w s = _ by unfold execSel; rfl⟩
  case lea w => exact ⟨_, show execLea w s = _ by unfold execLea; rfl⟩
  case mov w => exact ⟨_, show execMov w s = _ by unfold execMov; rfl⟩
  case dot4 w => exact ⟨_, show execDot4 w s = _ by unfold execDot4; rfl⟩
  case fadd w => exact ⟨_, show execFadd w s = _ by unfold execFadd; rfl⟩
  case fsub w => exact ⟨_, show execFsub w s = _ by unfold execFsub; rfl⟩
  case fmul w => exact ⟨_, show execFmul w s = _ by unfold execFmul; rfl⟩
  case ffma w => exact ⟨_, show execFfma w s = _ by unfold execFfma; rfl⟩
  case fmin w => exact ⟨_, show execFmin w s = _ by unfold execFmin; rfl⟩
  case fmax w => exact ⟨_, show execFmax w s = _ by unfold execFmax; rfl⟩
  case fcmp w => exact ⟨_, show execFcmp w s = _ by unfold execFcmp; rfl⟩
  case fclass w => exact ⟨_, show execFclass w s = _ by unfold execFclass; rfl⟩
  case frnd w => exact ⟨_, show execFrnd w s = _ by unfold execFrnd; rfl⟩
  case frcp w => exact ⟨_, show execFrcp w s = _ by unfold execFrcp; rfl⟩
  case frsq w => exact ⟨_, show execFrsq w s = _ by unfold execFrsq; rfl⟩
  case fsqrt w => exact ⟨_, show execFsqrt w s = _ by unfold execFsqrt; rfl⟩
  case fdiv w => exact ⟨_, show execFdiv w s = _ by unfold execFdiv; rfl⟩
  case fexp2 w => exact ⟨_, show execFexp2 w s = _ by unfold execFexp2; rfl⟩
  case flog2 w => exact ⟨_, show execFlog2 w s = _ by unfold execFlog2; rfl⟩
  case fsinr w => exact ⟨_, show execFsinr w s = _ by unfold execFsinr; rfl⟩
  case fcosr w => exact ⟨_, show execFcosr w s = _ by unfold execFcosr; rfl⟩
  case fscale w => exact ⟨_, show execFscale w s = _ by unfold execFscale; rfl⟩
  case hadd2 w => exact ⟨_, show execHadd2 w s = _ by unfold execHadd2; rfl⟩
  case hmul2 w => exact ⟨_, show execHmul2 w s = _ by unfold execHmul2; rfl⟩
  case hfma2 w => exact ⟨_, show execHfma2 w s = _ by unfold execHfma2; rfl⟩
  case hmin2 w => exact ⟨_, show execHmin2 w s = _ by unfold execHmin2; rfl⟩
  case hmax2 w => exact ⟨_, show execHmax2 w s = _ by unfold execHmax2; rfl⟩
  case hcmp2 w => exact ⟨_, show execHcmp2 w s = _ by unfold execHcmp2; rfl⟩
  case cvtp w => exact ⟨_, show execCvtp w s = _ by unfold execCvtp; rfl⟩
  case qnb8 w => exact ⟨_, show execQnb8 w s = _ by unfold execQnb8; rfl⟩
  case dqnb8 w => exact ⟨_, show execDqnb8 w s = _ by unfold execDqnb8; rfl⟩
  case qmx w => exact ⟨_, show execQmx w s = _ by unfold execQmx; rfl⟩
  case dqmx w => exact ⟨_, show execDqmx w s = _ by unfold execDqmx; rfl⟩
  case smax w => exact ⟨_, show execSmax w s = _ by unfold execSmax; rfl⟩
  case cvtfx w => exact ⟨_, show execCvtfx w s = _ by unfold execCvtfx; rfl⟩
  case cvtxf w => exact ⟨_, show execCvtxf w s = _ by unfold execCvtxf; rfl⟩
  case fence w => exact ⟨_, show execFence w s = _ by unfold execFence; rfl⟩
  case rfence w => exact ⟨_, show execRfence w s = _ by unfold execRfence; rfl⟩
  case cpy w => exact ⟨_, show execCpy w s = _ by unfold execCpy; rfl⟩
  case cpyg w => exact ⟨_, show execCpyg w s = _ by unfold execCpyg; rfl⟩
  case cpys w => exact ⟨_, show execCpys w s = _ by unfold execCpys; rfl⟩
  case cpyt w => exact ⟨_, show execCpyt w s = _ by unfold execCpyt; rfl⟩
  case qfence w => exact ⟨_, show execQfence w s = _ by unfold execQfence; rfl⟩
  case coll w => exact ⟨_, show execColl w s = _ by unfold execColl; rfl⟩
  case binit w => exact ⟨_, show execBinit w s = _ by unfold execBinit; rfl⟩
  case arrive w => exact ⟨_, show execArrive w s = _ by unfold execArrive; rfl⟩
  case expect w => exact ⟨_, show execExpect w s = _ by unfold execExpect; rfl⟩
  case waitp w => exact ⟨_, show execWaitp w s = _ by unfold execWaitp; rfl⟩
  case bpoll w => exact ⟨_, show execBpoll w s = _ by unfold execBpoll; rfl⟩
  case bld w => exact ⟨_, show execBld w s = _ by unfold execBld; rfl⟩
  case mma w => exact ⟨_, show execMma w s = _ by unfold execMma; rfl⟩
  case mmap w => exact ⟨_, show execMmap w s = _ by unfold execMmap; rfl⟩
  case msa w => exact ⟨_, show execMsa w s = _ by unfold execMsa; rfl⟩
  case mzero w => exact ⟨_, show execMzero w s = _ by unfold execMzero; rfl⟩
  case mdr w => exact ⟨_, show execMdr w s = _ by unfold execMdr; rfl⟩
  case mmov w => exact ⟨_, show execMmov w s = _ by unfold execMmov; rfl⟩
  case mmt w => exact ⟨_, show execMmt w s = _ by unfold execMmt; rfl⟩
  case mres w => exact ⟨_, show execMres w s = _ by unfold execMres; rfl⟩
  case mchk w => exact ⟨_, show execMchk w s = _ by unfold execMchk; rfl⟩
  case mstat w => exact ⟨_, show execMstat w s = _ by unfold execMstat; rfl⟩
  case tex w => exact ⟨_, show execTex w s = _ by unfold execTex; rfl⟩
  case tld w => exact ⟨_, show execTld w s = _ by unfold execTld; rfl⟩
  case tgath w => exact ⟨_, show execTgath w s = _ by unfold execTgath; rfl⟩
  case tdim w => exact ⟨_, show execTdim w s = _ by unfold execTdim; rfl⟩
  case ist w => exact ⟨_, show execIst w s = _ by unfold execIst; rfl⟩
  case hgf w => exact ⟨_, show execHgf w s = _ by unfold execHgf; rfl⟩
  case hgs w => exact ⟨_, show execHgs w s = _ by unfold execHgs; rfl⟩
  case rbox w => exact ⟨_, show execRbox w s = _ by unfold execRbox; rfl⟩
  case rtri w => exact ⟨_, show execRtri w s = _ by unfold execRtri; rfl⟩
  case mvtx w => exact ⟨_, show execMvtx w s = _ by unfold execMvtx; rfl⟩
  case mprim w => exact ⟨_, show execMprim w s = _ by unfold execMprim; rfl⟩
  case mcommit w => exact ⟨_, show execMcommit w s = _ by unfold execMcommit; rfl⟩
  case pseti w => exact ⟨_, show execPseti w s = _ by unfold execPseti; rfl⟩
  case trap w => exact ⟨_, show execTrap w s = _ by unfold execTrap; rfl⟩
  case csrr w => exact ⟨_, show execCsrr w s = _ by unfold execCsrr; rfl⟩
  case csrw w => exact ⟨_, show execCsrw w s = _ by unfold execCsrw; rfl⟩
  case prefc w => exact ⟨_, show execPrefc w s = _ by unfold execPrefc; rfl⟩
  case movi w => exact ⟨_, show execMovi w s = _ by unfold execMovi; rfl⟩
  case iaddRi w => exact ⟨_, show execIaddRi w s = _ by unfold execIaddRi; rfl⟩
  case isubRi w => exact ⟨_, show execIsubRi w s = _ by unfold execIsubRi; rfl⟩
  case imulRi w => exact ⟨_, show execImulRi w s = _ by unfold execImulRi; rfl⟩
  case iminRi w => exact ⟨_, show execIminRi w s = _ by unfold execIminRi; rfl⟩
  case imaxRi w => exact ⟨_, show execImaxRi w s = _ by unfold execImaxRi; rfl⟩
  case icmpRi w => exact ⟨_, show execIcmpRi w s = _ by unfold execIcmpRi; rfl⟩
  case andRi w => exact ⟨_, show execAndRi w s = _ by unfold execAndRi; rfl⟩
  case orRi w => exact ⟨_, show execOrRi w s = _ by unfold execOrRi; rfl⟩
  case xorRi w => exact ⟨_, show execXorRi w s = _ by unfold execXorRi; rfl⟩
  case shlRi w => exact ⟨_, show execShlRi w s = _ by unfold execShlRi; rfl⟩
  case shrRi w => exact ⟨_, show execShrRi w s = _ by unfold execShrRi; rfl⟩
  case sarRi w => exact ⟨_, show execSarRi w s = _ by unfold execSarRi; rfl⟩
  case rolRi w => exact ⟨_, show execRolRi w s = _ by unfold execRolRi; rfl⟩
  case leaRi w => exact ⟨_, show execLeaRi w s = _ by unfold execLeaRi; rfl⟩
  case movRi w => exact ⟨_, show execMovRi w s = _ by unfold execMovRi; rfl⟩
  case faddRi w => exact ⟨_, show execFaddRi w s = _ by unfold execFaddRi; rfl⟩
  case fmulRi w => exact ⟨_, show execFmulRi w s = _ by unfold execFmulRi; rfl⟩
  case ffmaRi w => exact ⟨_, show execFfmaRi w s = _ by unfold execFfmaRi; rfl⟩
  case fminRi w => exact ⟨_, show execFminRi w s = _ by unfold execFminRi; rfl⟩
  case fmaxRi w => exact ⟨_, show execFmaxRi w s = _ by unfold execFmaxRi; rfl⟩
  case fcmpRi w => exact ⟨_, show execFcmpRi w s = _ by unfold execFcmpRi; rfl⟩
  case bra w => exact ⟨_, show execBra w s = _ by unfold execBra; rfl⟩
  case brc w => exact ⟨_, show execBrc w s = _ by unfold execBrc; rfl⟩
  case call w => exact ⟨_, show execCall w s = _ by unfold execCall; rfl⟩
  case ld w => exact ⟨_, show execLd w s = _ by unfold execLd; rfl⟩
  case st w => exact ⟨_, show execSt w s = _ by unfold execSt; rfl⟩
  case ldu w => exact ⟨_, show execLdu w s = _ by unfold execLdu; rfl⟩
  case stu w => exact ⟨_, show execStu w s = _ by unfold execStu; rfl⟩
  case upd w => exact ⟨_, show execUpd w s = _ by unfold execUpd; rfl⟩
  case updr w => exact ⟨_, show execUpdr w s = _ by unfold execUpdr; rfl⟩
  case ucas w => exact ⟨_, show execUcas w s = _ by unfold execUcas; rfl⟩
  case vismax w => exact ⟨_, show execVismax w s = _ by unfold execVismax; rfl⟩
  case pref w => exact ⟨_, show execPref w s = _ by unfold execPref; rfl⟩
  case discard w => exact ⟨_, show execDiscard w s = _ by unfold execDiscard; rfl⟩
  case mona w => exact ⟨_, show execMona w s = _ by unfold execMona; rfl⟩
  case monaCancel w => exact ⟨_, show execMonaCancel w s = _ by unfold execMonaCancel; rfl⟩
  case cvt w => exact ⟨_, show execCvt w s = _ by unfold execCvt; rfl⟩
  case pairWord h0 h1 => exact ⟨_, show execPairWord h0 h1 s = _ by unfold execPairWord; rfl⟩
  all_goals exact Code.noConfusion h

end Sys2Proof.Machine
end

