-- ==== Sys2Proof/Machine/Glass.lean ====
section
/-! DEFINITION. What the glass shows: composition, substitution, Lantern's route and the head-up warp, as functions of
the state (23 R430, R433, R435–R437, R442). -/

namespace Sys2Proof.Machine
open Sys2Proof

/-! ### Composition (R430) -/

/-- Opaque black: R, G and B as FP32 codes. -/
def black : List Nat := [0, 0, 0]
/-- A layer's pixel R, G, B, A composed with what lies below it (R430). -/
def blend (below top : List Nat) : List Nat :=
  let a := top.getD 3 fOne
  (List.range 3).map fun j => fAdd (fMul (top.getD j 0) a) (fMul (below.getD j 0) (fSub fOne a))
/-- A channel as the link sends it in `n` bits (R430). -/
def linkCode (n c : Nat) : Nat :=
  let v := (fNum c).min (ratio 1 1)
  ((v.mul (ratio (2 ^ n - 1) 1)).toIntSat .near 0 (2 ^ n - 1)).toNat
/-- Bytes of a buffer as the display reads them; those it cannot read are free values (log entry 12). -/
def State.scanBytes (s : State) (pasid : Nat) (va : W64) (n : Nat) : List Byte :=
  match s.mappedPlaces pasid va n with
  | some ps => ps.map fun p => s.readPlace 96 2 p
  | none => (List.range n).map fun k => Config.freeByte s.stepNo (va.toNat + k)
/-- A pixel of a render's buffer, by column and row of the layer (R276, R428). -/
def State.bufferPixel (s : State) (w : List W64) (b : Bool) (x y : Nat) : List Nat :=
  let n := texBytes (lFormat w)
  texChannels (lFormat w) (leNat (s.scanBytes (lPasid w) (lBuf w b + BitVec.ofNat 64 (lPitch w * y + n * x)) n))
/-- A pixel of what substitutes a safety layer: its bitmap, transparent beyond it, or opaque black (R436). -/
def State.substitute (s : State) (w : List W64) (x y : Nat) : Option (List Nat) :=
  if lNoBitmap w then some [0, 0, 0, fOne]
  else match s.bitmap (lBitmap w) with
    | some (bw, bh, px) => if x < bw ∧ y < bh then some (texChannels 1 (bytesAt px (4 * (y * bw + x)) 4)) else none
    | none => none
/-- Whether a line of a layer is substituted: armed before it began (R433). -/
def Layer.substituted (l : Layer) (line : Nat) : Bool := lSafe l.words && (match l.armed with
  | some m => decide (m ≤ line)
  | none => false)
/-- A layer's pixel at a place of its surface, if it covers it: from buffer A, from the render that remains in MODE 2, or
from what substitutes it (R433, R436, R439). -/
def State.layerPixel (s : State) (l : Layer) (x y : Nat) : Option (List Nat) :=
  let w := l.words
  if x < lX w ∨ lX w + lW w ≤ x ∨ y < lY w ∨ lY w + lH w ≤ y then none
  else if l.substituted y then s.substitute w (x - lX w) (y - lY w)
  else some (s.bufferPixel w (l.only.getD false) (x - lX w) (y - lY w))
/-- The composed surface of a pipe at a place: its enabled layers in ascending number on opaque black (R430). -/
def State.composed (s : State) (p x y : Nat) : List Nat :=
  (s.layersOn p true).foldl (fun c k => match s.layerPixel k.2 x y with
    | some t => blend c t
    | none => c) black

/-! ### Lantern (R435–R437) -/

/-- A pixel of an overlay of a pipe at a place, if it covers it. -/
def State.overlayPixel (s : State) (p i x y : Nat) : Option (List Nat) :=
  let d := s.lantern
  let o := (lanternHead d).ovlOfs + 16 * i
  let ow := bytesAt d (o + 4) 2
  let oh := bytesAt d (o + 6) 2
  let ox := bytesAt d (o + 10) 2
  let oy := bytesAt d (o + 12) 2
  if bytesAt d (o + 8) 1 ≠ p ∨ x < ox ∨ ox + ow ≤ x ∨ y < oy ∨ oy + oh ≤ y then none
  else some (texChannels 1 (bytesAt d (bytesAt d o 4 + 4 * ((y - oy) * ow + (x - ox))) 4))
/-- What a pipe shows in a frame whose composition was missed: its overlays, and each safety layer substituted (R436). -/
def State.fallbackPixel (s : State) (p x y : Nat) : List Nat :=
  let n := if s.lantern.isEmpty then 0 else (lanternHead s.lantern).novl
  let c := (List.range n).foldl (fun c i => match s.overlayPixel p i x y with
    | some t => blend c t
    | none => c) black
  (s.layersOn p true).foldl (fun c k =>
    let w := k.2.words
    if !lSafe w ∨ x < lX w ∨ lX w + lW w ≤ x ∨ y < lY w ∨ lY w + lH w ≤ y then c
    else match s.substitute w (x - lX w) (y - lY w) with
      | some t => blend c t
      | none => c) c
/-- The sum of weighted colours, one fused step for each (R279). -/
def mixTaps (xs : List (List Nat × Num)) : List Nat :=
  xs.foldl (fun s x => List.zipWith (fun v s => fRne (((fNum v).mul x.2).add .near (fNum s))) x.1 s) black
/-- A camera pixel of the crop in R, G, B: what a frame holds, and its conversion from YUV422, are free values (log entry
25). -/
def State.cameraTexel (s : State) (x y : Nat) : List Nat :=
  (List.range 3).map fun j => (Config.cameraChannel s.camFrame x y j).toNat
/-- What Lantern's route shows at a place (R437): the crop scaled to DST, guide lines over it, black outside. -/
def State.routePixel (s : State) (p x y : Nat) : List Nat :=
  let d := s.lantern
  let h := lanternHead d
  let f (o : Nat) : Nat := bytesAt d (h.routeOfs + o) 2
  if x < f 0x10 ∨ f 0x10 + f 0x14 ≤ x ∨ y < f 0x12 ∨ f 0x12 + f 0x16 ≤ y then black
  else
    let guide := (List.range h.nguide).reverse.find? fun i =>
      Config.guideCovers (slice d (h.guideOfs + 16 * i) 16) (x - f 0x10) (y - f 0x12)
    match guide with
    | some i => (texChannels 1 (bytesAt d (h.guideOfs + 16 * i + 8) 4)).take 3
    | none =>
      if (s.pipe p).stall ∨ s.camFrame = 0 then black
      else
        let us := axisTaps 1 2 (f 0x0C) (ratio (2 * (x - f 0x10) + 1) (2 * f 0x14))
        let vs := axisTaps 1 2 (f 0x0E) (ratio (2 * (y - f 0x12) + 1) (2 * f 0x16))
        mixTaps ((vs.map fun (v, b) => us.map fun (u, a) =>
          (s.cameraTexel (f 8 + u.getD 0) (f 10 + v.getD 0), a.mul b)).flatten)

/-! ### The warp (R442) -/

/-- Width and height of what a pipe scans: its surface's, or the route's boot mode (R427, R437). -/
def State.scanSize (s : State) (p : Nat) : Nat × Nat :=
  match s.surfaces.findBy fun _ x => x.cur.enable && x.cur.pipe == p with
  | some (_, x) => (x.cur.w, x.cur.h)
  | none =>
    let o := (lanternHead s.lantern).routeOfs
    (bytesAt s.lantern (o + 0x18) 2, bytesAt s.lantern (o + 0x1A) 2)
/-- The picture of a pipe before its warp stage: the route, what stands in for a missed composition, or the composition
(R430, R436, R437). -/
def State.picture (s : State) (p x y : Nat) : List Nat :=
  if (s.pipe p).route then s.routePixel p x y
  else if (s.pipe p).fallback then s.fallbackPixel p x y
  else s.composed p x y
/-- An angle in radians as a fraction of a turn, to 400 bits. -/
def turns : Num → Num
  | .fin neg n d => .fin neg (n * 2 ^ 400) (2 * piScaled * d)
  | x => x
/-- The cosine and sine of an FP32 angle in radians, each rounded once. -/
def fCos (a : Nat) : Nat := fRne (turns (fNum a)).cosr
@[inherit_doc fCos] def fSin (a : Nat) : Nat := fRne (turns (fNum a)).sinr
/-- The FP32 code of a natural number. -/
def fNat (n : Nat) : Nat := fRne (ratio n 1)
/-- The source position of an output pixel through SHIFT, ROT and the mesh (R442). -/
def warpPoint (w h : Nat) (sr : W32 × W32) (mesh : List (W32 × W32)) (x y : Nat) : Nat × Nat :=
  let t := fDiv sr.2.toNat (fNat 1000)
  let c := fCos t
  let s := fSin t
  let w2 := fDiv (fNat w) (fNat 2)
  let h2 := fDiv (fNat h) (fNat 2)
  let dx := fSub (fAdd (fNat x) fHalf) w2
  let dy := fSub (fAdd (fNat y) fHalf) h2
  let xr := fAdd (fSub (fMul c dx) (fMul s dy)) w2
  let yr := fSub (fAdd (fAdd (fMul s dx) (fMul c dy)) h2) sr.1.toNat
  let gx := fDiv (fMul xr (fNat 32)) (fNat w)
  let gy := fDiv (fMul yr (fNat 16)) (fNat h)
  if (fNum gx).isNan ∨ (fNum gy).isNan then (0x7FC00000, 0x7FC00000) else
  let i := (max 0 (min 31 (floorInt (fNum gx)))).toNat
  let j := (max 0 (min 15 (floorInt (fNum gy)))).toNat
  let fx := fSub gx (fNat i)
  let fy := fSub gy (fNat j)
  let corner (a b : Nat) : (W32 × W32) × Num :=
    (mesh.getD (33 * (j + b) + i + a) (0, 0),
      fNum (fMul (if a = 0 then fSub fOne fx else fx) (if b = 0 then fSub fOne fy else fy)))
  let cs := [corner 0 0, corner 1 0, corner 0 1, corner 1 1]
  let sum (pick : W32 × W32 → W32) : Nat :=
    cs.foldl (fun acc q => fRne (((fNum (pick q.1).toNat).mul q.2).add .near (fNum acc))) 0
  (sum (·.1), sum (·.2))
/-- The taps of a bilinear sample at a position in pixels, none beyond the edge (R278, R442). -/
def pixelTaps (n u : Nat) : List (Option Nat × Num) :=
  let b := (fNum u).add .near (ratio (-1) 2)
  let i0 := floorInt b
  let a := floorInt ((b.add .near (ratio (-i0) 1)).mul (ratio 256 1))
  [(placeIndex 3 n i0, ratio (256 - a) 256), (placeIndex 3 n (i0 + 1), ratio a 256)]
/-- A pixel behind the warp: the picture sampled at the source position; a NaN anywhere gives opaque black (R442). -/
def State.warped (s : State) (p x y : Nat) : List Nat :=
  let k := s.pipe p
  let (w, h) := s.scanSize p
  let (u, v) := warpPoint w h (k.slices.getD (4 * y / h) (0, 0)) k.mesh x y
  if (fNum u).isNan ∨ (fNum v).isNan ∨ isInfNum (fNum u) ∨ isInfNum (fNum v) then black else
  let c := mixTaps (((pixelTaps h v).map fun (yy, b) => (pixelTaps w u).map fun (xx, a) =>
    (match xx, yy with
      | some xx, some yy => s.picture p xx yy
      | _, _ => black, a.mul b)).flatten)
  if c.any fun z => (fNum z).isNan then black else c
/-- What a pipe shows at column `x` of line `y` of the frame that is scanning: R, G and B as FP32 codes, or nothing
while it does not run, has failed, or is dark after a failover (R427, R442, R456). -/
def State.glass (s : State) (p x y : Nat) : Option (List Nat) :=
  let k := s.pipe p
  if k.failed ∨ k.tm.isNone ∨ k.dark ≠ 0 then none
  else some (if (k.hud.getD 1 0).getLsbD 32 then s.warped p x y else s.picture p x y)

end Sys2Proof.Machine
end

