-- ==== Sys2Proof/Tests/Slice0.lean ====
section
/-! SUPPORT. Tests: words written out from the spec decode to what they stand for, ill-formed terms are refused, small
steps give what the spec's worked examples and hand calculation give, and every statement's hypotheses are met. -/

namespace Sys2Proof.Tests
open Sys2Proof Sys2Proof.Machine

set_option Elab.async false

/-! ### Decoding (05, 12): each word is written out from its encoding table, not by the encoder -/

/-- Each word, with the word behind it, decodes to its instruction, which is well-formed. -/
def decodes (ws : List (W64 × Option W64 × Instr)) : Bool :=
  ws.all fun x => (decodeWord x.1 x.2.1).toOption == some x.2.2 && x.2.2.wellFormed
/-- Each queue word decodes to its instruction. -/
def decodesQueue (ws : List (W32 × Instr)) : Bool := ws.all fun x => decodeQueue x.1 == some x.2 && x.2.wellFormed

/-- Words of 05 to 11 written out field by field from their encoding tables: Control. -/
def controlWords : List (W64 × Option W64 × Instr) :=
  [(0x0008A00000000000, none, .nop ⟨⟨true, 5⟩, .v 0, .v 0, .v 0, .v 0, 0⟩),
   (0x0017E00000000000, none, .pnop),
   (0x0027FFFFFF000000, none, .bra ⟨.always, 0xfffff8, 0x0⟩),
   (0x0030400000800007, none, .brc ⟨⟨false, 2⟩, 0x4, 0x7⟩),
   (0x0047E0001C100000, none, .bri ⟨.always, .v 0, .v 3, .s 4, .v 0, 0⟩),
   (0x0057E00001200000, none, .call ⟨.always, 0x9, 0x0⟩),
   (0x0067E00000000000, none, .ret ⟨.always, .v 0, .v 0, .v 0, .v 0, 0⟩),
   (0x0070800000000000, none, .exit ⟨⟨false, 4⟩, .v 0, .v 0, .v 0, .v 0, 0⟩),
   (0x0087E00018000000, none, .pset ⟨.always, .v 0, .v 3, .v 0, .v 0, 0⟩),
   (0x0097E00000000001, none, .pseti ⟨.always, .v 0, .v 0, 1, none⟩),
   (0x00A7F03A20000000, none, .vote ⟨.always, .s 3, .p 4, .v 0, .v 0, 0⟩),
   (0x00B7E020241A8211, none, .lshf ⟨.always, .v 2, .v 4, .s 6, .p 1, 17⟩),
   (0x00C7F02048000008, none, .lred ⟨.always, .s 2, .v 9, .v 0, .v 0, 8⟩),
   (0x00D7F41A167E86C0, none, .plog ⟨.always, .p 1, .p 2, .imm 31, .p 3, 192⟩),
   (0x00E7E07A18000001, none, .pmov ⟨.always, .v 7, .p 3, .v 0, .v 0, 1⟩),
   (0x00F0600000001234, none, .trap ⟨⟨false, 3⟩, .v 0, .v 0, 0x1234, none⟩),
   (0x0107E00000000000, none, .tret ⟨.always, .v 0, .v 0, .v 0, .v 0, 0⟩),
   (0x0117F05000000008, none, .csrr ⟨.always, .s 5, .v 0, 0x8, none⟩),
   (0x0127E00CE800000A, none, .csrw ⟨.always, .v 0, .imm 29, 0xa, none⟩),
   (0x0137F04830000001, none, .clock ⟨.always, .s 4, .s 6, .v 0, .v 0, 1⟩),
   (0x0147F47000000000, none, .chkerr ⟨.always, .p 7, .v 0, .v 0, .v 0, 0⟩),
   (0x0157E00000000000, none, .phase ⟨.always, .v 0, .v 0, .v 0, .v 0, 0⟩),
   (0x0167E00000000000, none, .ckpt ⟨.always, .v 0, .v 0, .v 0, .v 0, 0⟩),
   (0x0177E0081FFFFFF0, none, .prefc ⟨.always, .v 0, .s 3, 0x7fffff0, none⟩)]
theorem test_decode_control : decodes controlWords = true := by decide +kernel
/-- Words of 05 to 11 written out field by field from their encoding tables: Integer. -/
def integerWords : List (W64 × Option W64 × Instr) :=
  [(0x080860503C080000, none, .iadd ⟨⟨true, 3⟩, .v 5, .v 7, .s 2, .v 0, 0⟩),
   (0x0817E0503C080005, none, .isub ⟨.always, .v 5, .v 7, .s 2, .v 0, 5⟩),
   (0x0827E0503C080000, none, .imul ⟨.always, .v 5, .v 7, .s 2, .v 0, 0⟩),
   (0x0837E0503C080001, none, .imulh ⟨.always, .v 5, .v 7, .s 2, .v 0, 1⟩),
   (0x0847E0503C0B3800, none, .imad ⟨.always, .v 5, .v 7, .s 2, .imm 28, 0⟩),
   (0x0857E0403C081001, none, .imadw ⟨.always, .v 4, .v 7, .s 2, .v 8, 1⟩),
   (0x0867E0503C080000, none, .idiv ⟨.always, .v 5, .v 7, .s 2, .v 0, 0⟩),
   (0x0877E0503C080001, none, .irem ⟨.always, .v 5, .v 7, .s 2, .v 0, 1⟩),
   (0x0887E0503C080000, none, .imin ⟨.always, .v 5, .v 7, .s 2, .v 0, 0⟩),
   (0x0897E0503C080001, none, .imax ⟨.always, .v 5, .v 7, .s 2, .v 0, 1⟩),
   (0x08A7E05038000004, none, .iabs ⟨.always, .v 5, .v 7, .v 0, .v 0, 4⟩),
   (0x08B7F05838000000, none, .ineg ⟨.always, .s 5, .s 7, .v 0, .v 0, 0⟩),
   (0x08C7F4205E800014, none, .icmp ⟨.always, .p 2, .v 11, .imm 32, .v 0, 0x14⟩),
   (0x08D7E04000228202, none, .iaddc ⟨.always, .v 4, .v 0, .v 8, .p 1, 2⟩),
   (0x08E7E0503C080000, none, .and ⟨.always, .v 5, .v 7, .s 2, .v 0, 0⟩),
   (0x08F7E0503C080000, none, .or ⟨.always, .v 5, .v 7, .s 2, .v 0, 0⟩),
   (0x0907E0503C080000, none, .xor ⟨.always, .v 5, .v 7, .s 2, .v 0, 0⟩),
   (0x0917E0503C080000, none, .andn ⟨.always, .v 5, .v 7, .s 2, .v 0, 0⟩),
   (0x0927E05038000000, none, .not ⟨.always, .v 5, .v 7, .v 0, .v 0, 0⟩),
   (0x0937E0503C080000, none, .shl ⟨.always, .v 5, .v 7, .s 2, .v 0, 0⟩),
   (0x0947E03016FC0000, none, .shr ⟨.always, .v 3, .v 2, .imm 63, .v 0, 0⟩),
   (0x0957E0503C080000, none, .sar ⟨.always, .v 5, .v 7, .s 2, .v 0, 0⟩),
   (0x0967E0503C080000, none, .rol ⟨.always, .v 5, .v 7, .s 2, .v 0, 0⟩),
   (0x0977E0503C0B5000, none, .bfx ⟨.always, .v 5, .v 7, .s 2, .imm 40, 0⟩),
   (0x0987E0503C081200, none, .bfi ⟨.always, .v 5, .v 7, .s 2, .v 9, 0⟩),
   (0x0997E05038000000, none, .popc ⟨.always, .v 5, .v 7, .v 0, .v 0, 0⟩),
   (0x09A7E05038000000, none, .clz ⟨.always, .v 5, .v 7, .v 0, .v 0, 0⟩),
   (0x09B7E05038000000, none, .ctz ⟨.always, .v 5, .v 7, .v 0, .v 0, 0⟩),
   (0x09C7E05038000000, none, .brev ⟨.always, .v 5, .v 7, .v 0, .v 0, 0⟩),
   (0x09D7E0503C081200, none, .permb ⟨.always, .v 5, .v 7, .s 2, .v 9, 0⟩),
   (0x09E7E0503DCE8600, none, .sel ⟨.always, .v 5, .v 7, .sr .lane, .p 3, 0⟩),
   (0x09F7E04030200008, none, .lea ⟨.always, .v 4, .v 6, .v 8, .v 0, 8⟩),
   (0x0A07F05BC8000000, none, .mov ⟨.always, .s 5, .sr .cycle, .v 0, .v 0, 0⟩),
   (0x0A17F0A006789ABC, some 0x800000000002468A, .movi ⟨.always, .s 10, .v 0, 0x6789ABC, some 0x2468A⟩),
   (0x0A27E0503C081205, none, .dot4 ⟨.always, .v 5, .v 7, .s 2, .v 9, 5⟩)]
theorem test_decode_integer : decodes integerWords = true := by decide +kernel
/-- Words of 05 to 11 written out field by field from their encoding tables: IntegerRi. -/
def integerRiWords : List (W64 × Option W64 × Instr) :=
  [(0x0C07E0503FFFFFFD, none, .iaddRi ⟨.always, .v 5, .v 7, 0x7fffffd, none⟩),
   (0x0C17E0503FFFFFFD, none, .isubRi ⟨.always, .v 5, .v 7, 0x7fffffd, none⟩),
   (0x0C27E0503FFFFFFD, none, .imulRi ⟨.always, .v 5, .v 7, 0x7fffffd, none⟩),
   (0x0C87E0503FFFFFFD, none, .iminRi ⟨.always, .v 5, .v 7, 0x7fffffd, none⟩),
   (0x0C97E0503FFFFFFD, none, .imaxRi ⟨.always, .v 5, .v 7, 0x7fffffd, none⟩),
   (0x0CC7F45038000009, none, .icmpRi ⟨.always, .p 5, .v 7, 0x9, none⟩),
   (0x0CE7E0503FFFFFFD, none, .andRi ⟨.always, .v 5, .v 7, 0x7fffffd, none⟩),
   (0x0CF8E0503FFFFFFD, none, .orRi ⟨⟨true, 7⟩, .v 5, .v 7, 0x7fffffd, none⟩),
   (0x0D07E0503FFFFFFD, none, .xorRi ⟨.always, .v 5, .v 7, 0x7fffffd, none⟩),
   (0x0D37E0503FFFFFFD, none, .shlRi ⟨.always, .v 5, .v 7, 0x7fffffd, none⟩),
   (0x0D47E0503FFFFFFD, none, .shrRi ⟨.always, .v 5, .v 7, 0x7fffffd, none⟩),
   (0x0D57E0503FFFFFFD, none, .sarRi ⟨.always, .v 5, .v 7, 0x7fffffd, none⟩),
   (0x0D67E0503FFFFFFD, none, .rolRi ⟨.always, .v 5, .v 7, 0x7fffffd, none⟩),
   (0x0DF7F05838000040, none, .leaRi ⟨.always, .s 5, .s 7, 0x40, none⟩),
   (0x0E07F7000000000F, some 0x8000000000000003, .movRi ⟨.always, .sr .exec, .v 0, 0xf, some 0x3⟩)]
theorem test_decode_integerRi : decodes integerRiWords = true := by decide +kernel
/-- Words of 05 to 11 written out field by field from their encoding tables: Float. -/
def floatWords : List (W64 × Option W64 × Instr) :=
  [(0x1007E0503C080004, none, .fadd ⟨.always, .v 5, .v 7, .s 2, .v 0, 4⟩),
   (0x1017E0503C080003, none, .fsub ⟨.always, .v 5, .v 7, .s 2, .v 0, 3⟩),
   (0x1027E0503C080008, none, .fmul ⟨.always, .v 5, .v 7, .s 2, .v 0, 8⟩),
   (0x1037E08008080601, none, .ffma ⟨.always, .v 8, .v 1, .v 2, .v 3, 1⟩),
   (0x1047E0503C080000, none, .fmin ⟨.always, .v 5, .v 7, .s 2, .v 0, 0⟩),
   (0x1057E0503C080010, none, .fmax ⟨.always, .v 5, .v 7, .s 2, .v 0, 16⟩),
   (0x1067F4303C0800E0, none, .fcmp ⟨.always, .p 3, .v 7, .s 2, .v 0, 224⟩),
   (0x1077E05038000000, none, .fclass ⟨.always, .v 5, .v 7, .v 0, .v 0, 0⟩),
   (0x1087E05038000002, none, .frnd ⟨.always, .v 5, .v 7, .v 0, .v 0, 2⟩),
   (0x1097E05038000000, none, .frcp ⟨.always, .v 5, .v 7, .v 0, .v 0, 0⟩),
   (0x10A7E05038000000, none, .frsq ⟨.always, .v 5, .v 7, .v 0, .v 0, 0⟩),
   (0x10B7E05038000000, none, .fsqrt ⟨.always, .v 5, .v 7, .v 0, .v 0, 0⟩),
   (0x10C7E0503C080000, none, .fdiv ⟨.always, .v 5, .v 7, .s 2, .v 0, 0⟩),
   (0x10D7E05038000000, none, .fexp2 ⟨.always, .v 5, .v 7, .v 0, .v 0, 0⟩),
   (0x10E7E05038000000, none, .flog2 ⟨.always, .v 5, .v 7, .v 0, .v 0, 0⟩),
   (0x10F7E05038000000, none, .fsinr ⟨.always, .v 5, .v 7, .v 0, .v 0, 0⟩),
   (0x1107E05038000000, none, .fcosr ⟨.always, .v 5, .v 7, .v 0, .v 0, 0⟩),
   (0x1117E0503C080000, none, .fscale ⟨.always, .v 5, .v 7, .s 2, .v 0, 0⟩),
   (0x1127E0503C080008, none, .hadd2 ⟨.always, .v 5, .v 7, .s 2, .v 0, 8⟩),
   (0x1137E0503C080000, none, .hmul2 ⟨.always, .v 5, .v 7, .s 2, .v 0, 0⟩),
   (0x1147E0503C081200, none, .hfma2 ⟨.always, .v 5, .v 7, .s 2, .v 9, 0⟩),
   (0x1157E0503C080000, none, .hmin2 ⟨.always, .v 5, .v 7, .s 2, .v 0, 0⟩),
   (0x1167E0503C080000, none, .hmax2 ⟨.always, .v 5, .v 7, .s 2, .v 0, 0⟩),
   (0x1177E0503C080020, none, .hcmp2 ⟨.always, .v 5, .v 7, .s 2, .v 0, 32⟩),
   (0x1407E0503801FC00, none, .faddRi ⟨.always, .v 5, .v 7, 0x1fc00, none⟩),
   (0x1427E0503801FC00, none, .fmulRi ⟨.always, .v 5, .v 7, 0x1fc00, none⟩),
   (0x1437E0503801FC00, none, .ffmaRi ⟨.always, .v 5, .v 7, 0x1fc00, none⟩),
   (0x1447E0503801FC00, none, .fminRi ⟨.always, .v 5, .v 7, 0x1fc00, none⟩),
   (0x1457E0503801FC00, none, .fmaxRi ⟨.always, .v 5, .v 7, 0x1fc00, none⟩),
   (0x1467F45038000000, none, .fcmpRi ⟨.always, .p 5, .v 7, 0x0, none⟩)]
theorem test_decode_float : decodes floatWords = true := by decide +kernel
/-- Words of 05 to 11 written out field by field from their encoding tables: Convert. -/
def convertWords : List (W64 × Option W64 × Instr) :=
  [(0x1807E09010303C8B, none, .cvt ⟨.always, .v 9, .v 2, 0b01100, .v 30, 0x8B⟩),
   (0x1817E0503C0800A0, none, .cvtp ⟨.always, .v 5, .v 7, .s 2, .v 0, 160⟩),
   (0x1827E010400C0001, none, .qnb8 ⟨.always, .v 1, .v 8, .v 3, .v 0, 1⟩),
   (0x1837E08008080600, none, .dqnb8 ⟨.always, .v 8, .v 1, .v 2, .v 3, 0⟩),
   (0x1847E010140C0008, none, .qmx ⟨.always, .v 1, .v 2, .s 3, .v 0, 8⟩),
   (0x1857E010140C0010, none, .dqmx ⟨.always, .v 1, .v 2, .s 3, .v 0, 16⟩),
   (0x1867E010140C0009, none, .smax ⟨.always, .v 1, .v 2, .s 3, .v 0, 9⟩),
   (0x1877E0503C080000, none, .cvtfx ⟨.always, .v 5, .v 7, .s 2, .v 0, 0⟩),
   (0x1887E0503C080000, none, .cvtxf ⟨.always, .v 5, .v 7, .s 2, .v 0, 0⟩),
   (0x410020480E0050A0, none, .pairWord ⟨.iadd, false, 0, 4, 9, 0⟩ ⟨.fmul, false, 0, 5, 10, 0⟩),
   (0x410010482100BE00, none, .pairWord ⟨.iadd, false, 0, 2, 9, 0⟩ ⟨.iaddi, false, 0, 11, 0xE0, 0⟩),
   (0x5058340000000000, none, .pairWord ⟨.movi, true, 3, 6, 0x80, 0⟩ ⟨.hnop, false, 0, 0, 0, 0⟩)]
theorem test_decode_convert : decodes convertWords = true := by decide +kernel
/-- Words of 05 to 11 written out field by field from their encoding tables: Memory. -/
def memoryWords : List (W64 × Option W64 × Instr) :=
  [(0x2007E0481000804C, none, .ld ⟨.always, .v 4, .s 2, 64, 0x4C⟩),
   (0x2007E06010800104, none, .ld ⟨.always, .v 6, .v 2, 0x4000, 0x104⟩),
   (0x2017E07010A00104, none, .st ⟨.always, .v 7, .v 2, 0x5000, 0x104⟩),
   (0x2027F04800001045, none, .ldu ⟨.always, .s 4, .s 0, 0x8, 69⟩),
   (0x2037F04800002005, none, .stu ⟨.always, .s 4, .s 0, 0x10, 5⟩),
   (0x2040205808001040, none, .upd ⟨⟨false, 1⟩, .v 5, .s 1, 0x8, 64⟩),
   (0x2057E06040000441, none, .updr ⟨.always, .v 6, .v 8, 0x2, 65⟩),
   (0x2067E06818000A00, none, .ucas ⟨.always, .v 6, .s 3, 0x5, 0⟩),
   (0x2077E06818000045, none, .vismax ⟨.always, .v 6, .s 3, 0x0, 69⟩),
   (0x2087E00000000019, none, .fence ⟨.always, .v 0, .v 0, .v 0, .v 0, 25⟩),
   (0x2097E0081C100008, none, .rfence ⟨.always, .v 0, .s 3, .s 4, .v 0, 8⟩),
   (0x20A7E00818008001, none, .pref ⟨.always, .v 0, .s 3, 0x40, 1⟩),
   (0x20B7E00818008000, none, .discard ⟨.always, .v 0, .s 3, 0x40, 0⟩)]
theorem test_decode_memory : decodes memoryWords = true := by decide +kernel
/-- Words of 05 to 11 written out field by field from their encoding tables: Copy. -/
def copyWords : List (W64 × Option W64 × Instr) :=
  [(0x2807F018140E0804, none, .cpy ⟨.always, .s 1, .s 2, .s 3, .s 4, 4⟩),
   (0x2817F018140E0800, none, .cpyg ⟨.always, .s 1, .s 2, .s 3, .s 4, 0⟩),
   (0x2827F018140E0810, none, .cpys ⟨.always, .s 1, .s 2, .s 3, .s 4, 16⟩),
   (0x2837F018140E0820, none, .cpyt ⟨.always, .s 1, .s 2, .s 3, .s 4, 32⟩),
   (0x2847E00000000004, none, .qfence ⟨.always, .v 0, .v 0, .v 0, .v 0, 4⟩),
   (0x2857F018140E0804, none, .coll ⟨.always, .s 1, .s 2, .s 3, .s 4, 4⟩),
   (0x2867E00D06860600, none, .binit ⟨.always, .v 0, .imm 32, .imm 33, .s 3, 0⟩),
   (0x2877E00D06840000, none, .arrive ⟨.always, .v 0, .imm 32, .imm 33, .v 0, 0⟩),
   (0x2887E0080EC00000, none, .expect ⟨.always, .v 0, .s 1, .imm 48, .v 0, 0⟩),
   (0x2897E00D1C140001, none, .waitp ⟨.always, .v 0, .imm 35, .s 5, .v 0, 1⟩),
   (0x28A7F06D1C140000, none, .bpoll ⟨.always, .s 6, .imm 35, .s 5, .v 0, 0⟩),
   (0x28B7F43826960C00, none, .mona ⟨.always, .p 3, .s 4, .imm 37, .s 6, 0⟩),
   (0x28B7F43826940001, none, .monaCancel ⟨.always, .p 3, .s 4, .imm 37, .v 0, 1⟩)]
theorem test_decode_copy : decodes copyWords = true := by decide +kernel
/-- Words of 05 to 11 written out field by field from their encoding tables: Matrix. -/
def matrixWords : List (W64 × Option W64 × Instr) :=
  [(0x3007E018140C0003, none, .bld ⟨.always, .v 1, .s 2, .s 3, .v 0, 3⟩),
   (0x3017E0200C120A53, none, .mma ⟨.always, .v 2, .v 1, .s 4, .s 5, 0x53⟩),
   (0x3027E000140E085B, none, .mmap ⟨.always, .v 0, .v 2, .s 3, .s 4, 91⟩),
   (0x3037E038140E0800, none, .msa ⟨.always, .v 3, .s 2, .s 3, .s 4, 0⟩),
   (0x3047E07004100001, none, .mzero ⟨.always, .v 7, .v 0, .s 4, .v 0, 1⟩),
   (0x3057F0101C120C08, none, .mdr ⟨.always, .s 1, .v 3, .s 4, .s 6, 8⟩),
   (0x3067E03024140000, none, .mmov ⟨.always, .v 3, .v 4, .s 5, .v 0, 0⟩),
   (0x3077F01014137E13, none, .mmt ⟨.always, .s 1, .v 2, .s 4, .imm 63, 19⟩),
   (0x3087F01006800000, none, .mres ⟨.always, .s 1, .v 0, .imm 32, .v 0, 0⟩),
   (0x3097E00D20000000, none, .mchk ⟨.always, .v 0, .imm 36, .v 0, .v 0, 0⟩),
   (0x30A7F09000000001, none, .mstat ⟨.always, .s 9, .v 0, .v 0, .v 0, 1⟩)]
theorem test_decode_matrix : decodes matrixWords = true := by decide +kernel
/-- Words of 05 to 11 written out field by field from their encoding tables: Image. -/
def imageWords : List (W64 × Option W64 × Instr) :=
  [(0x3807E04818201805, none, .tex ⟨.always, .v 4, .s 3, .v 8, .v 12, 5⟩),
   (0x3817E04818234400, none, .tld ⟨.always, .v 4, .s 3, .v 8, .imm 34, 0⟩),
   (0x3827E04818200003, none, .tgath ⟨.always, .v 4, .s 3, .v 8, .v 0, 3⟩),
   (0x3837E04818034000, none, .tdim ⟨.always, .v 4, .s 3, .v 0, .imm 32, 0⟩),
   (0x3847E04818201800, none, .ist ⟨.always, .v 4, .s 3, .v 8, .v 12, 0⟩),
   (0x3857E0A820080001, none, .hgf ⟨.always, .v 10, .s 4, .v 2, .v 0, 1⟩),
   (0x3867E0A8200A0A01, none, .hgs ⟨.always, .v 10, .s 4, .v 2, .s 5, 1⟩),
   (0x3877E000840C0000, none, .rbox ⟨.always, .v 0, .v 16, .s 3, .v 0, 0⟩),
   (0x3887E00818000000, none, .rtri ⟨.always, .v 0, .s 3, .v 0, .v 0, 0⟩),
   (0x3897E000080B4803, none, .mvtx ⟨.always, .v 0, .v 1, .v 2, .imm 36, 3⟩),
   (0x38A7E00008080600, none, .mprim ⟨.always, .v 0, .v 1, .v 2, .v 3, 0⟩),
   (0x38B7E0080E900000, none, .mcommit ⟨.always, .v 0, .s 1, .imm 36, .v 0, 0⟩)]
theorem test_decode_image : decodes imageWords = true := by decide +kernel
/-- Queue words written out from R303 and R304. -/
def queueAccessWords : List (W32 × Instr) :=
  [(0x04D17FF8, .qbLdb 3 4 5 0x3FF8),
   (0x08D17FF8, .qbLdh 3 4 5 0x3FF8),
   (0x0CD17FF8, .qbLdw 3 4 5 0x3FF8),
   (0x10D17FF8, .qbLdd 3 4 5 0x3FF8),
   (0x14D17FF8, .qbStb 3 4 5 0x3FF8),
   (0x18D17FF8, .qbSth 3 4 5 0x3FF8),
   (0x1CD17FF8, .qbStw 3 4 5 0x3FF8),
   (0x20D17FF8, .qbStd 3 4 5 0x3FF8),
   (0x10400008, .qbLdd 1 0 0 8),
   (0x20408010, .qbStd 1 0 2 16),
   (0xC4008000, .emit 0 2 0),
   (0xF8000000, .halt)]
theorem test_decode_queueAccess : decodesQueue queueAccessWords = true := by decide +kernel
/-- Queue words written out from R303 and R304. -/
def queueArithWords : List (W32 × Instr) :=
  [(0x404BC000, .qbAdd 1 2 15),
   (0x444BC000, .qbSub 1 2 15),
   (0x484BC000, .qbAnd 1 2 15),
   (0x4C4BC000, .qbOr 1 2 15),
   (0x504BC000, .qbXor 1 2 15),
   (0x544BC000, .qbShl 1 2 15),
   (0x584BC000, .qbShr 1 2 15),
   (0x5C4BC000, .qbMul 1 2 15),
   (0x804BC000, .qbCeq 1 2 15),
   (0x844BC000, .qbCne 1 2 15),
   (0x884BC000, .qbCltu 1 2 15),
   (0x8C4BC000, .qbClts 1 2 15),
   (0x604BFFFB, .qbAddi 1 2 0x3FFFB),
   (0x644BFFFB, .qbAndi 1 2 0x3FFFB),
   (0x684BFFFB, .qbOri 1 2 0x3FFFB),
   (0x6C4BFFFB, .qbXori 1 2 0x3FFFB)]
theorem test_decode_queueArith : decodesQueue queueArithWords = true := by decide +kernel
/-- Queue words written out from R303 and R304. -/
def queueControlWords : List (W32 × Instr) :=
  [(0x7048003F, .qbShli 1 2 63),
   (0x74480007, .qbShri 1 2 7),
   (0x7843FFFF, .qbMovi 1 0x3FFFF),
   (0x7C400009, .qbShlor 1 9),
   (0xA0040002, .qbBz 1 2),
   (0xA4040003, .qbBnz 1 3),
   (0xA8000004, .qbJmp 4),
   (0xAC0FF005, .qbLoop 3 63 5),
   (0xB1800000, .qbLidx 6),
   (0xC0800000, .launch 2),
   (0xC0800001, .signal 2),
   (0xC0800002, .hash 2),
   (0xC0800003, .sign 2),
   (0xC0800004, .random 2),
   (0xC0800005, .doesend 2),
   (0xC0800006, .measread 2),
   (0xFC000155, .fault 0x155)]
theorem test_decode_queueControl : decodesQueue queueControlWords = true := by decide +kernel


/-! ### Reserved encodings and ill-formed terms -/

-- R127, R129: an unassigned opcode, a reserved class, a reserved operand code, MOD out of range, an illegal pair.
theorem test_decode_refused :
    [decodeWord 0x0187E00000000000 none, decodeWord 0xC000000000000000 none, decodeWord 0x0807F7C000000000 none,
     decodeWord 0x08C7F4205E800018 none, decodeWord 0x410020480E0050D0 none, decodeWord 0x5800000000000000 none].map
      (fun r => match r with
        | .error e => e.code
        | .ok _ => 0xFF) = [0x01, 0x00, 0x02, 0x04, 0x03, 0x01] := by decide +kernel
-- R112: an extension behind MOVI with a nonzero reserved bit is ILL_CLASS; a plain word behind it is none.
theorem test_decode_extension :
    ((decodeWord 0x0A17F0A006789ABC (some 0x8000010000000000)).toOption, (decodeWord 0x0A17F0A006789ABC (some 0)).toOption) =
      (none, some (.movi ⟨.always, .s 10, .v 0, 0x6789ABC, none⟩)) := by decide +kernel
-- R310: an unassigned operation, and a nonzero field that the format does not use.
theorem test_decode_queue_refused : [decodeQueue 0x00000000, decodeQueue 0x40400001, decodeQueue 0xF8000001] = [none, none, none] := by
  decide +kernel
-- R116 to R126: one term that each check of `Instr.wellFormed` refuses, beside one that differs in that field alone.
theorem test_ill_modifier : ((Instr.lred ⟨.always, .s 2, .v 9, .v 0, .v 0, 10⟩).wellFormed, (Instr.lred ⟨.always, .s 2, .v 9, .v 0, .v 0, 11⟩).wellFormed) = (true, false) := by decide
theorem test_ill_operand : ((Instr.bld ⟨.always, .v 7, .s 1, .s 2, .v 0, 0⟩).wellFormed, (Instr.bld ⟨.always, .v 8, .s 1, .s 2, .v 0, 0⟩).wellFormed) = (true, false) := by decide
theorem test_ill_guard : ((Instr.ret ⟨.always, .v 0, .v 0, .v 0, .v 0, 0⟩).wellFormed, (Instr.ret ⟨⟨false, 0⟩, .v 0, .v 0, .v 0, .v 0, 0⟩).wellFormed) = (true, false) := by decide
theorem test_ill_loop : ((Instr.qbLoop 1 0 1).wellFormed, (Instr.qbLoop 1 0 0).wellFormed) = (true, false) := by decide
theorem test_ill_extension : ((Instr.faddRi ⟨.always, .v 1, .v 2, 0, none⟩).wellFormed, (Instr.faddRi ⟨.always, .v 1, .v 2, 0, some 0⟩).wellFormed) = (true, false) := by decide
theorem test_ill_pair : ((Instr.pairWord ⟨.iadd, false, 0, 4, 9, 0⟩ ⟨.fmul, false, 0, 5, 10, 0⟩).wellFormed,
    (Instr.pairWord ⟨.iadd, false, 0, 4, 9, 0⟩ ⟨.fmul, false, 0, 5, 13, 0⟩).wellFormed) = (true, false) := by decide

/-! ### A bench: one group at the first offset of its kernel, whose word is the focused one -/

/-- A group in slot 0 of core 0, its first offset begun, with nothing else in the machine (log entry 28). -/
def bench : State :=
  let s := { (State.reset.withFetchWord 64 0x0007E00000000000) with focus := .group 0 0 0 }
  match s.groups.get? 0, s.wgs.get? 1 with
  | some g, some w => (s.beginOffset 0 w g).1
  | _, _ => s
/-- The bench with its group or its workgroup changed. -/
def tune (f : Group → Group) : State := bench.updGroup 0 f
@[inherit_doc tune] def tuneWg (s : State) (f : Wg → Wg) : State := { s with wgs := s.wgs.modify 1 f }
/-- The bench with registers: vectors (register, lane, value), uniform registers, predicates. -/
def setRegs (g : Group) (v : List (Nat × Nat × W32)) (u : List (Nat × W64)) (p : List (Nat × Mask)) : Group :=
  let r := v.foldl (fun (r : Regs) x => r.setVec x.1 x.2.1 x.2.2) g.regs
  let r := u.foldl (fun (r : Regs) x => r.setUni x.1 x.2) r
  { g with regs := p.foldl (fun (r : Regs) x => r.setPred x.1 x.2) r }
@[inherit_doc setRegs] def regs (v : List (Nat × Nat × W32)) (u : List (Nat × W64)) (p : List (Nat × Mask)) : State :=
  tune fun g => setRegs g v u p
/-- All 32 lanes of a vector register. -/
def lanes32 (n : Nat) (f : Nat → W32) : List (Nat × Nat × W32) := (List.range 32).map fun l => (n, l, f l)

/-- `State.Reaches`, and a test of the word's context. -/
def reachB (s : State) (i : Instr) (p : Ctx → Bool := fun _ => true) : Bool :=
  match s.ctx? i.congruent with
  | some c => (c.wordCause s i).isNone && !(wordSpans i).any c.g.isPending && (s.pairOf c.g.wg).isNone
      && (s.core c.core).inject.isNone && p c
  | none => false
/-- `State.Issues`, and a test of the word's context. -/
def issueB (s : State) (i : Instr) (p : Ctx → Bool := fun _ => true) : Bool :=
  reachB s i fun c => decide (c.g.ofs.toNat + 1 < c.w.desc.len) && p c
theorem reaches_of {s : State} {i : Instr} {p : Ctx → Bool} (h : reachB s i p = true) : ∃ c, s.Reaches i c ∧ p c = true := by
  unfold reachB at h
  split at h
  · next c hc =>
    simp only [Bool.and_eq_true, Option.isNone_iff_eq_none, Bool.not_eq_true'] at h
    exact ⟨c, ⟨hc, h.1.1.1.1, h.1.1.1.2, h.1.1.2, h.1.2⟩, h.2⟩
  · cases h
theorem issues_of {s : State} {i : Instr} {p : Ctx → Bool} (h : issueB s i p = true) : ∃ c, s.Issues i c ∧ p c = true := by
  obtain ⟨c, hc, hp⟩ := reaches_of h
  simp only [Bool.and_eq_true, decide_eq_true_eq] at hp
  exact ⟨c, ⟨hc, hp.1⟩, hp.2⟩
theorem issues_all {s : State} {ws : List (W64 × Option W64 × Instr)} (h : (ws.all fun x => issueB s x.2.2) = true) :
    ∀ x ∈ ws, ∃ c, s.Issues x.2.2 c := fun x hx =>
  let ⟨c, hc, _⟩ := issues_of (List.all_eq_true.mp h x hx)
  ⟨c, hc⟩
/-- What a step leaves of the issuing group; `none` if it is no next state. -/
def after (i : Instr) (s : State) : Option Group :=
  match exec i s with
  | .next t => t.groups.get? 0
  | _ => none
/-- A vector register's lane after a word. -/
def vecAfter (i : Instr) (s : State) (n l : Nat) : Option W32 := (after i s).map fun g => g.regs.vec n l
@[inherit_doc vecAfter] def uniAfter (i : Instr) (s : State) (n : Nat) : Option W64 := (after i s).map fun g => g.regs.uni n
@[inherit_doc vecAfter] def predAfter (i : Instr) (s : State) (n : Nat) : Option Mask := (after i s).map fun g => g.regs.pred n
/-- An always-guarded RRR word. -/
def rw (d a b c : Opnd) (m : BitVec 9) : RRR := ⟨.always, d, a, b, c, m⟩
/-- The causes a word is turned into: the record its workgroup keeps when its group, without a handler, ends (R161). -/
def trapped (i : Instr) (s : State) : Option (BitVec 8 × W64) :=
  match exec i s with
  | .next t => (t.wgs.get? 1).bind fun w => w.trap.map fun r => ((r.words.getD 0 0).truncate 8, r.words.getD 3 0)
  | _ => none

/-! ### The hypotheses of the statements about core words are met -/

-- IntegerResults, BitResults, SelectionAndMoves, PredicateMovesAndVotes, LaneExchange, FloatResults, ConversionResults,
-- PairWords, PassingWords and the first clause of each statement of a result: every core word issues at the bench.
theorem witness_control : ∀ x ∈ controlWords, ∃ c, bench.Issues x.2.2 c := issues_all (by decide +kernel)
theorem witness_integer : ∀ x ∈ integerWords ++ integerRiWords, ∃ c, bench.Issues x.2.2 c := issues_all (by decide +kernel)
theorem witness_float : ∀ x ∈ floatWords ++ convertWords, ∃ c, bench.Issues x.2.2 c := issues_all (by decide +kernel)
theorem witness_memory : ∀ x ∈ memoryWords ++ copyWords, ∃ c, bench.Issues x.2.2 c := issues_all (by decide +kernel)
theorem witness_matrix : ∀ x ∈ matrixWords ++ imageWords, ∃ c, bench.Issues x.2.2 c := issues_all (by decide +kernel)

/-! ### Small steps: expected values from the spec's rules by hand -/

-- R189: sums wrap, and clamp with .sat.
theorem test_iadd_wraps : vecAfter (.iadd (rw (.v 5) (.v 7) (.s 9) (.v 0) 0)) (regs [(7, 3, 0xFFFFFFFF)] [(9, 2)] []) 5 3 = some 1 := by decide +kernel
theorem test_iadd_sat : vecAfter (.iadd (rw (.v 5) (.v 7) (.imm 33) (.v 0) 4)) (regs [(7, 3, 0x7FFFFFFF)] [] []) 5 3 = some 0x7FFFFFFF := by decide +kernel
theorem test_isub_unsigned_sat : vecAfter (.isub (rw (.v 5) (.imm 33) (.imm 34) (.v 0) 5)) bench 5 31 = some 0 := by decide +kernel
-- R185, R188: a uniform destination is 64 bits wide.
theorem test_imul_uniform : uniAfter (.imul (rw (.s 5) (.s 6) (.s 6) (.v 0) 0)) (regs [] [(6, 0x100000001)] []) 5 = some 0x200000001 := by decide +kernel
theorem test_imulh_signs : (vecAfter (.imulh (rw (.v 5) (.imm 31) (.imm 31) (.v 0) 0)) bench 5 0, vecAfter (.imulh (rw (.v 5) (.imm 31) (.imm 31) (.v 0) 1)) bench 5 0) =
    (some 0, some 0xFFFFFFFE) := by decide +kernel
theorem test_imad_source_is_destination : vecAfter (.imad (rw (.v 5) (.v 5) (.v 5) (.v 5) 0)) (regs [(5, 0, 3)] [] []) 5 0 = some 12 := by decide +kernel
theorem test_imadw_sign : (vecAfter (.imadw (rw (.v 4) (.imm 31) (.imm 34) (.v 6) 0)) (regs [(6, 0, 1)] [] []) 4 0,
    vecAfter (.imadw (rw (.v 4) (.imm 31) (.imm 34) (.v 6) 0)) (regs [(6, 0, 1)] [] []) 5 0) = (some 0xFFFFFFFF, some 0xFFFFFFFF) := by decide +kernel
-- R190: truncation, the one overflow, the trap and its lanes.
theorem test_idiv_truncates : (vecAfter (.idiv (rw (.v 5) (.v 7) (.imm 34) (.v 0) 0)) (regs [(7, 0, 0xFFFFFFF9)] [] []) 5 0,
    vecAfter (.irem (rw (.v 5) (.v 7) (.imm 34) (.v 0) 0)) (regs [(7, 0, 0xFFFFFFF9)] [] []) 5 0) = (some 0xFFFFFFFD, some 0xFFFFFFFF) := by decide +kernel
theorem test_idiv_overflow : (vecAfter (.idiv (rw (.v 5) (.v 7) (.imm 31) (.v 0) 0)) (regs [(7, 0, 0x80000000)] [] []) 5 0,
    vecAfter (.irem (rw (.v 5) (.v 7) (.imm 31) (.v 0) 0)) (regs [(7, 0, 0x80000000)] [] []) 5 0) = (some 0x80000000, some 0) := by decide +kernel
theorem test_idiv_zero_traps : trapped (.idiv (rw (.v 5) (.v 7) (.imm 32) (.v 0) 0)) bench = some (0x41, 0) := by decide +kernel
theorem test_irem_zero_traps : trapped (.irem (rw (.v 5) (.v 7) (.imm 32) (.v 0) 0)) bench = some (0x41, 0) := by decide +kernel
theorem test_imin_imax_order : (vecAfter (.imin (rw (.v 5) (.imm 31) (.imm 33) (.v 0) 0)) bench 5 0, vecAfter (.imin (rw (.v 5) (.imm 31) (.imm 33) (.v 0) 1)) bench 5 0,
    vecAfter (.imax (rw (.v 5) (.imm 31) (.imm 33) (.v 0) 1)) bench 5 0) = (some 0xFFFFFFFF, some 1, some 0xFFFFFFFF) := by decide +kernel
theorem test_iabs_min : (vecAfter (.iabs (rw (.v 5) (.v 7) (.v 0) (.v 0) 0)) (regs [(7, 0, 0x80000000)] [] []) 5 0,
    vecAfter (.ineg (rw (.v 5) (.v 7) (.v 0) (.v 0) 4)) (regs [(7, 0, 0x80000000)] [] []) 5 0) = (some 0x80000000, some 0x7FFFFFFF) := by decide +kernel
theorem test_icmp_signedness : (predAfter (.icmp (rw (.p 2) (.imm 31) (.imm 33) (.v 0) 8)) bench 2, predAfter (.icmp (rw (.p 2) (.imm 31) (.imm 33) (.v 0) 9)) bench 2) =
    (some 0xFFFFFFFF, some 0) := by decide +kernel
-- R189: the carry goes in and out of one predicate; .sub adds the complement.
theorem test_iaddc_carry : (vecAfter (.iaddc (rw (.v 5) (.v 7) (.imm 32) (.p 1) 0)) (regs [(7, 0, 0xFFFFFFFF)] [] [(1, 1)]) 5 0,
    predAfter (.iaddc (rw (.v 5) (.v 7) (.imm 32) (.p 1) 0)) (regs [(7, 0, 0xFFFFFFFF)] [] [(1, 1)]) 1) = (some 0, some 1) := by decide +kernel
-- R191: counts at and past the width; bit fields clipped at the top.
theorem test_shifts_past_width : (vecAfter (.shl (rw (.v 5) (.imm 33) (.s 9) (.v 0) 0)) (regs [] [(9, 32)] []) 5 0, vecAfter (.shr (rw (.v 5) (.imm 31) (.s 9) (.v 0) 0)) (regs [] [(9, 200)] []) 5 0,
    vecAfter (.sar (rw (.v 5) (.imm 31) (.s 9) (.v 0) 0)) (regs [] [(9, 200)] []) 5 0, vecAfter (.rol (rw (.v 5) (.imm 33) (.s 9) (.v 0) 0)) (regs [] [(9, 33)] []) 5 0) =
    (some 0, some 0, some 0xFFFFFFFF, some 2) := by decide +kernel
theorem test_logic_words : (vecAfter (.and (rw (.v 5) (.imm 44) (.imm 42) (.v 0) 0)) bench 5 0, vecAfter (.or (rw (.v 5) (.imm 44) (.imm 42) (.v 0) 0)) bench 5 0,
    vecAfter (.xor (rw (.v 5) (.imm 44) (.imm 42) (.v 0) 0)) bench 5 0, vecAfter (.andn (rw (.v 5) (.imm 44) (.imm 42) (.v 0) 0)) bench 5 0, vecAfter (.not (rw (.v 5) (.imm 44) (.v 0) (.v 0) 0)) bench 5 0) =
    (some 8, some 14, some 6, some 4, some 0xFFFFFFF3) := by decide +kernel
theorem test_bfx_clips_and_extends : (vecAfter (.bfx (rw (.v 5) (.v 7) (.imm 60) (.imm 40) 0)) (regs [(7, 0, 0xF0000000)] [] []) 5 0,
    vecAfter (.bfx (rw (.v 5) (.v 7) (.imm 60) (.imm 40) 1)) (regs [(7, 0, 0xF0000000)] [] []) 5 0) = (some 0xFFFFFFFF, some 0xF) := by decide +kernel
theorem test_bfi : vecAfter (.bfi (rw (.v 5) (.imm 31) (.imm 32) (.s 9) 0)) (regs [] [(9, 0x0804)] []) 5 0 = some 0xFF0 := by decide +kernel
theorem test_counts_of_zero : (vecAfter (.popc (rw (.v 5) (.imm 31) (.v 0) (.v 0) 0)) bench 5 0, vecAfter (.clz (rw (.v 5) (.imm 32) (.v 0) (.v 0) 0)) bench 5 0,
    vecAfter (.ctz (rw (.v 5) (.imm 32) (.v 0) (.v 0) 0)) bench 5 0, vecAfter (.brev (rw (.v 5) (.imm 33) (.v 0) (.v 0) 0)) bench 5 0) = (some 32, some 32, some 32, some 0x80000000) := by decide +kernel
-- R192: byte 4 is b's lowest, and a selector of 8 or more replicates the sign; SEL; LEA; DOT4 signed.
theorem test_permb : vecAfter (.permb (rw (.v 5) (.v 6) (.v 7) (.s 9) 0)) (regs [(6, 0, 0x44332280), (7, 0, 0x88776655)] [] [] |>.updRegs 0 fun r => r.setUni 9 0x8410) 5 0 = some 0xFF552280 := by decide +kernel
theorem test_sel_guard : (vecAfter (.sel ⟨⟨false, 2⟩, .v 5, .imm 33, .imm 34, .p 1, 0⟩) (regs [] [] [(1, 1), (2, 3)]) 5 0, vecAfter (.sel ⟨⟨false, 2⟩, .v 5, .imm 33, .imm 34, .p 1, 0⟩) (regs [] [] [(1, 1), (2, 3)]) 5 1,
    vecAfter (.sel ⟨⟨false, 2⟩, .v 5, .imm 33, .imm 34, .p 1, 0⟩) (regs [] [] [(1, 1), (2, 3)]) 5 2) = (some 1, some 2, some 0) := by decide +kernel
theorem test_lea_scales : uniAfter (.lea (rw (.s 5) (.s 6) (.imm 31) (.v 0) 8)) (regs [] [(6, 0x100)] []) 5 = some 0xFC := by decide +kernel
theorem test_mov_special : vecAfter (.mov (rw (.v 5) (.sr .lane) (.v 0) (.v 0) 0)) bench 5 31 = some 31 := by decide +kernel
theorem test_mov_exec : (after (.mov (rw (.sr .exec) (.imm 37) (.v 0) (.v 0) 0)) (tune fun g => { g with live := 6 })).map (·.exec) = some 4 := by decide +kernel
-- 05, the worked MOVI: s10 becomes 0x0000_1234_5678_9ABC.
theorem test_movi_example : uniAfter (.movi ⟨.always, .s 10, .v 0, 0x6789ABC, some 0x2468A⟩) bench 10 = some 0x123456789ABC := by decide +kernel
theorem test_movi_without_extension : trapped (.movi ⟨.always, .s 10, .v 0, 0x6789ABC, none⟩) bench = some (0x09, 0x0A17F0A006789ABC) := by decide +kernel
theorem test_dot4 : vecAfter (.dot4 (rw (.v 5) (.v 6) (.v 7) (.imm 33) 0)) (regs [(6, 0, 0xFF02FF02), (7, 0, 0x03030303)] [] []) 5 0 = some 7 := by decide +kernel
theorem test_iaddRi_negative : vecAfter (.iaddRi ⟨.always, .v 5, .v 7, 0x7FFFFFF, none⟩) bench 5 0 = some 0xFFFFFFFF := by decide +kernel
-- R195, R97, R98: exact, then rounded once; a NaN is canonical; −0 stays.
theorem test_float_words : (vecAfter (.fadd (rw (.v 5) (.v 6) (.v 7) (.v 0) 0)) (regs [(6, 0, 0x3FC00000), (7, 0, 0x3FA00000)] [] []) 5 0,
    vecAfter (.fsub (rw (.v 5) (.v 6) (.v 6) (.v 0) 0)) (regs [(6, 0, 0x3FC00000)] [] []) 5 0, vecAfter (.fmul (rw (.v 5) (.v 6) (.v 7) (.v 0) 0)) (regs [(6, 0, 0x40000000), (7, 0, 0xBF800000)] [] []) 5 0,
    vecAfter (.fdiv (rw (.v 5) (.v 6) (.v 7) (.v 0) 0)) (regs [(6, 0, 0x3F800000), (7, 0, 0x40400000)] [] []) 5 0) = (some 0x40300000, some 0, some 0xC0000000, some 0x3EAAAAAB) := by decide +kernel
theorem test_ffma_rounds_once : vecAfter (.ffma (rw (.v 5) (.v 6) (.v 6) (.v 7) 0)) (regs [(6, 0, 0x3F800001), (7, 0, 0xBF800002)] [] []) 5 0 = some 0x28800000 := by decide +kernel
theorem test_float_nan : (vecAfter (.fadd (rw (.v 5) (.v 6) (.v 7) (.v 0) 0)) (regs [(6, 0, 0xFF800001), (7, 0, 0)] [] []) 5 0, vecAfter (.fmin (rw (.v 5) (.v 6) (.v 7) (.v 0) 0)) (regs [(6, 0, 0x7FC00001), (7, 0, 0x3F800000)] [] []) 5 0) =
    (some 0x7FC00000, some 0x3F800000) := by decide +kernel
theorem test_float_functions : (vecAfter (.fsqrt (rw (.v 5) (.v 6) (.v 0) (.v 0) 0)) (regs [(6, 0, 0x40800000)] [] []) 5 0, vecAfter (.frcp (rw (.v 5) (.v 6) (.v 0) (.v 0) 0)) (regs [(6, 0, 0x40000000)] [] []) 5 0,
    vecAfter (.fexp2 (rw (.v 5) (.v 6) (.v 0) (.v 0) 0)) (regs [(6, 0, 0x40400000)] [] []) 5 0, vecAfter (.flog2 (rw (.v 5) (.v 6) (.v 0) (.v 0) 0)) (regs [(6, 0, 0x41000000)] [] []) 5 0,
    vecAfter (.fscale (rw (.v 5) (.v 6) (.imm 31) (.v 0) 0)) (regs [(6, 0, 0x40000000)] [] []) 5 0) = (some 0x40000000, some 0x3F000000, some 0x41000000, some 0x40400000, some 0x3F800000) := by decide +kernel
theorem test_frnd_modes : (vecAfter (.frnd (rw (.v 5) (.v 6) (.v 0) (.v 0) 0)) (regs [(6, 0, 0x40200000)] [] []) 5 0, vecAfter (.frnd (rw (.v 5) (.v 6) (.v 0) (.v 0) 2)) (regs [(6, 0, 0x40200000)] [] []) 5 0) =
    (some 0x40000000, some 0x40400000) := by decide +kernel
theorem test_hadd2_elements : vecAfter (.hadd2 (rw (.v 5) (.v 6) (.v 7) (.v 0) 0)) (regs [(6, 0, 0x3C004000), (7, 0, 0x3C003C00)] [] []) 5 0 = some 0x40004200 := by decide +kernel
-- 08, the worked CVT: t = 153, z = 102 in lane 0 and 103 in lane 1.
theorem test_cvt_example : (vecAfter (.cvt ⟨.always, .v 9, .v 2, 0b01100, .v 30, 0x8B⟩) (regs [(2, 0, 0x3E99999A), (30, 0, 0x66), (2, 1, 0x3E99999A), (30, 1, 0x67)] [] []) 9 0,
    vecAfter (.cvt ⟨.always, .v 9, .v 2, 0b01100, .v 30, 0x8B⟩) (regs [(2, 0, 0x3E99999A), (30, 0, 0x66), (2, 1, 0x3E99999A), (30, 1, 0x67)] [] []) 9 1) = (some 0x29, some 0x2A) := by decide +kernel
-- R125: both halves read before either writes.
theorem test_pair_reads_first : (vecAfter (.pairWord ⟨.iadd, false, 0, 4, 5, 0⟩ ⟨.iadd, false, 0, 5, 4, 0⟩) (regs [(4, 0, 1), (5, 0, 10)] [] []) 4 0,
    vecAfter (.pairWord ⟨.iadd, false, 0, 4, 5, 0⟩ ⟨.iadd, false, 0, 5, 4, 0⟩) (regs [(4, 0, 1), (5, 0, 10)] [] []) 5 0) = (some 11, some 11) := by decide +kernel
-- 06: moves between planes and predicates, votes, shuffles, reductions.
theorem test_vote_ballot_none : uniAfter (.vote ⟨⟨false, 9⟩, .s 3, .p 4, .v 0, .v 0, 0⟩) (regs [] [] [(4, 7)]) 3 = some 0 := by decide +kernel
theorem test_plog_and : predAfter (.plog (rw (.p 1) (.p 2) (.p 3) (.imm 32) 0xC0)) (regs [] [] [(2, 6), (3, 3)]) 1 = some 2 := by decide +kernel
theorem test_lshf_down : (vecAfter (.lshf (rw (.v 5) (.v 6) (.imm 33) (.v 0) 1)) (regs [(6, 0, 10), (6, 1, 11)] [] []) 5 0, vecAfter (.lshf (rw (.v 5) (.v 6) (.imm 33) (.v 0) 1)) (regs [(6, 0, 10), (6, 1, 11)] [] []) 5 1) =
    (some 10, some 10) := by decide +kernel
theorem test_lred_sum : uniAfter (.lred (rw (.s 2) (.v 9) (.v 0) (.v 0) 0)) (regs (lanes32 9 fun l => BitVec.ofNat 32 l) [] []) 2 = some 496 := by decide +kernel
theorem test_pset_range : trapped (.pset (rw (.v 0) (.imm 33) (.v 0) (.v 0) 0)) bench = some (0x06, 1) := by decide +kernel
theorem test_bra_target : (after (.bra ⟨.always, 9, 0⟩) bench).map (·.ofs) = some 9 := by decide +kernel
theorem test_bra_out_of_range : trapped (.bra ⟨.always, 512, 0⟩) bench = some (0x0A, 512) := by decide +kernel
-- R148: p2 in lanes 1 and 3 sends them to 4, the rest to 1, with the join at 7.
theorem test_brc_diverges : (after (.brc ⟨⟨false, 2⟩, 4, 7⟩) (tune fun g => setRegs { g with exec := 15, live := 15 } [] [] [(2, 10)])).map (fun g => (g.ofs, g.exec, g.cj, g.hw)) =
    some (1, 5, 7, [⟨4, 10, 7⟩, ⟨7, 15, 0xFFFFFF⟩]) := by decide +kernel
theorem test_call_frame : (after (.call ⟨.always, 9, 0⟩) bench).map (fun g => (g.ofs, g.cj, g.callDepth, g.frameBytes)) = some (9, 0xFFFFFF, 1, 16) := by decide +kernel
theorem test_ret_without_frame : trapped (.ret (rw (.v 0) (.v 0) (.v 0) (.v 0) 0)) bench = some (0x0B, 0) := by decide +kernel
theorem test_tret_without_frame : trapped (.tret (rw (.v 0) (.v 0) (.v 0) (.v 0) 0)) bench = some (0x0C, 0) := by decide +kernel
theorem test_exit_all_ends : (after (.exit (rw (.v 0) (.v 0) (.v 0) (.v 0) 0)) bench).map (fun g => (g.ended, g.live)) = some (true, 0) := by decide +kernel
theorem test_trap_code : trapped (.trap ⟨.always, .v 0, .v 0, 0x1234, none⟩) bench = some (0x10, 0x1234) := by decide +kernel
theorem test_csrr_unknown : trapped (.csrr ⟨.always, .s 5, .v 0, 0xFFF, none⟩) bench = (some (0x0D, 0xFFF)) := by decide +kernel

/-! ### The hypotheses of the clauses: control, traps, memory -/

/-- The state after a step, begun again at its group's new offset. -/
def go (i : Instr) (s : State) : State :=
  match exec i s with
  | .next t =>
    let t := { t with focus := .group 0 0 0 }
    match t.groups.get? 0, t.wgs.get? 1 with
    | some g, some w => (t.beginOffset 0 w g).1
    | _, _ => t
  | _ => s
/-- Whether a word or an event answers a next state. -/
def runs (i : Instr) (s : State) : Bool :=
  match exec i s with
  | .next _ => true
  | _ => false
/-- A word without operands. -/
def bare (m : BitVec 9 := 0) : RRR := rw (.v 0) (.v 0) (.v 0) (.v 0) m
/-- The group and the workgroup of a state. -/
def grp (s : State) : Group := (s.groups.get? 0).getD (Group.start 1 (loadWg 0) 0 0)
@[inherit_doc grp] def wkg (s : State) : Wg := (s.wgs.get? 1).getD (loadWg 0)
/-- The bench with a handler at offset 100. -/
def handled : State := tuneWg bench fun w => { w with desc := { w.desc with trapEnt := 100 } }
/-- Inside that handler, after TRAP 5 at offset 0. -/
def inHandler : State := go (.trap ⟨.always, .v 0, .v 0, 5, none⟩) handled
/-- The zero divisor of DivisionCompareCarry in the last lane alone, and no zero divisor. -/
def divisor (last : W32) : State := regs (lanes32 7 fun l => if l = 31 then last else 1) [] []

-- DivisionCompareCarry: no zero in a lane that takes part; a zero in lane 31 alone.
theorem witness_DivisionCompareCarry :
    (issueB (divisor 1) (.idiv (rw (.v 5) (.v 6) (.v 7) (.v 0) 0)) fun c => (List.range 32).all fun l => (divisor 1).bitsOf c false (.v 7) l != 0) &&
    (reachB (divisor 0) (.irem (rw (.v 5) (.v 6) (.v 7) (.v 0) 0)) fun c => (divisor 0).bitsOf c false (.v 7) 31 == 0 && (c.part .always).getLsbD 31) = true := by decide +kernel
-- SelectionAndMoves: MOV to EXEC and to CHKINT, in some lane and in none.
theorem witness_SelectionAndMoves :
    [Opnd.sr .exec, .sr .chkint].all (fun d => issueB bench (.mov (rw d (.imm 33) (.v 0) (.v 0) 0)) (fun c => c.part .always != 0) &&
      issueB bench (.mov ⟨⟨false, 0⟩, d, .imm 33, .v 0, .v 0, 0⟩) (fun c => c.part ⟨false, 0⟩ == 0) && issueB bench (.movRi ⟨.always, d, .v 0, 5, none⟩)) = true := by decide +kernel
-- PredicateMovesAndVotes: each form of PMOV and VOTE, with participants and without.
theorem witness_PredicateMovesAndVotes :
    (issueB bench (.pmov (rw (.p 1) (.v 2) (.v 0) (.v 0) 0)) && issueB bench (.pmov (rw (.v 1) (.p 2) (.v 0) (.v 0) 1)) &&
     issueB bench (.pmov (rw (.s 1) (.p 2) (.v 0) (.v 0) 2)) && issueB bench (.pmov (rw (.p 1) (.s 2) (.v 0) (.v 0) 3)) &&
     issueB bench (.vote (rw (.s 1) (.p 2) (.v 0) (.v 0) 0)) && issueB bench (.vote (rw (.p 1) (.p 2) (.v 0) (.v 0) 1)) &&
     issueB bench (.vote (rw (.p 1) (.p 2) (.v 0) (.v 0) 2)) (fun c => c.part .always == 0xFFFFFFFF) &&
     issueB bench (.vote ⟨⟨false, 0⟩, .p 1, .v 2, .v 0, .v 0, 3⟩) (fun c => c.part ⟨false, 0⟩ == 0)) = true := by decide +kernel
-- LaneExchange: every mode of LSHF and every operation of LRED.
theorem witness_LaneExchange :
    ((List.range 5).all (fun m => issueB bench (.lshf (rw (.v 1) (.v 2) (if m = 0 then .v 3 else .s 3) (.v 0) (BitVec.ofNat 9 m)))) &&
     (List.range 11).all (fun m => issueB bench (.lred (rw (.s 1) (.v 2) (.v 0) (.v 0) (BitVec.ofNat 9 m))))) = true := by decide +kernel
-- Rounding: 1/3 in every format, and the largest finite code itself, are within the range.
theorem witness_Rounding :
    [fp32, fp16, bf16, e4m3, e5m2, fp4].all (fun f => [RMode.near, .zero].all fun r => decide (f.roundCode r false 1 3 ≤ f.maxCode) &&
      decide (f.roundCode r false (magnitudeOf f f.maxCode).1 (magnitudeOf f f.maxCode).2 = f.maxCode)) = true := by decide +kernel
-- ConversionResults: the codes of the first and the last type name types.
theorem witness_ConversionResults : ((CvtTy.ofCode 0).isSome && (CvtTy.ofCode 13).isSome && (CvtTy.ofCode 14).isNone) = true := by decide +kernel
-- PassingWords: EXIT and TRAP in no lane; PREFC of a page that is flash-pending.
theorem witness_PassingWords :
    let cold := (regs [] [(3, 1)] []).rawWrite 0x4008 8 0x80
    (issueB cold (.prefc ⟨.always, .v 0, .s 3, 0, none⟩) (fun c => c.w.codeBase == 0x1000 && (cold.read64 c (.s 3) 0).toInt == 1 &&
       (match cold.walk 0x1000 0x1000 with
         | .absent e => Pte.flashPend e
         | _ => false)) &&
     issueB bench (.exit ⟨⟨false, 0⟩, .v 0, .v 0, .v 0, .v 0, 0⟩) (fun c => c.part ⟨false, 0⟩ == 0) &&
     issueB bench (.trap ⟨⟨false, 0⟩, .v 0, .v 0, 0, none⟩) (fun c => c.part ⟨false, 0⟩ == 0)) = true := by decide +kernel
/-- A bench whose s9 points at a BRI table at 0x80 with the header `h`. -/
def tabled (h : Nat) : State := (regs [] [(9, 0x80)] []).rawWrite 0x5080 8 h
-- Branches: the last offset and the one behind it; one target, two targets; a join in the plane and past it; a table off 8 bytes, an
-- empty one, one of one entry that every lane takes.
theorem witness_Branches :
    (reachB bench (.bra ⟨.always, 511, 0⟩) (fun c => c.inPlane 511) && reachB bench (.bra ⟨.always, 512, 0⟩) (fun c => !c.inPlane 512) &&
     reachB bench (.brc ⟨.always, 511, 7⟩) (fun c => c.lanes != 0) && reachB (regs [] [] [(2, 10)]) (.brc ⟨⟨false, 2⟩, 4, 7⟩) (fun c => c.inPlane 4 && c.inPlane 7) &&
     reachB bench (.brc ⟨.always, 512, 7⟩) (fun c => !c.inPlane 512) && reachB bench (.brc ⟨.always, 4, 512⟩) (fun c => c.inPlane 4 && !c.inPlane 512) &&
     reachB (regs [] [(9, 4)] []) (.bri (rw (.v 0) (.v 3) (.s 9) (.v 0) 0)) (fun c => (c.regs.uni 9).toNat % 8 != 0) &&
     [0, 1].all fun h => let s := tabled h
       reachB s (.bri (rw (.v 0) (.v 3) (.s 9) (.v 0) 0)) fun c => s.readVa c.w c.g.gi 4 0 0x80 8 == h &&
         (match c.readNow s 4 c.g.exec [(0, 0x80, 8)], c.readNow s 4 c.g.exec ((0, 0x80, 8) :: (lanesOf c.lanes).map fun l => (l, 0x88, 4)) with
         | .ok _, .ok (places, _) => s.poisonAt ((0, 0x80, 8) :: (lanesOf c.lanes).map fun l => (l, 0x88, 4)) places == []
         | _, _ => false)) = true := by decide +kernel
theorem test_brc_join_past_the_plane : trapped (.brc ⟨.always, 4, 512⟩) bench = some (0x0A, 512) := by decide +kernel
-- Calls: in range, out of range, without room; no frame, a call frame with and without paths, its offset in the plane and past it, a trap frame.
theorem witness_Calls :
    let called := go (.call ⟨.always, 9, 0⟩) bench
    let deep := { called with groups := called.groups.modify 0 fun g => { g with depth := 1, hw := [⟨20, 1, 30⟩] } }
    let far := go (.call ⟨.always, -8, 0⟩) (tune fun g => { g with ofs := 511 })
    (reachB bench (.call ⟨.always, 511, 0⟩) (fun c => decide (16 * (c.g.depth - 16) + c.g.frameBytes + 16 ≤ c.w.spillBytes)) && reachB bench (.call ⟨.always, 512, 0⟩) &&
     reachB (tune fun g => { g with frameBytes := 1024 }) (.call ⟨.always, 9, 0⟩) (fun c => decide (c.w.spillBytes < c.g.frameBytes + 16)) &&
     reachB bench (.ret (bare)) (fun c => (bench.topFrame c.w c.g).isNone) &&
     reachB called (.ret (bare)) (fun c => called.topFrame c.w c.g == some ⟨1, 0, 0, 0, 0xFFFFFF, 0⟩) &&
     reachB deep (.ret (bare)) (fun c => ((deep.topFrame c.w c.g).map fun f => f.kind == 0 && decide (f.depth < c.g.depth)) == some true) &&
     reachB far (.ret (bare)) (fun c => ((far.topFrame c.w c.g).map fun f => f.kind == 0 && decide (c.w.desc.len ≤ f.ofs.toNat)) == some true) &&
     reachB inHandler (.ret (bare)) (fun c => ((inHandler.topFrame c.w c.g).map (·.kind)) == some 1)) = true := by decide +kernel
-- ExitResults: lanes left in EXEC, none in EXEC but some in LIVE, none in LIVE.
theorem witness_ExitResults :
    (issueB (regs [] [] [(4, 1)]) (.exit ⟨⟨false, 4⟩, .v 0, .v 0, .v 0, .v 0, 0⟩) (fun c => c.part ⟨false, 4⟩ == 1) &&
     reachB (tune fun g => { g with exec := 1 }) (.exit (bare)) (fun c => c.part .always == 1 && c.g.live == 0xFFFFFFFF) &&
     reachB bench (.exit (bare)) (fun c => c.part .always == c.g.live)) = true := by decide +kernel
/-- The bench with a load of 4 bytes at address 0 of data in flight. -/
def loading : State := go (.ld ⟨.always, .v 4, .s 9, 0, 4⟩) bench
@[inherit_doc loading] def loadingAt (o : BitVec 24) : State := { loading with groups := loading.groups.modify 0 fun g => { g with ofs := o } }
-- OffsetEnds: an occupied offset; an entry to resume; a call frame to pop; nothing left; the last offset of a plane, with an access in
-- flight and without.
theorem witness_OffsetEnds :
    let called := go (.call ⟨.always, 9, 0⟩) bench
    let g := { grp bench with todo := none, exec := 0, hw := [⟨20, 1, 30⟩], depth := 1 }
    let f := { grp called with todo := none, exec := 0 }
    ((grp bench).pmask == 1 && bench.topFrame (wkg bench) g == none && g.pmask == 0 && (bench.park (wkg bench) g) == 0 &&
     (called.topFrame (wkg called) f).isSome && f.depth == 0 && issueB (tune fun g => { g with ofs := 510 }) (.nop (bare)) &&
     [tune fun g => { g with ofs := 511 }, loadingAt 511].all fun s => reachB s (.nop (bare)) fun c =>
       decide (c.g.ofs.toNat + 1 = c.w.desc.len) && c.g.todo == some (1#8 <<< c.plane) && s.mayDefer 1 0 == !s.accs.isEmpty) = true := by decide +kernel
-- PlaneMoves: the last plane, and in lane 31 one past it.
theorem witness_PlaneMoves :
    let two := tuneWg (regs (lanes32 3 fun l => if l = 31 then 2 else 1) [] []) fun w => { w with desc := { w.desc with planes := 2 } }
    (issueB (tuneWg bench fun w => { w with desc := { w.desc with planes := 2 } }) (.pseti ⟨.always, .v 0, .v 0, 1, none⟩) (fun c => decide (1 < c.w.desc.planes)) &&
     reachB two (.pset (rw (.v 0) (.v 3) (.v 0) (.v 0) 0)) (fun c => decide (c.w.desc.planes ≤ two.bitsOf c false (.v 3) 31 ∧ two.bitsOf c false (.v 3) 30 < c.w.desc.planes))) = true := by decide +kernel
-- CauseDelivery: with an access unfinished, and with none.
theorem witness_CauseDelivery :
    ((bench.mayDefer 1 0 == false) && (loading.mayDefer 1 0) && ((grp loading).todo == some 1) && (loading.pairOf 1).isNone && reachB bench (.trap ⟨.always, .v 0, .v 0, 5, none⟩) (fun c => c.part .always != 0)) = true := by decide +kernel
-- TrapEntry: a handler and room; no handler; inside a handler; no room.
theorem witness_TrapEntry :
    ((wkg handled).desc.trapEnt == 100 && (handled.innerTrap (wkg handled) (grp handled)).isNone && decide (80 ≤ (wkg handled).spillBytes) &&
     (wkg bench).desc.trapEnt == 0xFFFFFF && (wkg bench).trapPol == 0 && (inHandler.innerTrap (wkg inHandler) (grp inHandler)).isSome) = true := by decide +kernel
-- TrapReturn: no frame; the handler's own; with a divergence above it; a resume offset past the plane.
theorem witness_TrapReturn :
    let deep := { inHandler with groups := inHandler.groups.modify 0 fun g => { g with depth := 1, hw := [⟨120, 1, 130⟩] } }
    let far := go (.csrw ⟨.always, .v 0, .s 9, 10, none⟩) ({ inHandler with groups := inHandler.groups.modify 0 fun g => { g with regs := g.regs.setUni 9 0xFF000200 } })
    (reachB bench (.tret (bare)) (fun c => (bench.topFrame c.w c.g).isNone) &&
     reachB inHandler (.tret (bare)) (fun c => inHandler.topFrame c.w c.g == some ⟨1, 1, 0xFFFFFFFF, 0, 0xFFFFFF, 0xFF⟩) &&
     reachB deep (.tret (bare)) (fun c => ((deep.topFrame c.w c.g).map fun f => f.depth != c.g.depth) == some true) &&
     reachB far (.tret (bare)) (fun c => ((far.topFrame c.w c.g).map fun f => f.kind == 1 && decide (c.w.desc.len ≤ f.ofs.toNat)) == some true)) = true := by decide +kernel
-- CsrAccess: the last word of the record, the first other register, a gap, the counters at debug level 0; TRESUME in a handler and outside.
theorem witness_CsrAccess :
    ([7, 8, 9, 10, 11, 0x800].all (fun n => issueB bench (.csrr ⟨.always, .s 5, .v 0, n, none⟩)) && reachB bench (.csrr ⟨.always, .s 5, .v 0, 12, none⟩) &&
     reachB bench (.csrr ⟨.always, .s 5, .v 0, 0x801, none⟩) (fun c => bench.debugLevel c.w.pitch == 0) && reachB bench (.csrw ⟨.always, .v 0, .s 5, 0x803, none⟩) &&
     reachB bench (.csrw ⟨.always, .v 0, .s 5, 10, none⟩) (fun c => (bench.innerTrap c.w c.g).isNone) &&
     issueB inHandler (.csrw ⟨.always, .v 0, .s 5, 10, none⟩) (fun c => (inHandler.innerTrap c.w c.g).isSome && decide (c.g.frameBytes ≤ c.w.spillBytes))) = true := by decide +kernel
-- ClockWords: now, until a time that has come, until one ahead; a hold whose time has come.
theorem witness_ClockWords :
    let held := { go (.clock (rw (.s 4) (.s 6) (.v 0) (.v 0) 1)) (regs [] [(6, 5)] []) with time := 5 }
    (issueB bench (.clock (rw (.s 4) (.v 0) (.v 0) (.v 0) 0)) && issueB bench (.clock (rw (.s 4) (.s 6) (.v 0) (.v 0) 1)) (fun c => decide ((c.regs.uni 6).toNat ≤ bench.time)) &&
     reachB (regs [] [(6, 1)] []) (.clock (rw (.s 4) (.s 6) (.v 0) (.v 0) 1)) (fun c => decide (bench.time < (c.regs.uni 6).toNat) && c.w.role != 2) &&
     (grp held).wait == .clock 5 4 && !(grp held).ended && decide (5 ≤ held.time) && (held.pairOf 1).isNone && (held.core 0).inject.isNone) = true := by decide +kernel
-- PoisonChecks: while a load is in flight; afterwards with poison and without.
theorem witness_PoisonChecks :
    let bad := tune fun g => { g with chk := { g.chk with poison := true } }
    (reachB loading (.chkerr (rw (.p 7) (.v 0) (.v 0) (.v 0) 0)) (fun c => (loading.accsOf c.g.wg c.g.gi).any fun x => x.2.chkWaits) &&
     issueB bench (.chkerr (rw (.p 7) (.v 0) (.v 0) (.v 0) 0)) (fun c => !(bench.accsOf c.g.wg c.g.gi).any fun x => x.2.chkWaits) &&
     issueB bench (.chkerr (bare 1)) (fun c => !c.g.chk.poison) && reachB bad (.chkerr (bare 1)) (fun c => c.g.chk.poison)) = true := by decide +kernel
-- PhaseBarrier: the only group of its neighbourhood; one of two, the other not there yet; the last of two, with two schedules; a
-- member that is saved.
theorem witness_PhaseBarrier :
    let two := { bench with groups := bench.groups.set 1 { grp bench with gi := 1 } }
    let last := tuneWg { two with groups := two.groups.modify 1 fun g => { g with wait := .phase } } fun w =>
      { w with desc := { w.desc with nsched := 2, scheds := [(1, 1), (1, 3)], w := 2 } }
    let away := { bench with wgs := bench.wgs.set 2 { wkg bench with phase := .saved, savedGroups := [{ grp bench with wg := 2 }] },
                             nbhs := bench.nbhs.modify 2 fun n => { n with members := [1, 2] } }
    (reachB last (.phase (bare)) (fun c => (last.groups.all fun x => x.1 == c.k || x.2.wait == .phase) && runs (.phase (bare)) last &&
       last.groups.all fun x => x.2.schedIndex == 0 && decide (x.2.ofs.toNat + 1 < c.w.desc.len)) &&
     reachB away (.phase (bare)) (fun c => (away.nbhs.get? c.w.nbh).any fun n => n.members.any fun m => (away.wgs.get? m).any fun u =>
       u.phase == .saved && u.savedGroups.any fun g => !g.ended) &&
     reachB bench (.phase (bare)) (fun c => (bench.nbhs.get? c.w.nbh).map (·.members) == some [c.g.wg]) && Tab.sorted bench.groups &&
     reachB two (.phase (bare)) (fun c => (two.groups.filter fun x => x.1 != c.k && x.2.wg == c.g.wg && !x.2.ended && x.2.wait != .phase).length == 1) && Tab.sorted two.groups) = true := by decide +kernel
-- IssueChecks: each cause alone, no cause with a register pending.
theorem witness_IssueChecks :
    (pairIllegal (.pairWord ⟨.iadd, false, 0, 4, 9, 0⟩ ⟨.fmul, false, 0, 5, 13, 0⟩) && !(Instr.lred ⟨.always, .s 2, .v 9, .v 0, .v 0, 11⟩).modOk &&
     !(Instr.bld ⟨.always, .v 8, .s 1, .s 2, .v 0, 0⟩).operandsOk && extMissing (.movi ⟨.always, .s 10, .v 0, 0, none⟩) && !(wkg (tuneWg bench fun w => { w with vregs := 8 })).inBudget ⟨.v, 8, 1⟩ &&
     (loading.ctx? false).isSome && (wordSpans (.iadd (rw (.v 5) (.v 4) (.s 2) (.v 0) 0))).any (grp loading).isPending) = true := by decide +kernel
-- MemoryWordsIssue: nothing to do; an access that may issue; a misaligned update; an access that overlaps one in flight, a group at its limit.
theorem witness_MemoryWordsIssue :
    let mem (w : MEM) (_ : State) (c : Ctx) (n : Nat) := (lanesOf (c.part w.g)).map fun l => (l, memAddr c.regs w false l, n)
    let ld : MEM := ⟨.always, .v 5, .s 9, 0, 4⟩
    let logged (n : Nat) : Tab Access := (loading.accs.map fun (x : Nat × Access) => (List.range n).map fun k => (k, { x.2 with phase := AccPhase.logged })).flatten
    let full (n : Nat) : State := { bench with accs := logged n }
    (issueB bench (.ld { ld with g := ⟨false, 0⟩ }) (fun c => c.part ⟨false, 0⟩ == 0 && c.w.role != 3 && (bench.audits.get? c.g.wg).isNone) &&
     issueB bench (.ld ld) (fun c => !bench.memBlocked 1 0 && bench.memCause c.w 0 false none (mem ld bench c 4) == none && !bench.overlaps 1 0 (mem ld bench c 4)) &&
     issueB (regs [] [(9, 1)] []) (.upd { ld with m := 0 }) (fun c => (bench.memCause c.w 2 true none [(0, 1, 4)]).isSome) &&
     reachB loading (.ld ld) (fun c => loading.overlaps 1 0 (mem ld loading c 4)) && !(full 15).memBlocked 1 0 && (full 16).memBlocked 1 0) = true := by decide +kernel

/-! ### The hypotheses of the clauses: accesses, copies, matrix commands -/

/-- A test of a state's first access, with its number and workgroup. -/
def withAcc (s : State) (p : Nat → Access → Wg → Bool) : Bool :=
  match s.accs with
  | (id, a) :: _ => match s.wgs.get? a.wg with
    | some w => p id a w
    | none => false
  | _ => false
/-- The state after an event; the state itself where the event is no next state. -/
def stepped (i : Instr) (s : State) : State :=
  match exec i s with
  | .next t => t
  | _ => s
/-- The bench after a load at an address that no page maps. -/
def farOff : State := go (.ld ⟨.always, .v 4, .s 9, 0, 4⟩) (regs [] [(9, 0x100000000)] [])
/-- The number of the first access of a state. -/
def accNo (s : State) : Nat := ((s.accs.head?).map (·.1)).getD 0

-- LoadsAndStores: a load of 4 bytes, of 8, a uniform one, each in flight and translated; a store of a byte and its read.
theorem witness_LoadsAndStores :
    ([(Instr.ld ⟨.always, .v 4, .s 9, 0, 4⟩, false), (.ld ⟨.always, .v 4, .s 9, 0, 5⟩, false), (.ldu ⟨.always, .s 4, .s 9, 0, 5⟩, true)].all fun (i, once) =>
      let s := go i bench
      withAcc s fun id a w => a.phase == .inflight && (s.groupOf a.wg a.gi).isSome && !a.acquire && w.phase == .resident && a.mask != 0 && runs (.loadReturn id) s &&
        (match i with
        | .ld x | .ldu x => let els := memEls a.regs x false once a.mask (typeBytes x.ty)
          s.memCause w 0 false none els == none && (match s.resolve w a.gi 0 els with | .ok _ _ => true | _ => false)
        | _ => false)) = true ∧
    withAcc loading (fun _ a w => (loading.accs.get? loading.nextId).isNone && (match loading.resolve w a.gi 1 a.els with
      | .ok ps _ => ps.all fun x => x.2.all fun p => match p with
        | .mem _ _ b => targetOf b != .doorbell
        | .scr .. => true
      | _ => false)) = true := by decide +kernel
-- ReadAfterWrite: no line of the core; the last place of the DRAM and one of the SRAM exist, a gap does not.
theorem witness_ReadAfterWrite : (bench.l1.isEmpty && targetOf 0x1FFFFFFFFF != .none && targetOf 0x2000000000 == .doorbell) = true := by decide +kernel
-- UpdateSteps: units formed, more than one left; one left.
theorem witness_UpdateSteps :
    let s := stepped (.updateUnitApply (accNo (go (.upd ⟨.always, .v 4, .s 9, 0, 0⟩) bench))) (go (.upd ⟨.always, .v 4, .s 9, 0, 0⟩) bench)
    let one := { s with accs := s.accs.map fun x => (x.1, { x.2 with units := x.2.units.take 1 }) }
    (withAcc s fun id a w => a.phase == .inflight && a.isUpdate && a.formed && a.poison == none && s.poison == [] && decide (1 < a.units.length) && w.phase == .resident && runs (.updateUnitApply id) s) &&
    (withAcc one fun _ a _ => a.units.length == 1 && !a.acquire && a.mirror == none && a.formed && (one.groupOf a.wg a.gi).isSome && runs (.updateUnitApply (accNo one)) one) = true := by decide +kernel
-- OperandLog: an address without a page, with room and without, its pipe then held; replayed when ready; failed for good.
theorem witness_OperandLog :
    let ready := { loading with accs := loading.accs.map fun x => (x.1, { x.2 with phase := .ready }) }
    let lost := { loading with accs := loading.accs.map fun x => (x.1, { x.2 with phase := .failed 0x0A 1 0 0 }) }
    let more : Tab Access := (farOff.accs.map fun (x : Nat × Access) => (List.range 17).map fun k => (x.1 + k, if k = 0 then x.2 else { x.2 with phase := AccPhase.logged })).flatten
    let full := { farOff with accs := more }
    (withAcc farOff fun id a w => a.phase == .inflight && !a.formed && decide (farOff.logCount w.core < 64 ∧ farOff.groupLog a.wg a.gi < 16) &&
      runs (.translationFault id) farOff && match farOff.attempt id a w with
      | .fault .. => true
      | _ => false) &&
    let stalled := stepped (.translationFault (accNo full)) full
    (withAcc full fun id a w => a.phase == .inflight && decide (16 ≤ full.groupLog a.wg a.gi) && runs (.translationFault id) full && match full.attempt id a w with
      | .fault .. => true
      | _ => false) &&
    (withAcc stalled fun _ a w => a.phase == .stalled && w.phase == .resident && stalled.memBlocked a.wg a.gi && stalled.memBlocked a.wg (a.gi + 4) &&
      !stalled.memBlocked a.wg (a.gi + 1)) &&
    (withAcc ready fun id a w => a.phase == .ready && runs (.operandLogReplay id) ready && match ready.attempt id a w with
      | .done _ => true
      | _ => false) &&
    (withAcc lost fun id a w => a.place == none && (lost.pairOf a.wg).isNone && w.phase != .saved && runs (.operandLogReplay id) lost) = true := by decide +kernel
-- FencesAndHints: an access unfinished, none; a range that meets it, one past 2^64, none; a line of an L1; PREF of an overlapping line.
theorem witness_FencesAndHints :
    let line : L1Line := ⟨0, List.replicate 128 7, 1⟩
    let s := { bench with l1 := [(bench.lineKey 0 256, line)] }
    let r : RRR := rw (.v 0) (.s 9) (.s 10) (.v 0) 0
    let big := regs [] [(9, 0xFFFFFFFFFFFFFFFF), (10, 2)] []
    let meets := { loading with groups := loading.groups.modify 0 fun g => setRegs g [] [(10, 4)] [] }
    (reachB loading (.fence (bare)) (fun c => c.w.role != 2 && !(loading.accsOf c.g.wg c.g.gi).isEmpty) && issueB bench (.fence (bare)) (fun c => (bench.accsOf c.g.wg c.g.gi).isEmpty) &&
     issueB bench (.rfence r) (fun c => c.regs.uni 10 == 0) && reachB big (.rfence r) (fun c => decide (2 ^ 64 < (c.regs.uni 9).toNat + (c.regs.uni 10).toNat)) &&
     reachB meets (.rfence r) (fun c => (meets.accsOf c.g.wg c.g.gi).any fun x => x.2.els.any fun e => sameLine 0 4 e.2.1 e.2.2) &&
     !s.narrow 0 2 && !s.isFused 0 && targetOf 256 == .dram && line.dirty.getLsbD (256 % 128) &&
     reachB loading (.pref ⟨.always, .v 0, .s 9, 0, 0⟩) (fun c => loading.overlaps 1 0 ((lanesOf (c.part .always)).map fun l => (l, 0, 1))) &&
     issueB bench (.pref ⟨.always, .v 0, .s 9, 0, 0⟩) && issueB bench (.discard ⟨.always, .v 0, .s 9, 0, 0⟩)) = true := by decide +kernel
-- ImageWordsIssue: a descriptor in place, off 64 bytes, past the scratchpad; the third coordinate pending; no lane; a node in place and off 128 bytes.
theorem witness_ImageWordsIssue :
    let tex (g : Guard) : RRR := ⟨g, .v 4, .s 3, .v 8, .v 12, 5⟩
    let at_ (a : W64) : State := regs [] [(3, a), (4, a)] []
    let els (a : W64) : List (Nat × W64 × Nat) := [(0, a, 64)]
    let held := tune fun g => g.setPending [⟨.v, 10, 1⟩] 99
    let hgs : RRR := rw (.v 10) (.s 4) (.v 2) (.s 5) 1
    let table (a : W64) : State := regs [] [(5, a)] []
    (issueB (at_ 0) (.tex (tex ⟨false, 0⟩)) (fun c => c.part ⟨false, 0⟩ == 0) &&
     issueB (at_ 0x40) (.tex (tex .always)) (fun c => (at_ 0x40).memCause c.w 0 false none (els 0x40) == none && !(at_ 0x40).overlaps 1 0 (els 0x40)) &&
     reachB (at_ 0x21) (.tex (tex .always)) (fun c => c.part .always != 0 && (c.regs.uni 3).toNat % 64 == 0x21) &&
     reachB (at_ 0xFFFFFFFFFFFFFFC0) (.tex (tex .always)) (fun c => ((at_ 0xFFFFFFFFFFFFFFC0).memCause c.w 0 false none (els 0xFFFFFFFFFFFFFFC0)).isSome) &&
     reachB held (.hgf ⟨.always, .v 20, .s 4, .v 8, .v 0, 1⟩) (fun c => c.g.isPending ⟨.v, 10, 1⟩) &&
     issueB bench (.ist (rw (.v 4) (.s 3) (.v 8) (.v 12) 0)) (fun c => c.part .always != 0 && !bench.memBlocked 1 0) &&
     reachB (table 32) (.hgs hgs) (fun c => !c.g.isPending ⟨.v, 4, 1⟩ && (c.regs.uni 5).toNat % 64 != 0) && issueB (table 64) (.hgs hgs) &&
     issueB (at_ 0x80) (.rbox (rw (.v 0) (.v 16) (.s 3) (.v 0) 0)) (fun c => (c.regs.uni 3).toNat % 128 == 0) &&
     reachB (at_ 0x40) (.rtri (rw (.v 30) (.s 3) (.v 0) (.v 0) 0)) (fun c => (c.regs.uni 3).toNat % 128 != 0)) = true := by decide +kernel
-- MeshOutput: closed because nothing is declared, because it is committed; open, its last vertex and one past it.
theorem witness_MeshOutput :
    let open_ := tuneWg (regs (lanes32 1 fun l => BitVec.ofNat 32 l) [] []) fun w => { w with desc := { w.desc with maxVtx := 31, maxPrim := 2 } }
    let done := tuneWg open_ fun w => { w with committed := some (1, 1) }
    let vtx : Instr := .mvtx (rw (.v 0) (.v 1) (.v 2) (.imm 36) 3)
    let shut := tuneWg open_ fun w => { w with desc := { w.desc with maxVtx := 0 } }
    (issueB shut vtx (fun c => c.part .always != 0 && c.w.desc.maxVtx == 0) && issueB done vtx (fun c => c.w.committed.isSome) &&
     issueB open_ vtx (fun c => c.w.committed.isNone && c.regs.vec 1 30 == 30 && c.regs.vec 1 31 == 31) && issueB open_ (.mprim (rw (.v 0) (.v 1) (.v 2) (.v 3) 0)) &&
     issueB open_ (.mcommit (rw (.v 0) (.imm 33) (.imm 33) (.v 0) 0)) && issueB done (.mcommit (rw (.v 0) (.imm 33) (.imm 33) (.v 0) 0))) = true := by decide +kernel
/-- The bench with eight barrier objects, of which object 0 expects two arrivals and one byte (R234). -/
def barred : State :=
  let s := tuneWg bench fun w => { w with desc := { w.desc with barriers := 8 } }
  let w := wkg s
  ((((s.wgWrite w 8 4 2).wgWrite w 12 4 2).wgWrite w 16 4 1).wgWrite w 20 4 1)
-- BarrierWords: too many arrivals, too many bytes, one of two, the last; the last object and one past it; a phase passed and one not; held.
theorem witness_BarrierWords :
    let w := wkg barred
    let ok (n m : Nat) : Option Bool := match barred.barEvent w 0 n m with
      | .ok _ d => some d
      | _ => none
    let word (b : BitVec 6) : RRR := rw (.v 0) (.imm (b + 32)) (.imm 33) (.v 0) 0
    let waits : Instr := .waitp (rw (.v 0) (.imm 32) (.imm 32) (.v 0) 0)
    let held := go waits barred
    let busy := go (.ld ⟨.always, .v 4, .s 4, 0, 4⟩) { barred with groups := barred.groups.modify 0 fun g => setRegs g [] [(4, windowBase)] [] }
    let passed := { held with groups := held.groups, mem := (held.wgWrite w 0 4 1).mem, scrTags := (held.wgWrite w 0 4 1).scrTags }
    (ok 3 0 == none && ok 2 2 == none && ok 1 1 == some false && ok 2 1 == some true && w.phase == .resident &&
     reachB busy (.bpoll { word 0 with d := .s 4 }) (fun c => c.part .always != 0 && c.objectBusy busy c.w 0) &&
     issueB barred (.binit { word 7 with c := .imm 32 }) (fun c => c.part .always != 0 && !c.objectBusy barred c.w 7 && !c.objectBusy barred c.w 0 && decide (7 < c.w.desc.barriers)) && reachB barred (.expect (word 8)) (fun c => decide (c.w.desc.barriers ≤ 8)) &&
     issueB barred (.arrive (word 0)) (fun c => (barred.accsOf c.g.wg c.g.gi).isEmpty && c.g.wait == .none) &&
     reachB barred waits (fun c => !phasePassed (barred.objPhase c.w 0) 0 && c.g.wait == .none) && phasePassed (barred.objPhase w 0) 0xFFFFFFFF &&
     issueB held waits (fun c => c.g.wait == .waitp 1 0 && !phasePassed (held.objPhase c.w 0) 0) && issueB passed waits (fun c => c.g.wait == .waitp 1 0 && phasePassed (passed.objPhase c.w 0) 0) &&
     issueB barred (.bpoll { word 0 with d := .s 4 })) = true := by decide +kernel
/-- That bench with one monitor, number 7, at a TIME. -/
def watched (x : Monitor) (t : Nat) : State := { barred with monitors := [(7, x)], time := t }
/-- A state with 0x100 in s4 of its group. -/
def mona (s : State) : State := { s with groups := s.groups.modify 0 fun g => setRegs g [] [(4, 0x100)] [] }
-- MonitorWords: a word on an object, on none, off 8 bytes; a monitor of the group's; one that is marked, one whose deadline has come and one whose has not.
theorem witness_MonitorWords :
    let m : Monitor := ⟨1, 0, 0x100, none, 0, some 5, false⟩
    let word (b : BitVec 6) : RRR := rw (.p 3) (.s 4) (.imm (b + 32)) (.s 6) 0
    (issueB (mona barred) (.mona (word 7)) (fun c => c.part .always != 0 && barred.memCause c.w 0 false (some c.lanes) [(0, 0x100, 8)] == none && barred.accs.isEmpty &&
       c.g.pend.isEmpty && (match barred.resolveOne c.w 0 0 0 0x100 8 with
         | .ok (_ :: _, _) => true
         | _ => false)) &&
     reachB (mona barred) (.monaCancel { word 8 with m := 1, c := .v 0 }) (fun c => decide (c.w.desc.barriers ≤ 8)) &&
     reachB { barred with groups := barred.groups.modify 0 fun g => setRegs g [] [(4, 4)] [] } (.monaCancel { word 0 with m := 1, c := .v 0 }) (fun c => (c.regs.uni 4).toNat % 8 != 0) &&
     issueB (mona (watched m 0)) (.monaCancel { word 0 with m := 1, c := .v 0 }) (fun c => c.g.wg == m.wg && c.regs.uni 4 == m.va) &&
     runs (.monitorFire 7) (watched { m with hit := true } 0) && runs (.monitorTimeout 7) (watched m 5) && !runs (.monitorTimeout 7) (watched m 4) &&
     (match barred.barEvent (wkg barred) 0 1 0 with
       | .ok _ _ => true
       | _ => false)) = true := by decide +kernel
/-- The bench with the operands of a copy of `n` bytes from the window's base to 0x100 behind it. -/
def copyBench (n : W64) : State := regs [] [(2, windowBase + 0x100), (3, windowBase), (4, n)] []
/-- That copy. -/
def copyWord (m : BitVec 9) (g : Guard := .always) : RRR := ⟨g, .s 1, .s 2, .s 3, .s 4, m⟩
-- CopyWordsIssue: a legal copy; none in no lane; one past the scratchpad; a credit to no object; a follow-on; each fence, with a full matrix queue and without.
theorem witness_CopyWordsIssue :
    let s := copyBench 16
    let outside := regs [] [(2, windowBase + 0x200000), (3, windowBase), (4, 16)] []
    (issueB s (.cpy (copyWord 0)) (fun c => c.w.role != 3 && (s.audits.get? c.g.wg).isNone && !s.memBlocked 1 0 && decide (s.copiesIn c.core < 48) &&
       s.copyCause c.w (c.part .always) [(windowBase, 16, false), (windowBase + 0x100, 16, true)] == none && !s.overlaps 1 0 [(0, windowBase, 16), (0, windowBase + 0x100, 16)]) &&
     issueB s (.cpy (copyWord 0 ⟨false, 0⟩)) (fun c => c.part ⟨false, 0⟩ == 0) &&
     reachB outside (.cpy (copyWord 0)) (fun c => (outside.copyCause c.w (c.part .always) [(windowBase, 16, false), (windowBase + 0x200000, 16, true)]).isSome) &&
     reachB (tuneWg s fun w => { w with desc := { w.desc with barriers := 0 } }) (.cpy (copyWord 4)) (fun c => c.w.desc.barriers == 0) &&
     issueB bench (.qfence (bare (8 * 16 + 4))) (fun c => c.part .always != 0 && decide (c.w.mqueue.length < 16)) &&
     issueB bench (.qfence (bare 9)) && issueB bench (.qfence (bare 1)) &&
     reachB (tuneWg bench fun w => { w with mqueue := (List.range 16).map fun _ => ⟨0, 0, .mzero (bare), [], [], none, 0, 0, 0, 0, 0, [], false, false, 0, 0, none⟩ })
       (.qfence (bare (8 * 16 + 4))) (fun c => decide (16 ≤ c.w.mqueue.length))) = true := by decide +kernel
/-- A state's first copy or fence, with its number and workgroup. -/
def withCopy (s : State) (p : Nat → Copy → Wg → Bool) : Bool :=
  match s.copies with
  | (id, c) :: _ => match s.wgs.get? c.wg with
    | some w => p id c w
    | none => false
  | _ => false
/-- The number of the first copy of a state. -/
def copyNo (s : State) : Nat := ((s.copies.head?).map (·.1)).getD 0
-- CopySteps: a copy queued, running, with a bad descriptor; a fence of nothing.
theorem witness_CopySteps :
    let s := go (.cpy (copyWord 0)) (copyBench 16)
    let t := stepped (.copyStart (copyNo s)) s
    let b := go (.cpy (copyWord 0)) (copyBench (16 + 2 ^ 40))
    let bad := stepped (.copyStart (copyNo b)) b
    let fence := go (.qfence (bare 9)) bench
    (withCopy s (fun id c w => c.phase == .queued && s.mayStart id c w && c.kind == .cpy) &&
     withCopy t (fun id c w => c.phase == .running && !c.waiting && w.phase == .resident && (t.groupOf c.wg c.gi).isSome && !c.credit && c.mirror == none && c.follow.isNone &&
       w.role != 3 && !t.copyBad w c && t.copyBytes w c == 16 && runs (.copyComplete id) t && (match t.copyMoves w c with
         | .ok ms => ms.length == 16 && (ms.zipIdx).all fun (x, j) => x.2.1 == .scr w.core (t.pitchKey w.pitch) (w.scrBase + j) && x.2.2.2 == .scr w.core (t.pitchKey w.pitch) (w.scrBase + 0x100 + j)
         | _ => false)) &&
     withCopy bad (fun id c w => bad.copyBad w c && c.phase == .running && runs (.copyComplete id) bad) &&
     withCopy fence (fun id c w => fence.mayStart id c w && c.kind == .fence [] && runs (.copyStart id) fence)) = true := by decide +kernel
-- R228, R129: a copy with .fo and no matrix command behind it raises ILL_MOD, guarded off and with a bad operand besides.
theorem test_missing_follow_on : ((trapped (.cpy (copyWord 8 ⟨false, 0⟩)) (copyBench 16)).map (·.1),
    (trapped (.cpy { copyWord 8 with a := .v 2 }) (copyBench 16)).map (·.1)) = (some 4, some 4) := by decide +kernel
/-- The bench with its core's engine owned by a workgroup. -/
def owned (u : Nat) : State := bench.setCore 0 { bench.core 0 with owner := some u }
/-- MZERO of tile 7. -/
def zeroTile : Instr := .mzero (rw (.v 7) (.v 0) (.v 0) (.v 0) 0)
/-- The owner's bench with that command queued `n` times. -/
def queuedTiles (n : Nat) : State :=
  tuneWg (owned 1) fun w => { w with mqueue := (List.range n).map fun k => ⟨k, 0, zeroTile, [], [], none, k, 0, 0, 0xFFFFFFFF, 1, [], false, false, 0, 0, none⟩ }
-- MatrixWordsIssue: a free engine, the owner's, another's before and after the claim; a full queue; a command whose checks fail, and a misaligned block.
theorem witness_MatrixWordsIssue :
    let msa : Instr := .msa (rw (.v 3) (.s 2) (.s 3) (.s 4) 0)
    let mmt : Instr := .mmt (rw (.s 1) (.v 2) (.s 4) (.imm 63) 19)
    let odd := { owned 1 with groups := bench.groups.modify 0 fun g => setRegs g [] [(4, 1)] [] }
    let fine (s : State) (i : Instr) (c : Ctx) : Bool := (s.matrixCheck c.g.wg c.w i (matrixVals c.regs i) []).isNone && !s.overlaps c.g.wg c.g.gi (s.matrixEls c.g.wg c.w i (matrixVals c.regs i) [])
    (issueB bench zeroTile (fun c => (bench.core c.core).owner.isNone && fine (bench.claimEngine c.g.wg c.w) zeroTile c) &&
     issueB (owned 1) zeroTile (fun c => ((owned 1).core c.core).owner == some c.g.wg && decide (c.w.mqueue.length < 16) && fine (owned 1) zeroTile c) &&
     reachB (queuedTiles 16) zeroTile (fun c => decide (16 ≤ c.w.mqueue.length)) &&
     reachB (owned 1) msa (fun c => ((owned 1).matrixCheck c.g.wg c.w msa (matrixVals c.regs msa) []).map (·.1) == some .macroState) &&
     reachB odd mmt (fun c => match odd.mmtBlock c.w mmt (matrixVals c.regs mmt) with
       | .error (x, _) => x == .alignAtomic
       | .ok _ => false) &&
     reachB (owned 2) zeroTile (fun c => c.w.claim.isNone) && reachB (tuneWg (owned 2) fun w => { w with claim := some 0 }) zeroTile (fun c => c.w.claim.isSome)) = true := by decide +kernel
-- MatrixCommands: MSTAT at once, behind a command, and again; the front starts, runs and leaves; a drain that has failed; a fence whose commands are done.
theorem witness_MatrixCommands :
    let stat (m : BitVec 9) : Instr := .mstat (rw (.s 9) (.v 0) (.v 0) (.v 0) m)
    let q := queuedTiles 1
    let run := stepped (.matrixCommandStart 0) q
    let held := go (stat 0) q
    let dead := tuneWg run fun w => { w with mqueue := w.mqueue.map fun m => { m with dead := some (0x0A, 64) } }
    let fence := stepped (.matrixCommandStart 0) (tuneWg (owned 1) fun w => { w with mqueue := [⟨9, 0, .qfence (bare 12), [], [], none, 9, 0, 0, 0, 0, [], false, false, 0, 0, none⟩] })
    (issueB bench (stat 1) (fun c => c.g.wait == .none && (bench.core c.w.core).owner.isNone) && issueB q (stat 1) (fun c => (q.core c.core).owner == some c.g.wg) &&
     reachB q (stat 0) (fun c => c.g.wait == .none && c.w.mqueue.any fun m => decide (m.id < q.nextId)) && reachB held (stat 0) (fun c => c.g.wait == .mstat q.nextId) &&
     (wkg run).mqueue.map (·.running) == [true] && ((run.core 0).ctx.chkOn == false) && (match run.matrixRun 1 (wkg run) (run.core 0).ctx ((wkg run).mqueue.headD ⟨0, 0, zeroTile, [], [], none, 0, 0, 0, 0, 0, [], false, false, 0, 0, none⟩) with
       | .done t _ _ => t.wgs == run.wgs
       | _ => false) && (wkg (stepped (.matrixCommandComplete 0) run)).mqueue == [] && (wkg (stepped (.matrixCommandComplete 0) dead)).mqueue == [] &&
     (wkg fence).mqueue == []) = true := by decide +kernel

/-! ### Queue words (12) -/

/-- A packet at its first word in queue slot 0, its slot changed. -/
def qbench (f : QSlot → QSlot := id) (hw : Nat := 0) : State :=
  let s := State.reset.withFetchWord 32 0xF8000000
  { s with focus := .queue hw, slots := [(hw, f ((s.slots.get? 0).getD (QSlot.fresh 0 0)))] }
/-- A packet with registers. -/
def qregs (xs : List (BitVec 4 × W64)) (hw : Nat := 0) : State := qbench (fun q => xs.foldl (fun q x => q.setReg x.1 x.2) q) hw
/-- What its focused word knows. -/
def qctx (s : State) : QCtx :=
  match s.slots with
  | (hw, q) :: _ => ⟨hw, q, s.qrec q.queue⟩
  | [] => ⟨0, QSlot.fresh 0 0, QRec.reset⟩
/-- `State.InPacket`, and a test of the word's context. -/
def inPacketB (s : State) (p : QCtx → Bool := fun _ => true) : Bool :=
  let c := qctx s
  s.focus == .queue c.hw && s.slots.get? c.hw == some c.q && c.qr == s.qrec c.q.queue && c.q.running && decide (c.q.count < 512) &&
    c.q.dead == none && Tab.sorted s.slots && !c.q.waiting && p c
theorem inPacket_of {s : State} {p : QCtx → Bool} (h : inPacketB s p = true) : s.InPacket (qctx s) ∧ p (qctx s) = true := by
  simp only [inPacketB, Bool.and_eq_true, beq_iff_eq, decide_eq_true_eq, Bool.not_eq_true'] at h
  obtain ⟨⟨⟨⟨⟨⟨⟨⟨h1, h2⟩, h3⟩, h4⟩, h5⟩, h6⟩, h7⟩, h8⟩, h9⟩ := h
  exact ⟨⟨h1, h2, h3, h4, h5, h6, h7, h8⟩, h9⟩
/-- A register of the packet after a word. -/
def qAfter (i : Instr) (s : State) (r : BitVec 4) : Option W64 :=
  match exec i s with
  | .next t => (t.slots.get? 0).map (·.reg r)
  | _ => none
/-- Whether an access came to something. -/
def okB {ε α : Type} (p : α → Bool) : Except ε α → Bool
  | .ok a => p a
  | .error _ => false
/-- A record of a queue after a word: outcome, cause, code, head, last word. -/
def qOutcome (i : Instr) (s : State) : Option (Nat × BitVec 8 × BitVec 18 × W32 × Nat) :=
  match exec i s with
  | .next t => let r := t.qrec 0
    some (r.outcome, r.cause, r.fcode, r.head, r.lastWord)
  | _ => none

-- QueueArithmetic: a packet runs, with b0 empty.
theorem witness_QueueArithmetic : inPacketB (qregs [(0, 5), (1, 3)]) (fun c => c.q.regs.get? 0 == none && c.q.reg 0 == 0 && c.q.reg 1 == 3) = true := by decide +kernel
-- QueueAccesses: a window that may be read, read at its last byte, and written; the record, which may not; one whose page is missing; a ninth EMIT.
theorem witness_QueueAccesses :
    let s := qregs [(1, 0xFFF)]
    let lost := { s with queues := [(0, { loadQueue with winTab := 0x800000 })] }
    (inPacketB s (fun c => okB (fun (t, x) => x.len == 4096 && x.wr && okB (fun _ => true) (t.qRead c x 4095 1) && okB (fun _ => true) (t.qWrite c x 4088 [1, 2, 3, 4, 5, 6, 7, 8])) (s.qWin c 2) &&
       okB (fun (_, x) => x.len == 128 && !x.wr) (s.qWin c 1) && okB (fun (t, x) => okB (fun y => y.2.length == 64) (t.qRead c x 0 64)) (s.qWin c 2)) &&
     inPacketB lost (fun c => !okB (fun _ => true) (lost.qWin c 2)) && inPacketB (qbench fun q => { q with emits := 8 })) = true := by decide +kernel
-- QueueControl: a branch taken and not; a loop of none and of some; the budget spent, a page lost, a page awaited; a loop's last word, with a run left and without.
theorem witness_QueueControl :
    let loop : QLoop := ⟨1, 0, 2, 0⟩
    let at_ (f : QSlot → QSlot) (p : QSlot → Bool) : Bool := let s := qbench f
      Tab.sorted s.slots && s.focus == .queue 0 && (s.slots.get? 0).any fun q => q.running && p q
    (inPacketB (qregs [(1, 3)]) (fun c => c.q.reg 1 != 0 && c.q.reg 2 == 0 && min (c.q.reg 1).toNat 64 == 3 && min (c.q.reg 2).toNat 64 == 0) &&
     at_ (fun q => { q with count := 512 }) (fun q => decide (512 ≤ q.count)) && at_ (fun q => { q with dead := some 0x0A }) (fun q => q.dead.isSome && decide (q.count < 512)) &&
     at_ (fun q => { q with waiting := true }) (fun q => q.waiting) && encode .halt == .queue 0xF8000000 && loop.last == 0 && decide (loop.idx + 1 < loop.count)) = true := by decide +kernel
-- QueueServices: ranges that windows hold and one that they do not; a verdict; each service's refusals and its work.
theorem witness_QueueServices :
    let s := qregs [(1, 2), (2, 0x100), (3, 8), (4, 2), (5, 0)]
    let off := qregs [(1, 2), (2, 0xFFD), (3, 300), (6, 3), (5, 1)]
    let big := qregs [(1, 2), (2, 0x100), (3, 3), (4, 0x200), (5, 0)]
    let ctx := qregs [(1, 2), (2, 0x100), (3, 16), (4, 2), (5, 0x400), (6, 1)]
    let doe := { s with slots := [(63, (s.slots.get? 0).getD (QSlot.fresh 0 0))], focus := .queue 63 }
    let rng (s : State) (w o n : W64) (wr : Bool) (p : State × QWin → Bool) (c : QCtx) : Bool := okB (fun (t, x) => match x with
      | some x => p (t, x)
      | none => false) (s.qRange c w o n.toNat wr)
    (inPacketB s (rng s 2 0x100 64 false fun (t, x) => okB (fun _ => true) (t.qRead (qctx s) x 0x100 64)) && inPacketB off (fun c => okB (fun x => x.2.isNone) (off.qRange c 2 0xFFD 64 false)) &&
     inPacketB (qbench fun q => { q with verdict := some 0 }) (fun c => c.q.verdict == some 0) && inPacketB s (rng s 2 0x100 8 true fun (t, x) => okB (fun _ => true) (t.qWrite (qctx s) x 0x100 (List.replicate 8 0))) &&
     inPacketB off (fun c => (c.q.reg 2).toNat % 8 != 0 && decide (256 < (c.q.reg 3).toNat) && c.q.reg 5 != 0 && decide (3 ≤ (c.q.reg 6).toNat)) &&
     inPacketB big (rng big 2 0x100 48 false fun (t, x) => okB (fun (t, d) => d.length == 48 && okB (fun (_, y) => y.isSome) (t.qRange (qctx big) 2 0x200 96 true)) (t.qRead (qctx big) x 0x100 48)) &&
     inPacketB s (rng s 2 0 256 true fun (t, x) => okB (fun _ => true) (t.qWrite (qctx s) x 0 (hashContext .init))) &&
     inPacketB ctx (rng ctx 2 0x400 256 true fun (t, x) => okB (fun (_, b) => leNat (b.take 8) != 0x000000014853544B) (t.qRead (qctx ctx) x 0x400 256)) &&
     inPacketB doe (fun c => c.hw == 63 && rng doe 2 0x100 8 false (fun (t, _) => t.doe.resp.isNone && !t.doe.drop) c) &&
     inPacketB big (rng big 2 0x100 48 true fun (t, x) => okB (fun _ => true) (t.qWrite (qctx big) x 0x100 (t.measSlot 3)))) = true := by decide +kernel
-- QueueServices, HASH's second clause: a context that the service has made is known again, whatever its own 248 bytes are.
theorem witness_hash_context (s : State) : ((s.keepHash (hashContext .init)).hashOf (hashContext .init)).isSome ∧
    leNat ((hashContext .init).take 8) = 0x000000014853544B := by
  constructor
  · simp only [State.hashOf, State.keepHash]; split <;> simp_all
  · simp only [hashContext, hashTag]; decide +kernel
-- QueuePackets: a slot whose packet may start; TAIL at HEAD + N and one beyond.
theorem witness_QueuePackets :
    let s := { qbench (fun q => { q with running := false }) with qprogs := [(0, ⟨[], [0xF8000000]⟩)], focus := .none }
    let d (v : W64) : Option (W32 × Nat × Bool) := match exec (.doorbellWrite 0x2000000000 v) s with
      | .next t => some ((t.qrec 0).tail, (t.qrec 0).outcome, (t.qrec 0).active)
      | _ => none
    (s.queueReady 0 && (s.qprogs.get? (s.qrec 0).prog).isSome && (s.pitches.get? 0).isSome && targetOf 0x2000000000 == .doorbell && s.power != .idle &&
     runs (.packetStart 0) s && d 8 == some (8, 0, true) && d 9 == some (1, 3, false)) = true := by decide +kernel

-- R304: ADD wraps; R303, R304: MOVI sign-extends; CLTS is signed and CLTU is not; SHRI by 63; b0 discards.
theorem test_qb_add_wraps : qAfter (.qbAdd 3 1 2) (qregs [(1, 0xFFFFFFFFFFFFFFFF), (2, 2)]) 3 = some 1 := by decide +kernel
theorem test_qb_movi : qAfter (.qbMovi 3 0x3FFFF) (qregs []) 3 = some 0xFFFFFFFFFFFFFFFF := by decide +kernel
theorem test_qb_shlor : qAfter (.qbShlor 3 0x20001) (qregs [(3, 5)]) 3 = some (5 * 0x40000 + 0x20001) := by decide +kernel
theorem test_qb_compare : (qAfter (.qbClts 3 1 2) (qregs [(1, 0xFFFFFFFFFFFFFFFF), (2, 1)]) 3, qAfter (.qbCltu 3 1 2) (qregs [(1, 0xFFFFFFFFFFFFFFFF), (2, 1)]) 3) = (some 1, some 0) := by
  decide +kernel
theorem test_qb_discard : qAfter (.qbMovi 0 7) (qregs []) 0 = some 0 := by decide +kernel
-- R305: the byte stored is the byte loaded, at an offset modulo the window's length.
theorem test_qb_store_load : qAfter (.qbLdb 4 1 2 0x111) (stepped (.qbStb 3 1 2 0x111) (qregs [(1, 0x1000), (3, 0xABCD)])) 4 = some 0xCD := by decide +kernel
-- R302, R306: HALT retires the packet; FAULT fails it with its code.
theorem test_halt : qOutcome .halt (qregs []) = some (1, 0, 0, 1, 0) := by decide +kernel
theorem test_fault : qOutcome (.fault 0x155) (qregs []) = some (2, 0, 0x155, 1, 0) := by decide +kernel
-- R306: LOOP runs min(b[a], BOUND) times; R312: the 513th word fails the packet with QB_BUDGET.
theorem test_loop : (match exec (.qbLoop 1 3 5) (qregs [(1, 9)]) with
    | .next t => (t.slots.get? 0).map fun q => (q.pc, q.loops)
    | _ => none) = some (1, [⟨1, 5, 4, 0⟩]) := by decide +kernel
theorem test_budget : qOutcome (.qbMovi 1 1) (qbench fun q => { q with count := 512 }) = some (2, 0x69, 0, 1, 0) := by decide +kernel

/-! ### System commands and events -/

/-- The block of the tests' commands. -/
def blk : W64 := 0x08002000
/-- A state whose command port runs a command with its arguments (R13–R15). -/
def ported (op : Nat) (a b c : Nat) (s : State) : State :=
  let s := ((s.polWrite 0x08002008 8 a).polWrite 0x08002010 8 b).polWrite 0x08002018 8 c
  { s with port := { s.port with busy := true, running := 0x08002000, opcode := BitVec.ofNat 8 op, wait := .none } }
/-- The status a command leaves in its block, the port being free again. -/
def status (i : Instr) (s : State) : Option Nat :=
  match exec i s with
  | .next t => if t.port.busy then none else some (t.polRead 0x08002004 4)
  | _ => none
/-- A machine whose pitch 0 holds cores, with its PASID 0 (the state withFetchWord builds, without the word's group). -/
def loaded : State := { State.reset.withFetchWord 64 0x0007E00000000000 with groups := [], wgs := [], nbhs := [], launches := [] }
/-- That pitch changed. -/
def pitched (f : Pitch → Pitch) : State := { loaded with pitches := loaded.pitches.modify 0 f }
/-- The pitch of that machine. -/
def pitch0 : Pitch := (loaded.pitches.get? 0).getD loadPitch

-- CommandPort: a block off 32 bytes, past the SRAM, good while busy, good with a known opcode, with an unknown one and with a 32-bit opcode.
theorem witness_CommandPort :
    let s := State.reset
    let rings (v : W64) (s : State) : Option (Bool × Bool × Nat) := match exec (.registerWrite 0x02000000 8 v) s with
      | .next t => some (t.port.badBlock, t.port.busy, t.polRead (v.toNat + 4) 4)
      | _ => none
    let put (a : BitVec 48) (n : Nat) : Option (Nat × Option Nat) := match exec (.registerWrite a n 0x1234) s with
      | .next t => some (t.polRead a.toNat n, t.busError)
      | _ => none
    (put 0x08003000 2 == some (0x1234, none) && put 0x10000000 4 == some (s.polRead 0x10000000 4, none) && put 0x09000000 4 == some (0, some 0x09000000) &&
     put 0x02000008 4 == some (0, none) && s.policyLoad 0x02000010 8 == some 0 && rings 0x08002000 (s.polWrite 0x08002000 4 0x108) == some (false, false, 2) &&
     rings 0x08002001 s == some (true, false, 0) && rings 0x08200000 s == some (true, false, 0) && rings 0x081FFFE0 (s.polWrite 0x081FFFE0 4 2) == some (false, true, 0) &&
     rings 0x08003000 (ported 2 0 0 0 s) == some (false, true, 4) && rings 0x08002000 (s.polWrite 0x08002000 4 27) == some (false, false, 2) &&
     rings 0x08002000 (s.polWrite 0x08002000 4 0x101) == some (false, false, 2) && inSram 0x081FFFE0 32 && !inSram 0x08200000 32) = true := by decide +kernel
-- StartUpCommands: for each command what is refused and what is not. (That a manifest or a token is good rests on the signatures of Config, which nothing evaluates.)
theorem witness_StartUpCommands :
    let s := State.reset
    let l := { s with latch := some ⟨7, [(0x10001000, 64, [])], [(0x10000000, 20, sha384 (s.flashBytes 0x10000000 20))]⟩ }
    let prog := (((s.polWrite 0x10000000 8 0x14251544B).polWrite 0x10000008 8 1).polWrite 0x10000010 4 0xF8000000)
    let lp := { prog with latch := some ⟨7, [], [(0x10000000, 20, sha384 (prog.flashBytes 0x10000000 20))]⟩ }
    let head := s.polWrite 0x10000000 8 0x00014E4C544B
    let lant := head.polPut 0x08003000 (sha384 (head.flashBytes 0x10000000 64))
    (status (.measExtend blk) (ported 2 6 0x08003000 0 s) == some 0 && status (.measExtend blk) (ported 2 23 0x08003000 0 s) == some 2 && status (.measExtend blk) (ported 2 22 0x081FFFD0 0 s) == some 0 &&
     status (.manifestVerify blk) (ported 1 0x10000000 0x08004001 16 s) == some 2 && (ported 1 0x10000000 0x08004000 16 s).onPort blk 1 &&
     !s.manifestOk (s.flashBytes 0x10000000 0) 16 && inSram 0x08004000 16 && inFlash 0x10000000 160 &&
     status (.lanternLoad blk) (ported 3 0x10000000 64 0x08003000 s) == some 0x1A6 && status (.lanternLoad blk) (ported 3 0x10000000 64 0x08003000 lant) == some 0 &&
     status (.lanternLoad blk) (ported 3 0x10000000 (2 ^ 23 + 1) 0x08003000 s) == some 2 &&
     (ported 5 (2 ^ 32 - 1) 0 0 s).onPort blk 5 && !s.pitched && status (.dramTrain blk) (ported 5 (2 ^ 32) 0 0 s) == some 2 &&
     status (.qprogLoad blk) (ported 7 64 0x10000000 20 s) == some 0x16A && status (.qprogLoad blk) (ported 7 64 0x10000000 20 l) == some 2 && status (.qprogLoad blk) (ported 7 63 0x10000000 20 s) == some 0x16A &&
     status (.qprogLoad blk) (ported 7 63 0x10000000 20 l) == some 0x16A && status (.qprogLoad blk) (ported 7 63 0x10000000 20 lp) == some 0 &&
     status (.tlbInval blk) (ported 9 0 4096 1 s) == some 0 && status (.tlbInval blk) (ported 9 0 4095 1 s) == some 2 &&
     status (.svnRaise blk) (ported 26 7 0 0 l) == some 0 && status (.svnRaise blk) (ported 26 8 0 0 l) == some 2) = true := by decide +kernel
-- PitchCommands: a record that fits, one that does not, one of a Locked pitch; REMOVE of an idle pitch; a key granted and taken back; Lock, Start, Error, Stop.
theorem witness_PitchCommands :
    let rec_ (s : State) (w4 : Nat) : State := (((((s.polWrite 0x08003000 8 3).polWrite 0x08003008 8 (2 ^ 32)).polWrite 0x08003018 8 (1 + 127 * 65536)).polWrite 0x08003020 8 w4).polWrite 0x08003028 8
      0x2000000).polWrite 0x08003030 8 1
    let free := State.reset
    let locked := pitched fun p => { p with tdi := .locked }
    let gone := loaded.polWrite 0x08003020 8 256
    let noPasid := { gone with pasids := [] }
    (status (.pitchCfg blk) (ported 6 0x08003000 0 0 (rec_ free 15)) == some 0 && status (.pitchCfg blk) (ported 6 0x08003000 0 0 (rec_ free 16)) == some 2 &&
     status (.pitchCfg blk) (ported 6 0x08003000 0 0 (rec_ locked 0)) == some 0x1A0 && (ported 6 0x08003000 0 0 (rec_ free 15)).removes == false &&
     status (.pitchRemove blk) (ported 6 0x08003000 0 0 noPasid) == some 0 && (ported 6 0x08003000 0 0 noPasid).mayRemove 0 &&
     status (.keyGrant blk) (ported 19 5 0 0 loaded) == some 0 && status (.keyGrant blk) (ported 19 5 0 0 locked) == some 0x1A0 &&
     status (.keyGrant blk) (ported 19 (5 + 2 ^ 12) 0 0 ({ pitched fun p => { p with granted := [5] } with pasids := [] })) == some 0 &&
     status (.tdiStateLock blk) (ported 20 0 0 0 loaded) == some 0 && status (.tdiStateLock blk) (ported 20 0 0 0 locked) == some 2 &&
     status (.tdiStateStart blk) (ported 20 16 0 0 locked) == some 0 && status (.tdiStateStart blk) (ported 20 16 0 0 loaded) == some 2 &&
     status (.tdiStateError blk) (ported 20 48 0 0 locked) == some 0 && status (.tdiStateStop blk) (ported 20 32 0 0 (pitched fun p => { p with tdi := .error })) == some 0) = true := by decide +kernel
-- DebugAndPower: levels set and refused; a challenge; a bad token; a group halted at level 2 and refused below; Run, Standby, WAKE, power good and lost.
theorem witness_DebugAndPower :
    let s := State.reset
    let locked := pitched fun p => { p with tdi := .locked }
    let open2 := { bench with pitches := bench.pitches.modify 0 fun p => { p with debug := 2 }, focus := .none }
    (status (.debugSet blk) (ported 21 32 0 0 loaded) == some 0 && status (.debugSet blk) (ported 21 32 0 0 locked) == some 0x1A0 && (ported 22 0 0x08003000 0 s).onPort blk 22 && inSram 0x08003000 32 &&
     status (.debugChallenge blk) (ported 22 1 0x08003000 0 s) == some 2 && !s.tokenOk (s.polBytes 0x08003000 7552) && inSram 0x08003000 7552 && (ported 23 0 0x08003000 0 s).onPort blk 23 &&
     status (.debugHalt blk) (ported 24 0 0 0 { bench with focus := .none }) == some 0x1A1 && status (.debugHalt blk) (ported 24 0 0 0 open2) == some 0 &&
     status (.debugStep blk) (ported 24 8192 0 0 open2) == some 0 && status (.debugResume blk) (ported 24 16384 0 0 open2) == some 0 && (open2.groups.get? (gid 0 0)).isSome &&
     status (.powerSetRun blk) (ported 25 0 0 0 s) == some 0 && s.quiet && !s.wakeHeld && status (.powerSetStandby blk) (ported 25 2 0 0 s) == some 0 &&
     runs .wakeInput { s with power := .standby } && runs .powerGood { s with power := .off } && runs .powerLoss s && runs (.powerManagerClocks true) s) = true := by decide +kernel
-- InterfaceCommands: a context set, refused, of a pitch that is Locked; closed and drained; a communicator; LINK_STAT; ports trained, narrowed, down; a stream that fails.
theorem witness_InterfaceCommands :
    let locked := pitched fun p => { p with tdi := .locked }
    let closing := { ported 10 0 0 0 loaded with port := { (ported 10 0 0 0 loaded).port with wait := .drain 0 }, pasids := [(0, { (loaded.pasids.get? 0).getD loadPasid with closing := true })] }
    let up := { loaded with ports := [(0, ⟨16, 0, 0⟩)] }
    let ide := { locked with ide := [(3, ⟨0, 0, true⟩)] }
    let one := { loaded with pasids := [(5, loadPasid)] }
    (status (.pasidSet blk) (ported 10 5 0x1000 0 loaded) == some 0 && status (.pasidSet blk) (ported 10 0 0x1000 0 loaded) == some 2 && status (.pasidSet blk) (ported 10 5 0x1000 0 locked) == some 0x1A0 &&
     runs (.pasidClose blk) (ported 10 (2 ^ 63 + 5) 0 0 one) && status (.pasidClose blk) (ported 10 (2 ^ 63) 0 0 locked) == some 0x1A0 &&
     closing.drained 0 && runs .pasidDrainAck closing && status (.commCfg blk) (ported 11 (2 * 2 ^ 16) 0x8000 0 loaded) == some 0 && status (.commCfg blk) (ported 11 (2 ^ 16) 0x8000 0 loaded) == some 2 &&
     status (.linkStat blk) (ported 12 0 0 0 up) == some 0 && status (.linkStat blk) (ported 12 2 0 0 up) == some 2 && runs (.linkTrained 0 16 1) loaded && !runs (.linkTrained 0 16 2) loaded &&
     runs (.linkTrained 1 1 3) loaded && runs (.linkRetrain 0 8) up && !runs (.linkRetrain 0 16) up && runs (.portDown 0) up && runs (.ideIntegrityFailure 3) ide) = true := by decide +kernel
/-- The machine after reset with its port 0 up. -/
def linked : State := { State.reset with ports := [(0, ⟨16, 0, 0⟩)], window := true }
/-- The bytes that a host's access returns, as a number and how many. -/
def replied (i : Instr) (s : State) : Option (Nat × Nat) :=
  match exec i s with
  | .next t => some (leNat t.reply, t.reply.length)
  | _ => none
/-- The linked machine after a write of four bytes at 0x100. -/
def hostWrote : State := { linked with mem := (linked.linkWrite 0x100 [1, 2, 3, 4]).mem, keyTags := (linked.linkWrite 0x100 [1, 2, 3, 4]).keyTags }
-- HostTraffic: bytes of the DRAM written and read, its last ones; the management window; an atomic; the mailbox with no queue, with a response, and busy.
theorem witness_HostTraffic :
    let doe := { State.reset with doe := { State.reset.doe with resp := some [1, 3] } }
    (linked.dramSize == 2 ^ 37 && runs (.hostOrPeerAccess 0 0x1FFFFFFFFC 4 (some [1, 2, 3, 4])) linked && !runs (.hostOrPeerAccess 1 0x100 4 none) linked &&
     (replied (.hostOrPeerAccess 0 0x300000000010 8 none) linked).isSome && !linked.doeBusy && linked.doeQueue == none && runs (.doeRequest [0x00010001]) linked &&
     runs (.doeDiscovery [1, 3, 0]) linked && doe.doeBusy && runs (.doeRequest [0x00010001]) doe && replied .doeResponseRead doe == some (1 + 3 * 2 ^ 32, 8) && runs .doeAbort linked) = true := by decide +kernel
-- R411, R418: a write of the host is read back; FetchAdd of −1 returns the old value.
theorem test_host_read : replied (.hostOrPeerAccess 0 0x100 4 none) hostWrote = some (0x04030201, 4) := by decide +kernel
theorem test_host_atomic : replied (.hostAtomic 0x100 0 4 0xFFFFFFFF 0) hostWrote = some (0x04030201, 4) := by decide +kernel
-- PagesAndTranslations: a fault waiting; a leaf to move; a request answered, turned into a Page Request, failed, and its response.
theorem witness_PagesAndTranslations :
    let f := stepped (.translationFault (accNo farOff)) farOff
    let r : AtsReq := ⟨0, 0x200000, 0, false, []⟩
    let ats (pri page : Bool) : State := { bench with pasids := [(0, { loadPasid with ats := true, pri })], atsReqs := [(9, { r with pageRequest := page })] }
    (!f.faults.isEmpty && runs (.pageFaultService none) f && (match bench.walk 0x1000 0 with
       | .leaf e z _ => z == 12 && Pte.base e == 0x5000 && !Pte.bad ((e &&& 0xFFFF000000000FFF) ||| 0x9000) 1 bench.dramSize && targetOf 0x9000 == .dram
       | _ => false) && runs (.pageMigration 0 0 0x9000) bench && runs (.atsInvalidateRequest 0 0 0) bench && runs (.atsInvalidateRequest 0 0x1000 4096) bench &&
     runs (.atsTranslationCompletion 9 none) (ats true false) && runs (.atsTranslationCompletion 9 none) (ats false false) && runs (.pageRequestResponse 9 true) (ats true true) &&
     !(ats true false).isClosing 0) = true := by decide +kernel
-- ErrorsAndGating: a record read and cleared, one out of range; an injection planted, refused at level 1 and of a Locked pitch; a sector, a channel with 17 errors and with 16, a core under test, idle 64 cycles and 63, waking; the device idle.
theorem witness_ErrorsAndGating :
    let level (n : Nat) : State := pitched fun p => { p with debug := n }
    let locked := pitched fun p => { p with tdi := .locked }
    let ue (n : Nat) : State := { State.reset with ueLog := (List.range n).map fun k => (16 * 0, k) }
    let core (f : CoreSt → CoreSt) : State := State.reset.setCore 5 (f (State.reset.core 5))
    let idle := { State.reset with cores := (List.range 96).map fun k => (k, { CoreSt.reset with gated := true }) }
    let ch := (ue 1).channelOf 0
    (status (.errrecRead blk) (ported 16 (16 + 256) 0x08003000 0 State.reset) == some 0 && status (.errrecRead blk) (ported 16 17 0x08003000 0 State.reset) == some 2 &&
     status (.faultInject blk) (ported 17 (2 ^ 31) (5 + 2 ^ 24) 0 (level 2)) == some 0 && status (.faultInject blk) (ported 17 (2 ^ 31) (5 + 2 ^ 24) 0 (level 1)) == some 0x1A1 &&
     status (.faultInject blk) (ported 17 (2 ^ 31) (5 + 2 ^ 24) 0 locked) == some 0x1A0 && status (.faultInject blk) (ported 17 (3 * 2 ^ 31) 5 0 (level 2)) == some 2 &&
     runs (.eccSectorRewrite 0) State.reset && !State.reset.poisoned 0 && runs (.channelFailing ch) (ue 17) && !runs (.channelFailing ch) (ue 16) &&
     runs (.selftestDone 5 true) (core fun x => { x with outOfService := true, dead := false }) && runs (.selftestDone 5 false) (core fun x => { x with outOfService := true, dead := false }) &&
     runs (.coreGate 5) (core fun x => { x with gated := false, waking := false, idle := 64 }) && !runs (.coreGate 5) (core fun x => { x with gated := false, waking := false, idle := 63 }) &&
     runs (.coreWakeComplete 5) (core fun x => { x with gated := true, waking := true }) && runs .idleEntry idle) = true := by decide +kernel
/-- A kernel descriptor of one group at data address 0x100, and a request for it with its record at 0x200 (R37, R356). -/
def described : State :=
  let s := { loaded with cores := [] }
  (((s.rawWrite 0x5100 8 (0xFFFFFF * 2 ^ 24)).rawWrite 0x5108 8 (2 ^ 40)).rawWrite 0x5110 8 (1 + 2 ^ 9))
@[inherit_doc described] def request (w0 : W64) : LaunchReq := ⟨none, 0, 0, [w0, 0x1000, 0, 0x100010001, 0, 0x200, 0, 0], none⟩
/-- A workgroup whose only group has ended, and one whose last group has gone. -/
def endedGroup : State := { (tune fun g => { g with ended := true, exec := 0, live := 0 }) with focus := .none }
@[inherit_doc endedGroup] def endedWg : State :=
  { (tuneWg bench fun w => { w with phase := .ended }) with groups := [], focus := .none, launches := [(3, { (bench.launches.getD 3 loadLaunch) with total := 2 })] }
-- LaunchesAndSlots: a status cleared; a record refused; a request accepted and one refused; a slice spent with another waiting; a boundary to save at; an ended group; a record to write; a replay agreed.
theorem witness_LaunchesAndSlots :
    let acc := { described with requests := [request 0x100] }
    let bad := { described with requests := [request 0x101] }
    let bind := { described with binds := [(0, 0)] }
    let late := { (tuneWg bench fun w => { w with since := 0 }) with time := 50000, pitches := bench.pitches.modify 0 fun p => { p with cores := 1 }, launches := [(3, { (bench.launches.getD 3 loadLaunch) with desc := { loadDesc with groups := 48, vregs := 8 }, req := [0, 0x1000, 0, 0x100010001, 2 ^ 17, 0, 0, 0], pending := [0] })], focus := .none }
    let edge := { (tuneWg bench fun w => { w with preempt := true }) with groups := bench.groups.modify 0 fun g => { g with todo := none }, focus := .none }
    let judge (s : State) (r : LaunchReq) : Option (BitVec 8) := match (s.judge r).2 with
      | .refused x => some x
      | .accepted _ => some 0
      | .waits => none
    let audit := { endedWg with replays := [(5, (1, 8))], wgs := endedWg.wgs.set 8 { (wkg endedWg) with role := 3 } }
    (runs (.slotStatusWrite 95) loaded && (bind.bindReason 0 (bind.bindRec 0 0)).isSome && runs (.bindRecord 0 0) bind && judge acc (request 0x100) == some 0 && runs .launchRequest acc &&
     judge bad (request 0x101) == some 0xA7 && (match bad.writeRecord 0 0x200 (List.replicate 16 0) with
       | (_, b) => b) && runs .launchRequest bad &&
     late.sliceVictim 0 == some 1 && Tab.sorted late.wgs && runs (.wgsliceExpiry 1) late &&
     edge.canSave 1 (wkg edge) && Tab.sorted edge.wgs && runs (.preemptWorkgroup 1) edge && endedGroup.groupIdle 1 0 && runs (.groupSlotRelease 0 0) endedGroup &&
     endedWg.recordReady 1 (wkg endedWg) && runs (.completionRecord 1) endedWg && runs (.auditVerdict 5) audit) = true := by decide +kernel
-- LaunchesAndSlots, the record that is accepted: nothing speaks against it, and its launch is found.
theorem witness_bind :
    let s := { described with launches := [(3, { loadLaunch with record := 0x7000, pending := [] })], binds := [(0, 4)] }
    let r : BindRec := { wgid := 0, slot := 4, ngroups := 1, pitch := 0, prio := 0, scrBase := 0, scrSize := 8, vregs := 8, sregs := 8, preds := 1, nbhid := 0, partner := 0x7F,
                         pslot := 0, role := 0, launch := 0x7000, clean := true }
    let s := (r.words.zipIdx).foldl (fun (s : State) (x : W64 × Nat) => s.rawWrite (slotAt 0 4 x.2) 8 x.1.toNat) s
    (s.bindRec 0 4 == r && State.bindReason { s with binds := [] } 0 r == none && (match s.launchAt 0x7000 0 with
       | (_, .some id) => id == 3
       | _ => false) && runs (.bindRecord 0 4) s) = true := by decide +kernel
/-- A graph of one node whose record buffer of 16 records stands at data address 0x800, record 0 published (R459–R461). -/
def graphed : State :=
  let n : List W64 := [0x100, 0x1000, 0x0004000000000800, 0x400, 0, 1, 0, 0]
  { (described.rawWrite 0x5900 8 1) with graphs := [(0, { enabled := true, pitch := 0, nodes := [n], dispatched := [], consumed := [] })] }
-- GraphsAndRaster: a graph taken and one refused; a node with a record and one with none; an output with a target off 64 bytes.
theorem witness_GraphsAndRaster :
    let g := (((((described.polWrite 0x08003000 8 0x100).polWrite 0x08003008 8 0x1000).polWrite 0x08003010 8 0x0004000000001000).polWrite 0x08003018 8 0x400).polWrite 0x08003028 8 1)
    let locked := { g with pitches := g.pitches.modify 0 fun p => { p with tdi := .locked } }
    let none_ := { graphed with graphs := graphed.graphs.modify 0 fun y => { y with dispatched := [(0, 5)] } }
    let mesh : State := { (tuneWg bench fun w => { w with committed := some (0, 0), phase := .ended }) with
      focus := .none, launches := [(3, { (bench.launches.getD 3 loadLaunch) with node := some (0, 0, 0, 1) })],
      graphs := [(0, { enabled := true, pitch := 0, nodes := [[0x100, 0x1000, 0, 0x400, 0x0001000000000020, 1, 0, 0]], dispatched := [], consumed := [] })] }
    (status (.graphSet blk) (ported 18 16 0x08003000 0 g) == some 0 && status (.graphSet blk) (ported 18 16 0x08003001 0 g) == some 2 && status (.graphSet blk) (ported 18 16 0x08003000 0 locked) == some 0x1A0 &&
     (graphed.published 0 0x0004000000000800 1 0).2 == 1 && runs (.recordDispatch 0 0 0) graphed && (none_.published 0 0x0004000000000800 1 5).2 == 0 && runs (.recordDispatch 0 0 0) none_ &&
     mesh.outputs.length == 1 && (mesh.meshRecord (wkg mesh)).isSome && runs .rasteriseOutput mesh) = true := by decide +kernel
/-- A redundant pair of workgroups 1 and 2, each with the entries given, at a TIME. -/
def paired (a b : List Entry) (f : Pair → Pair := id) (time : Nat := 0) : State :=
  let role (u : Nat) (es : List Entry) : RedRole := ⟨u, es, [], [], [], [], none, [], [], []⟩
  let p : Pair := ⟨role 1 a, role 2 b, 0, [], false, none, false, false, 0, 0, 0, 0, 0, 0, false, [], []⟩
  { bench with focus := .none, time, groups := (bench.groups.set 0 { grp bench with todo := none }).set 64 { grp bench with wg := 2, todo := none },
               wgs := (bench.wgs.set 1 { wkg bench with role := 1, partner := 1 }).set 2 { wkg bench with role := 2, core := 1 }, pairs := [(9, f p)] }
/-- An entry of stream 33: a drain of no bytes with a signature. -/
def entry (sig : W64) (time : Nat := 0) : Entry := ⟨0, 33, 0, 1, sig, 0, 0, time, [], .drain []⟩
-- RedundantPairs: CKPT outside a pair, with the log empty and not; a pair to roll, two entries alike and unlike, one alone for 100 µs and for less; the second rollback; a checkpoint.
theorem witness_RedundantPairs :
    let logged := { loading with accs := loading.accs.map fun (x : Nat × Access) => (x.1, { x.2 with phase := AccPhase.logged }) }
    let pair (s : State) : Option Pair := s.pairs.get? 9
    let after (i : Instr) (s : State) : Option (Bool × Bool × Nat × BitVec 8) := (pair (stepped i s)).map fun p => (p.rolled, p.failed, p.lead.entries.length, p.lastCause)
    (issueB bench (.ckpt (bare)) (fun c => !bench.hasLog c.g.wg c.g.gi) && reachB logged (.ckpt (bare)) (fun c => logged.hasLog c.g.wg c.g.gi) &&
     after (.compareEntry 9) (paired [] [] fun p => { p with mustRoll := some (0x81, 0, 0) }) == some (true, false, 0, 0x81) &&
     after (.compareEntry 9) (paired [entry 5] [entry 6]) == some (true, false, 0, 0x80) && after (.compareEntry 9) (paired [entry 5] [entry 5]) == some (false, false, 0, 0) &&
     after (.redSlackTimeout 9) (paired [entry 5] [] id 100000) == some (true, false, 0, 0x83) && !runs (.redSlackTimeout 9) (paired [entry 5] [] id 99999) &&
     after (.compareEntry 9) (paired [entry 5] [entry 6] fun p => { p with rolled := true }) == some (true, true, 0, 0x80) &&
     (let s := paired [] [] fun p => { p with ckpt := true }
      (pair s).any (fun p => s.atRest p.lead && s.atRest p.sweep && p.level))) = true := by decide +kernel
/-- Surface 0 of 64 × 64 pixels on pipe 0, its frame begun at TIME 0, with one safety layer of one tile. -/
def shown (time : Nat := 0) (l : Layer → Layer := id) : State :=
  let w : List W64 := [0x0A01000000000000, 0x1000, 0x003F003F00000000, 256, 0x800, 0x808, 1, 2]
  { loaded with time, surfaces := [(0, ⟨⟨0, true, 64, 64, 72, 2000000, false⟩, none⟩)], layers := [(0, l { Layer.fresh w 0 with mode := 0 })],
                pipes := [(0, { Pipe.reset with tm := some (2000000, 72) })] }
-- DisplayCommands: a surface taken and one refused; a layer of a Locked pitch, one refused; a head-up record; no Lantern pipe; the camera, a stall, a failed pipe.
theorem witness_DisplayCommands :
    let surf (a : Nat) : State := ported 13 a 0x08003000 0 ((loaded.polWrite 0x08003000 8 (64 + 64 * 2 ^ 16 + 72 * 2 ^ 32)).polWrite 0x08003008 8 2000000)
    let locked := { shown with pitches := loaded.pitches.modify 0 fun p => { p with tdi := .locked } }
    let hud (lead : Nat) : State := ported 15 0 0x08003000 0 (shown.polWrite 0x08003008 8 (lead * 2 ^ 20))
    let lan : State := { shown with lantern := leBytes 64 (2 ^ 128), pipes := [(0, { Pipe.reset with route := true, routeNext := true })], time := 100000000, routePipe := some 0 }
    (status (.surfSet blk) (surf 16) == some 0 && status (.surfSet blk) (surf 32) == some 2 && status (.layerSet blk) (ported 14 0 0x08003000 0 locked) == some 0x1A0 &&
     status (.layerSet blk) (ported 14 0 0x08003000 0 shown) == some 2 && status (.hudSet blk) (hud 64) == some 0 && status (.hudSet blk) (hud 63) == some 2 &&
     status (.lanternShow blk) (ported 4 0 0 0 loaded) == some 5 && lan.lanternPipe == some 0 && status (.lanternShow blk) (ported 4 0 1 0 lan) == some 0 && status (.lanternShow blk) (ported 4 1 1 0 lan) == some 2 &&
     runs .cameraFrame loaded && runs (.lanternStall 0) lan && !runs (.lanternStall 0) { lan with time := 99999999 } && runs (.pipeFailover 0) shown && shown.freePipe == some 1) = true := by decide +kernel
-- DisplayFrames: a frame that is due, and one that is not; signatures alike and unlike; a deadline that has come and not; a latch.
theorem witness_DisplayFrames :
    let sigs (a b : Nat) : State := shown 0 fun l => { l with tiles := [(0, { TileSt.start with sigA := some a, sigB := some b })] }
    let mode (s : State) : Option (Nat × Nat) := ((s.compareTile 0 0).layers.get? 0).map fun l => (l.mode, l.mismatch)
    let hud : State := { shown with time := 2000000, pipes := [(0, { Pipe.reset with tm := some (2000000, 72), hud := [0, 0x100000000 + 64 * 2 ^ 20, 0, 0, 0, 0, 0, 0, 0, 0, 0, 0, 0, 0, 0, 0] })] }
    (runs (.frameStart 0) (shown 2000000) && !runs (.frameStart 0) (shown 1999999) && ((stepped (.frameStart 0) (shown 2000000)).pipe 0).frame == 1 && Tab.sorted shown.surfaces &&
     runs (.signaturePoll 0) shown && (mode (sigs 5 6)) == some (1, 1) && mode (sigs 5 5) == some (0, 0) && ((shown.layers.get? 0).any fun l => l.watches false && l.watches true) &&
     (shown 2000000).layersOn 0 true != [] && hud.mappedPlaces 0 0 32 != none && runs (.hudLatch 0 0) hud) = true := by decide +kernel
-- R431: a tile of zeros and one of ones.
theorem test_tile_signature : tileSig (List.replicate 16384 0) = 4096 * 65536 + 1 := by decide +kernel

/-! ### The whole machine -/

-- InvariantKept: the state after reset, the bench of a queue word and that of a core word meet the invariant and step.
theorem witness_InvariantKept :
    (State.reset.inv && (State.reset.withFetchWord 32 0x7843FFFF).inv && (State.reset.withFetchWord 64 0x0007E00000000000).inv) = true := by decide +kernel
-- EncodingRoundTrip: a well-formed word of each format with its largest operands.
theorem witness_EncodingRoundTrip :
    ([Instr.iadd ⟨⟨true, 46⟩, .v 255, .v 255, .s 63, .v 0, 0⟩, .movi ⟨.always, .s 10, .v 0, 0x7FFFFFF, some 0x1FFFFFFFFF⟩, .qbMovi 15 0x3FFFF, .halt].map fun i =>
      i.wellFormed && decodeCode (encode i) == some i) = [true, true, true, true] := by decide +kernel
-- StepRunsDecodedWord: something posted, one candidate, and a begun offset whose word is read and decoded; a queue word.
theorem witness_StepRunsDecodedWord :
    let s := State.reset.withFetchWord 64 0x0007E00000000000
    let q := State.reset.withFetchWord 32 0x7843FFFF
    (s.inbox == [] && s.candidates.length == 1 && (s.groupStep 0 0).isSome && (s.pipeStep 0 0).isSome && s.power == .run && s.pipeOrder 0 0 == [0] &&
     (bench.ctxOf 0 0 0 true).any (fun c => c.g.wait == .none && c.g.todo == some 1 && c.g.pmask == 1 && !c.g.captured.getLsbD 0 && decide (c.g.ofs.toNat + 1 < c.w.desc.len) &&
       okB (fun x => okB (fun y => (decodeWord x (some y)).toOption.isSome) (bench.codeWord c.w 0 1)) (bench.codeWord c.w 0 0)) && lowPlane 1 == 0 &&
     q.candidates.length == 1 && ((q.slots.get? 0).any fun x => x.running && !x.waiting && (decodeQueue (x.prog.words.getD x.pc 0)).isSome) &&
     runs .cameraFrame s) = true := by decide +kernel

/-! ### The hypotheses of further clauses -/

-- FencesAndHints, .eng: a copy and a drain's update units outstanding; a range whose page translates; a line brought into each cache, no
-- line of an address that is not canonical; DISCARD of a line that both caches hold.
theorem witness_FencesAndHints_clauses :
    let copying := go (.cpy (copyWord 0)) (copyBench 16)
    let adding := tuneWg bench fun w => { w with mqueue := [⟨9, 0, .mdr (bare 64), [], [], none, 9, 0, 0, 0, 0, [], true, false, 0, 0, none⟩] }
    let r : RRR := rw (.v 0) (.s 9) (.s 10) (.v 0) 16
    let ranged := regs [] [(10, 1)] []
    let one (a : W64) : State := tune fun g => setRegs { g with exec := 1 } [] [(9, a)] []
    let pref (m : BitVec 9) : Instr := .pref ⟨.always, .v 0, .s 9, 0, m⟩
    let near (t : State) : Option (Nat × Nat) := (match exec (pref 0) t with
      | .next u => some (u.l1.length, u.msc.length)
      | _ => none)
    let far := go (pref 1) (one 0)
    (reachB copying (.fence (bare 16)) (fun c => c.w.role != 2 && copying.copiesOf c.g.wg c.g.gi) && reachB adding (.fence (bare 16)) (fun c => adding.addsOf c.g.wg c.g.gi) &&
     issueB ranged (.rfence r) (fun c => c.w.core == c.core && !isLocal (c.regs.uni 9) && okB (fun x => x.phys 0 == 0x5000) (ranged.translate c.core c.w.pasid c.w.pitch 0 0)) &&
     near (one 0) == some (1, 1) && near (one (2 ^ 60)) == some (0, 0) && far.l1.isEmpty && far.msc.length == 1 && decide (0 < far.waysOf (far.keyOwner 0)) &&
     targetOf 0x5000 == .dram && (match (go (pref 0) (one 0)).l1 with
       | [(_, l)] => (go (pref 0) (one 0)).msc.all fun m => m.2.key == l.key
       | _ => false)) = true := by decide +kernel
-- CopySteps: of two pitches' copies, the one whose pitch holds the entry of the engine schedule starts first.
theorem witness_CopySteps_serves :
    let s := go (.cpy (copyWord 0)) (copyBench 16)
    let two := { s with wgs := s.wgs.set 2 { wkg s with pitch := 1 }, copies := s.copies ++ (s.copies.map fun x => (x.1 + 1, { x.2 with wg := 2 })),
                        pitches := s.pitches ++ [(1, { loadPitch with engSlots := BitVec.allOnes 64 })] }
    (withCopy two (fun id c w => c.phase == .queued && w.pitch == 0 && two.mayStart id c w && !runs (.copyStart id) two && runs (.copyStart (id + 1)) two)) = true := by decide +kernel
/-- The descriptor block of an MMT of one K-step (R264), and that of one of two. -/
def mmtBytes (k : Nat) : List Byte :=
  leBytes 24 0 ++ leBytes 2 1 ++ leBytes 2 1 ++ leBytes 4 k ++ List.replicate 32 0
-- MatrixWordsIssue: MMT whose block lies where an access is in flight.
theorem witness_MatrixWordsIssue_block :
    let s := { loading with cores := bench.cores, groups := loading.groups.modify 0 fun g => setRegs g [] [(4, 0)] [] }
    let mmt : Instr := .mmt (rw (.s 1) (.v 2) (.s 4) (.imm 63) 19)
    reachB { s with cores := (owned 1).cores } mmt (fun c => ((owned 1).core c.core).owner == some c.g.wg &&
      s.overlaps c.g.wg c.g.gi [(0, (matrixVals c.regs mmt).getD 0 0, 64)]) = true := by decide +kernel
/-- A matrix command at the front of the owner's queue, its workgroup changed. -/
def front (i : Instr) (f : MCmd → MCmd := id) : State :=
  tuneWg (owned 1) fun w => { w with mqueue := [f ⟨0, 0, i, [], [], none, 0, 0, 0, 0xFFFFFFFF, 1, [], false, false, 0, 0, none⟩] }
-- MatrixCommands: MMT starts, with a budget of 1 and of 0; MRES of a held one; a join of a workgroup that is not the owner; a drain whose
-- page is missing, and one whose page is lost; MSTAT's wait that is over.
theorem witness_MatrixCommands_clauses :
    let w : RRR := rw (.s 1) (.v 2) (.s 4) (.imm 63) 19
    let mmt (n : W64) : State := front (.mmt w) fun m => { m with block := mmtBytes 128, vals := [0, n] }
    let held := (front (.mres (bare)) fun m => { m with vals := [0] }).setCore 0
      { (owned 1).core 0 with ctx := { ((owned 1).core 0).ctx with mmt := some ⟨w, mmtBytes 128, 0, 0, 0, [], true⟩ } }
    let left (s : State) : List Nat := (wkg (stepped (.matrixCommandStart 0) s)).mqueue.map (·.left)
    let join := tuneWg (owned 2) fun w => { w with mqueue := [⟨9, 0, .qfence (bare 12), [], [], none, 9, 0, 0, 0, 0, [], false, false, 0, 0, none⟩] }
    let drain := front (.mdr (rw (.v 0) (.v 0) (.v 0) (.v 0) 0)) fun m => { m with running := true, vals := [0x100000000, 4, 0x00010001] }
    let lost := front (.mdr (bare 64)) fun m => { m with running := true, dead := some (0x22, 64) }
    let free_ := { (tuneWg (owned 1) fun w => { w with mqueue := [] }) with groups := bench.groups.modify 0 fun g => { g with wait := .mstat 9 } }
    ((mmtDesc w (mmtBytes 128)).isSome && left (mmt 1) == [1] && left (mmt 0) == [1] && left held == [1] && (wkg (stepped (.matrixCommandStart 0) join)).mqueue == [] &&
     (match drain.matrixRun 1 (wkg drain) (((drain.core 0).ctx).seen 0) ((wkg drain).mqueue.headD ⟨0, 0, zeroTile, [], [], none, 0, 0, 0, 0, 0, [], false, false, 0, 0, none⟩) with
       | .wait _ => true
       | _ => false) && runs (.matrixCommandComplete 0) drain && runs (.matrixCommandComplete 0) lost &&
     issueB free_ (.mstat (rw (.s 9) (.v 0) (.v 0) (.v 0) 0)) (fun c => c.g.wait == .mstat 9 && c.w.mqueue.isEmpty)) = true := by decide +kernel
-- PitchCommands, what is refused and what waits: a record outside the SRAM; a reissue that leaves out a busy core, and its end; REMOVE of
-- no pitch, of one that is not Open, of one with a PASID; a key another pitch holds, one never granted; a request that is malformed; LOCK
-- of a busy pitch, START at debug level 3, ERROR and STOP of an Open pitch; STOP from Run and from Error.
theorem witness_PitchCommands_clauses :
    let rec_ (s : State) (w4 : Nat) : State := (((((s.polWrite 0x08003000 8 2).polWrite 0x08003008 8 (2 ^ 32)).polWrite 0x08003018 8 (1 + 127 * 65536)).polWrite 0x08003020 8 w4).polWrite 0x08003028 8
      0x2000000).polWrite 0x08003030 8 1
    let quiet := { bench with focus := .none }
    let waits := ported 6 0x08003000 0 0 (rec_ quiet 0)
    let after := stepped (.pitchCfg blk) waits
    let clear := { after with groups := [], copies := [], wgs := [] }
    let gone (s : State) (n : Nat) : State := ported 6 0x08003000 0 0 (s.polWrite 0x08003020 8 (256 + n))
    let as (t : TdiState) : State := pitched fun p => { p with tdi := t }
    let tdi (i : Instr) (a : Nat) (s : State) : Option Nat := status i (ported 20 a 0 0 s)
    (status (.pitchCfg blk) (ported 6 0x08200000 0 0 loaded) == some 2 && waits.coreHolds 0 0 && runs (.pitchCfg blk) waits && after.port.wait == .cores 0 && after.port.busy &&
     (wkg after).preempt && !runs .pitchCoreCleared after && clear.coresClear 0 && runs .pitchCoreCleared clear &&
     status (.pitchRemove blk) (gone loaded 5) == some 2 && status (.pitchRemove blk) (gone (as .locked) 0) == some 2 && status (.pitchRemove blk) (gone loaded 0) == some 2 &&
     status (.keyGrant blk) (ported 19 (5 + 2 ^ 8) 0 0 loaded) == some 2 && status (.keyGrant blk) (ported 19 (5 + 2 ^ 12) 0 0 loaded) == some 2 &&
     status (.keyGrant blk) (ported 19 0 0 0 { loaded with pitches := loaded.pitches ++ [(1, loadPitch)] }) == some 2 &&
     (ported 20 128 0 0 loaded).tdiPitch == none && tdi (.tdiStateLock blk) 0 quiet == some 2 && tdi (.tdiStateStart blk) 16 { (as .locked) with dev3 := true } == some 2 &&
     tdi (.tdiStateLock blk) 128 loaded == some 2 && tdi (.tdiStateStart blk) (128 + 16) loaded == some 2 && tdi (.tdiStateStop blk) (128 + 32) loaded == some 2 &&
     tdi (.tdiStateError blk) (128 + 48) loaded == some 2 && tdi (.tdiStateError blk) 48 loaded == some 2 && tdi (.tdiStateError blk) 48 (as .error) == some 2 &&
     tdi (.tdiStateStop blk) 32 loaded == some 2 && tdi (.tdiStateStop blk) 32 (as .run) == some 0 && tdi (.tdiStateStop blk) 32 (as .error) == some 0) = true := by decide +kernel
-- DebugAndPower: a pitch that is not there, a reserved level; a token off 8 bytes; a group that is not there; POWER_SET's refusals; WAKE held
-- back, and ignored.
theorem witness_DebugAndPower_clauses :
    let locked := pitched fun p => { p with tdi := .locked }
    let open2 := { bench with pitches := bench.pitches.modify 0 fun p => { p with debug := 2 }, focus := .none }
    let falling := { loaded with port := { loaded.port with busy := true, wait := .standby } }
    (status (.debugSet blk) (ported 21 5 0 0 loaded) == some 2 && status (.debugSet blk) (ported 21 48 0 0 loaded) == some 2 && status (.debugToken blk) (ported 23 0 0x08003004 0 loaded) == some 2 &&
     status (.debugHalt blk) (ported 24 (5 * 2 ^ 7) 0 0 open2) == some 2 && status (.powerSetRun blk) (ported 25 4 0 0 loaded) == some 2 &&
     status (.powerSetStandby blk) (ported 25 2 0 0 locked) == some 2 && status (.powerSetStandby blk) (ported 25 6 0 0 loaded) == some 2 &&
     (stepped .wakeInput falling).wakeHeld && !(stepped .wakeInput loaded).wakeHeld && Tab.sorted locked.pitches) = true := by decide +kernel
/-- A redundant pair of the bench's group, halted or stepped at debug level 2 (R486). -/
def debugged : State :=
  let s := paired [] []
  { s with pitches := s.pitches.modify 0 fun p => { p with debug := 2 } }
theorem witness_DebugAndPower_pair :
    let asked (i : Instr) (a : Nat) : Option (List (Nat × Nat) × Bool) := ((stepped i (ported 24 a 0 0 debugged)).pairs.get? 9).map fun p => (p.dbg, p.ckpt)
    ((debugged.groups.get? (gid 0 0)).any fun g => (debugged.pairOf g.wg).isSome) &&
     (asked (.debugHalt blk) 0 == some ([(0, 0)], true) && asked (.debugStep blk) 8192 == some ([(0, 1)], true) && asked (.debugResume blk) 16384 == some ([], false)) = true := by decide +kernel
-- InterfaceCommands: CLOSE of no context, and one malformed; a doorbell page of BAR 2; a communicator of no pitch.
theorem witness_InterfaceCommands_clauses :
    let one := { loaded with pasids := [(5, loadPasid)] }
    (status (.pasidClose blk) (ported 10 (2 ^ 63 + 6) 0 0 one) == some 2 && status (.pasidClose blk) (ported 10 (2 ^ 63 + 2 ^ 32 + 5) 0 0 one) == some 2 &&
     status (.commCfg blk) (ported 11 (5 * 2 ^ 12 + 2 * 2 ^ 16) 0x8000 0 loaded) == some 2) = true := by decide +kernel
-- HostTraffic: no line of another key in the memory-side cache; a doorbell of the physical function; a line that the link invalidates; a
-- request for the queue pinned to the mailbox's slot.
theorem witness_HostTraffic_clauses :
    let bell := { loaded with ports := [(0, ⟨16, 0, 0⟩)] }
    (linked.msc == [] && linked.window && runs (.hostOrPeerAccess 0 0x300000080000 8 (some (leBytes 8 1))) bell && bell.vfs.all (fun x => x.2 != 0) && !linked.poisoned 0x100 &&
     runs (.hostAtomic 0x100 2 16 5 0) linked) = true := by decide +kernel
-- HostTraffic and FencesAndHints, host memory: a page of it is the slices' to keep by .sys releases and acquires, or by back-invalidation, as
-- the free value of log entry 15 has it; of the first kind, bytes of its own are the host's to write and read, and a line that a slice holds
-- of it is in part changed by the host.
theorem witness_system_page : isSystem 0x800000000000 = true ∨ backInval 0x800000000000 = true := by
  have h : (targetOf 0x800000000000).port = some 0 := by decide
  cases hb : backInval 0x800000000000 <;> simp [isSystem, h, hb]
theorem witness_HostTraffic_own (h : Config.backInval 0x800000000 = false) :
    ownRange 0 0x800000000000 4 = true ∧ (runs (.hostOrPeerAccess 0 0x800000000000 4 none) linked && linked.msc == []) = true := by
  have hp : ∀ k < 4, (targetOf (0x800000000000 + k)).port = some 0 := by decide
  have hs : ∀ k < 4, isSystem (0x800000000000 + k) = true := by
    intro k hk
    have hd : (0x800000000000 + k) / 4096 = 0x800000000 := by omega
    simp [isSystem, backInval, hp k hk, hd, h]
  refine ⟨?_, by decide +kernel⟩
  have hr : (List.range 4).all (fun k => isSystem (0x800000000000 + k)) = true :=
    List.all_eq_true.mpr fun k hk => hs k (List.mem_range.mp hk)
  unfold ownRange
  rw [hr]
  decide
theorem witness_FencesAndHints_sys :
    let l : MscLine := ⟨0, 0, 2, 1, List.replicate 128 7⟩
    let s : State := { State.reset with msc := [(0x10000000000, l)] }
    (Tab.sorted s.msc && s.l1.isEmpty && s.msc.get? (0x800000000000 / 128) == some l && l.stale.getLsbD 0 && !l.dirty.getLsbD 0 && l.dirty.getLsbD 1 &&
     !l.stale.getLsbD 1 && s.farByte 0x800000000000 == 7 && l.under.length == 128) = true := by decide +kernel
-- R377, R397: a store to a WC page stays in the core's combining buffer, where the core itself reads it; a release performs it. (FencesAndHints,
-- ReadAfterWrite and LoadsAndStores: the buffers are empty before.)
theorem test_wc_combines :
    let s := bench.writePlace 0 0 (.mem 0 1 0x5000) 7
    (bench.wc == [] && s.memByte 0 0x5000 == bench.memByte 0 0x5000 && s.readPlace 0 0 (.mem 0 1 0x5000) == 7 && (s.release 0 0).memByte 0 0x5000 == 7 &&
     bench.memByte 0 0x5000 != 7) = true := by decide +kernel
-- QueuePackets: the memory-side cache is sorted before its packet starts; LoadsAndStores, ReadAfterWrite, UpdateSteps: it holds nothing changed.
theorem witness_msc_clean : (Tab.sorted bench.msc && bench.msc.all fun x => x.2.stale == 0) = true := by decide +kernel
-- PagesAndTranslations: a fault whose page maps by now; a page that the firmware maps, and one that it cannot, for which a group waits; a
-- context that is closing.
theorem witness_PagesAndTranslations_clauses :
    let logged := { loading with accs := loading.accs.map fun (x : Nat × Access) => (x.1, { x.2 with phase := AccPhase.logged }), faults := [⟨0, 0, 0, 0x22, .access (accNo loading)⟩] }
    let f := stepped (.translationFault (accNo farOff)) farOff
    let fetch := { (tune fun g => { g with wait := .fetch }) with faults := [⟨0, 0x100000000, 3, 0x22, .group 0 0⟩] }
    let group (s : State) : Option Wait := ((stepped (.pageFaultService none) s).groups.get? 0).map (·.wait)
    let shut := { bench with pasids := [(0, { loadPasid with ats := true, closing := true })], atsReqs := [(9, ⟨0, 0x200000, 0, false, []⟩)] }
    (okB (fun _ => true) (logged.translate 96 0 0 0 0) && (withAcc (stepped (.pageFaultService none) logged) fun _ a _ => a.phase == .ready) &&
     (match f.translate 96 0 0 0 0x100000000 with
       | .error (.page _) => true
       | _ => false) && (f.absentEntry 0 0x100000000).any (fun e => !Pte.flashPend e) && runs (.pageFaultService (some 0x500B)) f &&
     group fetch == some (.failed 0x22 0x100000000 3) && shut.isClosing 0 && runs (.atsTranslationCompletion 9 none) shut && runs (.atsTranslationCompletion 9 (some 1)) shut) = true := by decide +kernel
-- LaunchesAndSlots: why a record is refused (its core is not the pitch's, its slot is taken, its partner is missing), in order; an audit's
-- record refused; a refused launch of records; the group that ends, and one of two; a verdict against.
theorem witness_LaunchesAndSlots_clauses :
    let rec_ (core : Nat) (role partner : Nat) (s : State) : State :=
      let r : BindRec := { wgid := 0, slot := 0, ngroups := 1, pitch := 0, prio := 0, scrBase := 0, scrSize := 8, vregs := 8, sregs := 8, preds := 1, nbhid := 0, partner,
                           pslot := 0, role, launch := 0x7000, clean := true }
      let s := (r.words.zipIdx).foldl (fun (s : State) (x : W64 × Nat) => s.rawWrite (slotAt core 4 x.2) 8 x.1.toNat) s
      { s with binds := [(core, 4)] }
    let reason (core : Nat) (s : State) : Option Nat := ({ s with binds := [] } : State).bindReason core (({ s with binds := [] } : State).bindRec core 4)
    let narrow := { loaded with pitches := loaded.pitches.modify 0 fun p => { p with cores := 1 } }
    let node : LaunchReq := { request 0x101 with node := some (0, 0, 0, 1) }
    let rej := { described with requests := [node] }
    let two := { endedGroup with groups := endedGroup.groups.set 1 { grp bench with gi := 1 } }
    let audit (sig : W64) : State := { endedWg with replays := [(5, (1, 8))], wgs := endedWg.wgs.set 8 { (wkg endedWg) with role := 3 }, audits := [(1, ⟨sig, []⟩), (8, ⟨7, []⟩)] }
    (reason 3 (rec_ 3 0 0x7F narrow) == some 0 && reason 0 (rec_ 0 0 0x7F bench) == some 1 && reason 5 (rec_ 5 3 0 loaded) == some 3 && runs (.bindRecord 5 4) (rec_ 5 3 0 loaded) &&
     runs .launchRequest rej && (stepped .launchRequest rej).launches.any (fun x => x.2.done && x.2.node.isSome) && (stepped .launchRequest rej).requests == [] &&
     two.groupIdle 1 0 && (two.groupsOf 1).length == 2 && runs (.groupSlotRelease 0 0) two && (endedGroup.groupsOf 1).length == 1 && (wkg endedGroup).mqueue == [] &&
     runs (.auditVerdict 5) (audit 7) && runs (.auditVerdict 5) (audit 8) && ((stepped (.auditVerdict 5) (audit 8)).core 0).outOfService) = true := by decide +kernel
-- GraphsAndRaster: a raster target of 16 by 16 pixels at data address 0x800, for an output with no primitive.
theorem witness_GraphsAndRaster_target :
    let s := ((bench.rawWrite 0x5800 8 0x1000).rawWrite 0x5808 8 (16 + 16 * 2 ^ 16 + 128 * 2 ^ 32)).rawWrite 0x5820 8 1
    let mesh : State := { (tuneWg s fun w => { w with committed := some (0, 0), phase := .ended }) with
      focus := .none, launches := [(3, { (bench.launches.getD 3 loadLaunch) with node := some (0, 0, 0, 1) })],
      graphs := [(0, { enabled := true, pitch := 0, nodes := [[0x100, 0x1000, 0, 0x400, 0x0001000000000800, 1, 0, 0]], dispatched := [], consumed := [] })] }
    (mesh.outputs.length == 1 && runs .rasteriseOutput mesh && !(wkg (stepped .rasteriseOutput mesh)).failed && (wkg (stepped .rasteriseOutput mesh)).rastered) = true := by decide +kernel
/-- Whether a word of the pair's lead issues: what RedundantPairs' clause on CKPT asks of it. -/
def pairB (s : State) (i : Instr) (p : Ctx → Bool) : Bool :=
  match s.ctx? i.congruent with
  | some c => (c.wordCause s i).isNone && !(wordSpans i).any c.g.isPending && !s.aheadOfLead c.g && (s.core c.core).inject.isNone
      && decide (c.g.ofs.toNat + 1 < c.w.desc.len) && !s.hasLog c.g.wg c.g.gi && Tab.sorted s.pairs && p c
  | none => false
-- RedundantPairs, CKPT: of the lead, with an entry of its own unmatched and without; of the sweep, behind its lead.
theorem witness_RedundantPairs_ckpt :
    let lead (es : List Entry) : State := { paired es [] with groups := bench.groups, focus := .group 0 0 0 }
    (pairB (lead []) (.ckpt (bare)) (fun c => ((lead []).pairOf c.g.wg).any fun x => x.2.2) && runs (.ckpt (bare)) (lead []) &&
     pairB (lead [{ entry 5 with stream := 0 }]) (.ckpt (bare)) (fun c => ((lead [{ entry 5 with stream := 0 }]).pairOf c.g.wg).any fun x =>
       x.2.2 && x.2.1.lead.entries.any fun e => e.stream == c.g.gi)) = true := by decide +kernel
theorem witness_RedundantPairs_sweep :
    let s := { paired [] [] (fun p => { p with lead := { p.lead with count := [(0, 5)] } }) with
      groups := (bench.groups.set 0 (grp bench)).set 64 { grp bench with wg := 2 }, focus := .group 1 0 0 }
    (pairB s (.ckpt (bare)) (fun c => (s.pairOf c.g.wg).any (fun x => !x.2.2) && runs (.ckpt (bare)) s)) = true := by decide +kernel
-- RedundantPairs: a role restored to one recorded group and one journalled line; an entry that commits where nothing is unmatched before it;
-- a store of the lead's, performed; the sweep's entry alone for 100 µs; a checkpoint with no cause due.
theorem witness_RedundantPairs_clauses :
    let role : RedRole := ⟨1, [], [], [], [], [{ grp bench with ofs := 7 }], none, [], [], [(0x200, [1, 2, 3])]⟩
    let back := (bench.restoreRole role).1
    let commit := { entry 5 with kind := 2 }
    let a : Access := ((loading.accs.head?).map (·.2)).getD (deferred 1 0 0 0 0 0 0 0 0 0)
    let upd : Entry := { entry 5 with kind := 1, stream := 0, act := .access { a with word := .upd ⟨.always, .v 4, .s 9, 0, 0⟩ } 7 }
    let both := paired [upd] [{ upd with act := .access { a with wg := 2, word := .upd ⟨.always, .v 4, .s 9, 0, 0⟩ } 8 }]
    let rest := paired [] [] fun p => { p with ckpt := true }
    let p9 (s : State) : Option Pair := s.pairs.get? 9
    ((back.groups.get? 0).any (fun g => g.ofs == 7) && back.scrByte 0 (back.pitchKey 0) 0x201 == 2 &&
     (p9 (paired [commit] [commit])).any (fun p => p.settled) && (p9 (stepped (.compareEntry 9) (paired [commit] [commit]))).any (fun p => p.lead.entries.isEmpty && p.ckpt) &&
     runs (.compareEntry 9) both && ((stepped (.compareEntry 9) both).accs.get? 7).any (fun x => x.mirror == some (2, 8)) &&
     runs (.redSlackTimeout 9) (paired [] [entry 5] id 100000) && Tab.sorted rest.groups && (p9 rest).any (fun p => p.due == [] && p.mustRoll == none)) = true := by decide +kernel

end Sys2Proof.Tests
end

section
/-! PROOF. Debug and power states (01 R25, 28 R477–R489): what entries to Error, placement and the caches leave as it was, what each
debug and power command does, and DebugAndPower from these. -/

namespace Sys2Proof

/-! ### Tables -/

theorem Tab.mem_of_get? {α : Type} {t : Tab α} {x : Nat} {a : α} (h : t.get? x = some a) : (x, a) ∈ t := by
  induction t with
  | nil => cases h
  | cons e t ih =>
    obtain ⟨k, v⟩ := e
    rw [Tab.get?_cons] at h
    split at h
    · next hk => cases h; subst hk; exact List.mem_cons_self ..
    · exact List.mem_cons_of_mem _ (ih h)
theorem Tab.get?_of_mem {α : Type} {t : Tab α} (sorted : t.sorted = true) {x : Nat} {a : α} (h : (x, a) ∈ t) : t.get? x = some a := by
  rw [Tab.sorted_iff] at sorted
  induction t with
  | nil => cases h
  | cons e t ih =>
    obtain ⟨k, v⟩ := e
    obtain ⟨first, rest⟩ := List.pairwise_cons.1 sorted
    rcases List.mem_cons.1 h with here | later
    · cases here; simp
    · have rising : k < x := first _ later
      rw [Tab.get?_cons, if_neg (by omega), ih rest later]
theorem Tab.get?_filter_key {α : Type} (t : Tab α) (p : Nat → Bool) (x : Nat) :
    Tab.get? (t.filter fun e => p e.1) x = if p x then t.get? x else none := by
  induction t with
  | nil => simp
  | cons e t ih =>
    obtain ⟨k, v⟩ := e
    simp only [List.filter_cons, Tab.get?_cons]
    by_cases here : k = x
    · subst here
      cases hp : p k <;> simp_all
    · cases hp : p k <;> simp_all
/-- Writes at keys other than `x` leave the entry of `x`. -/
theorem Tab.getD_foldl_put {α : Type} [DecidableEq α] {d : α} {f : Nat → Nat} {g : Nat → α} {x : Nat} :
    ∀ (l : List Nat) (t : Tab α), (∀ k ∈ l, f k ≠ x) → Tab.getD (l.foldl (fun t k => Tab.put d t (f k) (g k)) t) x d = Tab.getD t x d
  | [], _, _ => rfl
  | k :: l, t, h => by
    obtain ⟨here, rest⟩ := List.forall_mem_cons.1 h
    rw [List.foldl_cons, Tab.getD_foldl_put l _ rest, Tab.getD_put, if_neg here]

end Sys2Proof

namespace Sys2Proof.Machine
open Sys2Proof

/-! ### What is steady through the end of a pitch's work -/

section steady
/-- The security state of a pitch, if it is configured. -/
def State.tdiOf (s : State) (n : Nat) : Option TdiState := (s.pitches.get? n).map (·.tdi)
/-- What the wait for entries to Error rests on: the port, the challenge, and the security state of each pitch. -/
def State.steady (s : State) : ScPort × Option (List Byte) × (Nat → Option TdiState) := (s.port, s.challenge, s.tdiOf)

/-- What no step of a walk changes, the walk leaves as it was. -/
theorem foldl_keeps {α β : Type} {p : State → β} {f : State → α → State} (h : ∀ s x, p (f s x) = p s) :
    ∀ (l : List α) (s : State), p (l.foldl f s) = p s
  | [], _ => rfl
  | x :: l, s => (foldl_keeps h l (f s x)).trans (h s x)

theorem State.steady_ext {s t : State} (port : t.port = s.port) (challenge : t.challenge = s.challenge)
    (tdi : t.tdiOf = s.tdiOf) : t.steady = s.steady := by simp only [State.steady, port, challenge, tdi]
theorem State.port_of_steady {s t : State} (h : t.steady = s.steady) : t.port = s.port := congrArg (·.1) h
theorem State.challenge_of_steady {s t : State} (h : t.steady = s.steady) : t.challenge = s.challenge := congrArg (·.2.1) h
theorem State.tdiOf_of_steady {s t : State} (h : t.steady = s.steady) : t.tdiOf = s.tdiOf := congrArg (·.2.2) h

variable (s : State)

/-! ### Caches and memory -/

@[simp] theorem State.steady_setByte (a : Nat) (b : Byte) : (s.setByte a b).steady = s.steady := rfl
@[simp] theorem State.steady_rawBytes : ∀ (bs : List Byte) (s : State) (a : Nat), (s.rawBytes a bs).steady = s.steady
  | [], _, _ => rfl
  | b :: bs, s, a => State.steady_rawBytes bs (s.setByte a b) (a + 1)
@[simp] theorem State.steady_rawWrite (a n v : Nat) : (s.rawWrite a n v).steady = s.steady := s.steady_rawBytes ..
@[simp] theorem State.steady_clearRange (a n : Nat) : (s.clearRange a n).steady = s.steady := rfl
@[simp] theorem State.steady_clearPoison (l : List Nat) : (s.clearPoison l).steady = s.steady := by
  unfold State.clearPoison; split <;> rfl
@[simp] theorem State.steady_addPoison (n : Nat) : (s.addPoison n).steady = s.steady := by
  unfold State.addPoison; split <;> rfl
@[simp] theorem State.steady_copyPoison (a b n : Nat) : (s.copyPoison a b n).steady = s.steady := by
  simp [State.copyPoison, foldl_keeps (p := State.steady)]
@[simp] theorem State.steady_mscEvict (line : Nat) : (s.mscEvict line).steady = s.steady := by
  unfold State.mscEvict; split <;> rfl
@[simp] theorem State.steady_mscDrop (line : Nat) (keep : Nat → Bool) : (s.mscDrop line keep).steady = s.steady := by
  unfold State.mscDrop
  split
  · rfl
  · exact s.steady_mscEvict line
@[simp] theorem State.steady_mscFill (key a : Nat) : (s.mscFill key a).steady = s.steady := by
  unfold State.mscFill
  split
  · rfl
  split
  · split
    · rfl
    · exact s.steady_mscEvict (a / 128)
  · dsimp only
    split
    · rfl
    · split
      · rfl
      · exact s.steady_mscEvict _
@[simp] theorem State.steady_mscMark (a : Nat) : (s.mscMark a).steady = s.steady := by
  unfold State.mscMark
  split
  · dsimp only; split <;> rfl
  · rfl
@[simp] theorem State.steady_setDramByte (key a : Nat) (b : Byte) : (s.setDramByte key a b).steady = s.steady := by
  unfold State.setDramByte
  split
  · refine (State.steady_mscMark _ a).trans ?_
    split
    · split
      · rfl
      · exact State.steady_rawBytes _ s _
    · rfl
  · exact s.steady_mscMark a
  · exact s.steady_mscMark a
  · rfl
@[simp] theorem State.steady_setMemByte (key a : Nat) (b : Byte) : (s.setMemByte key a b).steady = s.steady := by
  simp [State.setMemByte]
@[simp] theorem State.steady_setPastL1 (key cache scope a : Nat) (b : Byte) :
    (s.setPastL1 key cache scope a b).steady = s.steady := by
  unfold State.setPastL1
  split
  · simp
  · split <;> simp
@[simp] theorem State.steady_mscForget : s.mscForget.steady = s.steady := by
  simp [State.mscForget, foldl_keeps (p := State.steady)]
@[simp] theorem State.steady_writeBack (a : Nat) (l : L1Line) : (s.writeBack a l).steady = s.steady := by
  simp [State.writeBack, foldl_keeps (p := State.steady)]
@[simp] theorem State.steady_evictL1 (k : Nat) : (s.evictL1 k).steady = s.steady := by
  unfold State.evictL1
  split
  · exact s.steady_writeBack _ _
  · rfl
@[simp] theorem State.steady_drainWc (p : Nat → Bool) : (s.drainWc p).steady = s.steady := by
  unfold State.drainWc
  dsimp only
  split
  · rfl
  · rw [State.steady_clearPoison, foldl_keeps (p := State.steady) (by simp)]
    rfl
@[simp] theorem State.steady_cleanL1 (core : Nat) : (s.cleanL1 core).steady = s.steady := by
  have h := foldl_keeps (p := State.steady) (f := fun s (x : Nat × L1Line) => s.writeBack (x.1 * 128) x.2) (by simp)
  exact (h _ _).trans (s.steady_drainWc _)
@[simp] theorem State.steady_dropL1 (core : Nat) : (s.dropL1 core).steady = s.steady := s.steady_cleanL1 core
@[simp] theorem State.steady_acquire (core scope : Nat) : (s.acquire core scope).steady = s.steady := by
  unfold State.acquire
  split
  · rfl
  · split <;> simp
@[simp] theorem State.steady_setFused (cluster : Nat) (on : Bool) : (s.setFused cluster on).steady = s.steady := by
  unfold State.setFused
  split
  · rfl
  · extract_lets t
    have walk : t.steady = s.steady := foldl_keeps (p := State.steady) (by simp) _ s
    clear_value t
    exact walk
@[simp] theorem State.steady_setScrByte (core key ofs : Nat) (b : Byte) : (s.setScrByte core key ofs b).steady = s.steady := by
  unfold State.setScrByte
  dsimp only
  split
  · split <;> rfl
  · rfl

/-! ### Groups, cores and workgroups -/

@[simp] theorem State.steady_setCore (n : Nat) (x : CoreSt) : (s.setCore n x).steady = s.steady := rfl
@[simp] theorem State.steady_setGroup (k : Nat) (g : Group) : (s.setGroup k g).steady = s.steady := rfl
@[simp] theorem State.steady_setWg (u : Nat) (w : Wg) : (s.setWg u w).steady = s.steady := rfl
theorem State.steady_withPairs (ps : Tab Pair) : ({ s with pairs := ps } : State).steady = s.steady := rfl
@[simp] theorem State.steady_leaveIdle : s.leaveIdle.steady = s.steady := by unfold State.leaveIdle; split <;> rfl
@[simp] theorem State.steady_wake (core bit : Nat) : (s.wake core bit).steady = s.steady := by
  unfold State.wake
  dsimp only
  split
  · simp
  · split <;> rfl
@[simp] theorem State.steady_arrive (core : Nat) : (s.arrive core).steady = s.steady := by
  unfold State.arrive
  split <;> simp
@[simp] theorem State.steady_moveWatch (src n dst : Nat) : (s.moveWatch src n dst).steady = s.steady := rfl
@[simp] theorem State.steady_claimEngine (u : Nat) (w : Wg) : (s.claimEngine u w).steady = s.steady := rfl
@[simp] theorem State.steady_handOver (core : Nat) : (s.handOver core).steady = s.steady := by
  unfold State.handOver
  dsimp only
  split <;> rfl
@[simp] theorem State.steady_restoreLog (u : Nat) (w : Wg) (gi : Nat) : (s.restoreLog u w gi).steady = s.steady := rfl
@[simp] theorem State.steady_unmapSlot (k : Nat) : (s.unmapSlot k).steady = s.steady := by
  unfold State.unmapSlot; split <;> rfl
@[simp] theorem State.steady_stopWg (u : Nat) : (s.stopWg u).steady = s.steady := rfl

/-! ### Placement -/

@[simp] theorem State.steady_restoreWg (u core slot scr partner pslot : Nat) :
    (s.restoreWg u core slot scr partner pslot).steady = s.steady := by
  unfold State.restoreWg
  split
  · rfl
  · next w0 _ =>
    -- the value of each state is cleared once its lemma stands: unfolded, the later states are too large to compare
    extract_lets key s1 w s2 s3 s4 s5 r s6 s7 clearJ s8
    have here : s1.steady = s.steady := by simp only [s1]; split <;> simp
    clear_value s1
    have scratch : s2.steady = s1.steady := foldl_keeps (p := State.steady) (by simp) _ s1
    clear_value s2
    have poison : s3.steady = s2.steady := s2.steady_copyPoison ..
    clear_value s3
    have watch : s4.steady = s3.steady := s3.steady_moveWatch ..
    clear_value s4
    have groups : s5.steady = s4.steady := foldl_keeps (p := State.steady)
      (fun t (g : Group) => (State.steady_setGroup (t.restoreLog u w0 g.gi) _ _).trans (t.steady_restoreLog u w0 g.gi)) _ s4
    clear_value s5
    have record : s6.steady = s5.steady := foldl_keeps (p := State.steady) (by simp) _ s5
    clear_value s6
    have bound : s7.steady = s6.steady := s6.steady_setWg u w
    clear_value s7
    have all : s8.steady = s.steady := calc
      s8.steady = s7.steady := s7.steady_withPairs _
      _ = s.steady := by rw [bound, record, groups, watch, poison, scratch, here]
    split
    · split
      · exact (s8.steady_claimEngine u w).trans all
      · exact (s8.steady_setWg u _).trans all
    · exact all
@[simp] theorem State.steady_fuseOver (pitch : Nat) (cores us : List Nat) : (s.fuseOver pitch cores us).steady = s.steady := by
  unfold State.fuseOver
  dsimp only
  split
  · exact foldl_keeps (p := State.steady) (by simp) _ s
  · rfl
@[simp] theorem State.steady_slotWrite (core entry word : Nat) (v : W64) : (s.slotWrite core entry word v).steady = s.steady := by
  unfold State.slotWrite
  dsimp only
  split
  · split <;> simp
  · split
    · simp
    · refine Eq.trans (b := State.steady (if _ then _ else _)) rfl ?_
      split <;> simp
@[simp] theorem State.steady_writeBind (core : Nat) (r : BindRec) : (s.writeBind core r).steady = s.steady := by
  simp [State.writeBind]
@[simp] theorem State.steady_putKey (key a n v : Nat) : (s.putKey key a n v).steady = s.steady :=
  foldl_keeps (p := State.steady) (by simp) _ s
@[simp] theorem State.steady_syncRecord (id : Nat) : (s.syncRecord id).steady = s.steady := by
  unfold State.syncRecord
  split
  · split <;> simp
  · rfl
@[simp] theorem State.steady_placeItem (pitch : Nat) (it : PlaceItem) : (s.placeItem pitch it).steady = s.steady := by
  unfold State.placeItem
  split
  · split
    · rfl
    · next w hw =>
      extract_lets fuse need n go
      split
      · rfl
      · next xs ys hs =>
        extract_lets s1 s2
        have go_keeps (t us zs mates) : (go t us zs mates).steady = t.steady := by
          refine foldl_keeps (p := State.steady) (fun t x => ?_) _ t
          dsimp only
          split
          · split
            · exact t.steady_restoreWg ..
            · rfl
          · rfl
        have parted : s1.steady = s.steady := by
          simp only [s1]
          split
          · rfl
          · exact foldl_keeps (p := State.steady) (by simp) _ s
        have placed : s2.steady = s.steady := (go_keeps ..).trans ((go_keeps ..).trans parted)
        split <;> simp [placed]
  · split
    · rfl
    split
    · rfl
    · next l _ xs ys _ =>
      extract_lets s1 s2 s3
      have leads : s2.steady = s1.steady :=
        foldl_keeps (p := State.steady) (fun t x => by dsimp only; split <;> simp) _ s1
      have sweeps : s3.steady = s2.steady :=
        foldl_keeps (p := State.steady) (fun t x => by dsimp only; split <;> simp) _ s2
      exact (s3.steady_syncRecord _).trans (sweeps.trans leads)
  · split
    · rfl
    split
    · rfl
    extract_lets n other cores
    split
    · rfl
    · exact s.steady_writeBind ..
@[simp] theorem State.steady_placeSome (pitch : Nat) (skip : List Nat) (first : Nat → Bool) :
    (s.placeSome pitch skip first).steady = s.steady := by
  unfold State.placeSome
  extract_lets runs saved items
  split
  · rfl
  · exact foldl_keeps (p := State.steady) (by simp) _ s
@[simp] theorem State.steady_place (pitch : Nat) : (s.place pitch).steady = s.steady := s.steady_placeSome ..

/-! ### The end of a pitch's work -/

/-- A change of a pitch that leaves its security state. -/
theorem State.steady_modifyPitch {s t : State} (h : t.steady = s.steady) (p : Nat) (f : Pitch → Pitch) (hf : ∀ x, (f x).tdi = x.tdi) :
    ({ t with pitches := s.pitches.modify p f } : State).steady = s.steady := by
  have tdi (n : Nat) : ((s.pitches.modify p f).get? n).map (·.tdi) = s.tdiOf n := by
    rw [Tab.get?_modify]
    split
    · simp [State.tdiOf, Option.map_map, Function.comp_def, hf]
    · rfl
  have port := State.port_of_steady h
  have challenge := State.challenge_of_steady h
  exact State.steady_ext port challenge (funext tdi)
@[simp] theorem State.steady_endWg (u : Nat) : (s.endWg u).steady = s.steady := by
  unfold State.endWg
  split
  · rfl
  · next w _ =>
    extract_lets free s1 s2
    have freed : s1.steady = s.steady := State.steady_modifyPitch (t := s) rfl w.pitch free fun _ => rfl
    have passed : s2.steady = s1.steady := by
      simp only [s2]
      split
      · exact s1.steady_handOver _
      · rfl
    exact (s2.steady_place _).trans (passed.trans freed)
@[simp] theorem State.steady_endSaved (u : Nat) : (s.endSaved u).steady = s.steady := by
  unfold State.endSaved
  split
  · rfl
  · split
    · rfl
    · exact State.steady_endWg _ u
@[simp] theorem State.steady_endSavedAll (p : Nat) : (s.endSavedAll p).steady = s.steady :=
  foldl_keeps (p := State.steady) (by simp) _ s
@[simp] theorem State.steady_beginEnd (p : Nat) : (s.beginEnd p).steady = s.steady := by
  unfold State.beginEnd
  extract_lets s1 idle s2 live s3 calm s4
  have marked : s1.steady = s.steady := State.steady_modifyPitch (t := s) rfl p _ fun _ => rfl
  clear_value s1
  have unmapped : s2.steady = s1.steady := foldl_keeps (p := State.steady) (by simp) _ s1
  clear_value s2
  have stopped : s3.steady = s2.steady := foldl_keeps (p := State.steady) (by simp) _ s2
  clear_value s3
  have calmed : s4.steady = s3.steady := rfl
  rw [State.steady_endSavedAll, calmed, stopped, unmapped, marked]
@[simp] theorem State.steady_dropKey (key : Nat) : (s.dropKey key).steady = s.steady := by
  unfold State.dropKey
  extract_lets rows s1 drop s2
  have rowsGone : s1.steady = s.steady := foldl_keeps (p := State.steady) (by simp) _ s
  clear_value s1
  have linesGone : s2.steady = s1.steady := foldl_keeps (p := State.steady) (by simp) _ s1
  clear_value s2
  exact linesGone.trans rowsGone
@[simp] theorem State.steady_zeroKey (key : Nat) : (s.zeroKey key).steady = s.steady := by
  unfold State.zeroKey
  extract_lets t
  have dropped : t.steady = s.steady := s.steady_dropKey key
  clear_value t
  exact dropped
@[simp] theorem State.steady_zeroKeys (p : Nat) : (s.zeroKeys p).steady = s.steady :=
  foldl_keeps (p := State.steady) (by simp) _ s
@[simp] theorem State.steady_settleEnd (p : Nat) : (s.settleEnd p).steady = s.steady := by
  unfold State.settleEnd
  split
  · rfl
  split
  · rfl
  extract_lets t
  have saved : t.steady = s.steady := s.steady_endSavedAll p
  clear_value t
  split
  · exact (State.steady_modifyPitch (t.steady_zeroKeys p) p (fun x => { x with removing := false }) fun _ => rfl).trans saved
  · exact saved

/-- Entry to Error leaves the port and the challenge, and of the security states changes the pitch's own alone. -/
theorem State.steady_enterError (p : Nat) :
    (s.enterError p).steady = ({ s with pitches := s.pitches.modify p fun x => { x with tdi := .error } } : State).steady := by
  rw [State.enterError, State.steady_settleEnd, State.steady_beginEnd]
theorem State.tdiOf_enterError (p n : Nat) :
    (s.enterError p).tdiOf n = if p = n then (s.tdiOf n).map fun _ => .error else s.tdiOf n := by
  rw [State.tdiOf_of_steady (s.steady_enterError p)]
  simp only [State.tdiOf, Tab.get?_modify]
  split
  · simp [Option.map_map, Function.comp_def]
  · rfl
theorem State.tdiOf_enterErrors (n : Nat) : ∀ (ps : List Nat) (s : State),
    (ps.foldl (fun s p => s.enterError p) s).tdiOf n = if n ∈ ps then (s.tdiOf n).map fun _ => .error else s.tdiOf n
  | [], s => by simp
  | p :: ps, s => by
    rw [List.foldl_cons, State.tdiOf_enterErrors n ps, State.tdiOf_enterError]
    by_cases here : p = n
    · simp [here, Function.comp_def]
    · simp [here, Ne.symm here]
theorem State.port_enterErrors (ps : List Nat) : (ps.foldl (fun s p => s.enterError p) s).port = s.port :=
  foldl_keeps (p := State.port) (fun s p => (State.port_of_steady (s.steady_enterError p)).trans rfl) ps s
theorem State.challenge_enterErrors (ps : List Nat) : (ps.foldl (fun s p => s.enterError p) s).challenge = s.challenge :=
  foldl_keeps (p := State.challenge) (fun s p => (State.challenge_of_steady (s.steady_enterError p)).trans rfl) ps s
end steady

/-! ### The command port -/

theorem State.command_on {s : State} {blk : W64} {op : Nat} (on : s.onPort blk op = true) (go : State → State) :
    s.command blk op go = .next (go s) := by simp [State.command, on]

/-! ### DEBUG_SET and DEBUG_CHALLENGE -/

section debugSet
variable {s : State} {p : Pitch}

theorem State.debugSet_none (h : s.pitches.get? (field (s.arg 0) 0 4) = none) : s.debugSet = s.ends 2 := by
  simp only [State.debugSet, h]
/-- What DEBUG_SET does to a configured pitch. -/
theorem State.debugSet_some (h : s.pitches.get? (field (s.arg 0) 0 4) = some p) :
    s.debugSet =
      if (s.arg 0).toNat < 64 ∧ field (s.arg 0) 4 2 ≠ 3 ∧ s.arg 1 = 0 ∧ s.arg 2 = 0 then
        if p.tdi = .opened then
          { s with pitches := s.pitches.set (field (s.arg 0) 0 4) { p with debug := field (s.arg 0) 4 2 } }.ends 0
        else s.ends 0x1A0
      else s.ends 2 := by
  simp only [State.debugSet, h]
  by_cases reads : (s.arg 0).toNat < 64 ∧ field (s.arg 0) 4 2 ≠ 3 ∧ s.arg 1 = 0 ∧ s.arg 2 = 0
  · have legal : ¬ (64 ≤ (s.arg 0).toNat ∨ field (s.arg 0) 4 2 = 3 ∨ s.arg 1 ≠ 0 ∨ s.arg 2 ≠ 0) := by
      obtain ⟨h0, h1, h2, h3⟩ := reads
      simp [h1, h2, h3, h0]
    rw [if_pos reads, if_neg legal]
    split <;> simp_all
  · have bad : 64 ≤ (s.arg 0).toNat ∨ field (s.arg 0) 4 2 = 3 ∨ s.arg 1 ≠ 0 ∨ s.arg 2 ≠ 0 := by
      simpa only [Classical.not_and_iff_not_or_not, Nat.not_lt, Classical.not_not] using reads
    rw [if_neg reads, if_pos bad]
end debugSet

theorem State.debugChallenge_eq (s : State) :
    s.debugChallenge =
      if s.arg 0 = 0 ∧ s.arg 2 = 0 ∧ inSram (s.arg 1).toNat 32 = true then
        ({ s with drbgNo := s.drbgNo + 32, challenge := some ((List.range 32).map fun i => Config.drbg (s.drbgNo + i)) }.polPut
          (s.arg 1).toNat ((List.range 32).map fun i => Config.drbg (s.drbgNo + i))).ends 0
      else s.ends 2 := by
  unfold State.debugChallenge
  dsimp only
  by_cases legal : s.arg 0 = 0 ∧ s.arg 2 = 0 ∧ inSram (s.arg 1).toNat 32 = true
  · rw [if_pos legal, if_neg (by simp [legal])]
  · rw [if_neg legal, if_pos (by simpa only [Classical.not_and_iff_not_or_not, Bool.not_eq_true, Bool.not_eq_true'] using legal)]

/-! ### The end of a command -/

/-- A write of bytes changes memory and the monitors alone. -/
theorem State.rawBytes_eq : ∀ (bs : List Byte) (s : State) (a : Nat), ∃ m ms, s.rawBytes a bs = { s with mem := m, monitors := ms }
  | [], s, _ => ⟨s.mem, s.monitors, rfl⟩
  | b :: bs, s, a => by
    obtain ⟨m, ms, h⟩ := State.rawBytes_eq bs (s.setByte a b) (a + 1)
    exact ⟨m, ms, h⟩
/-- The end of a command frees the port and writes its block in memory. -/
theorem State.ends_eq (s : State) (status : Nat) :
    ∃ m ms, s.ends status = { s with mem := m, monitors := ms, port := { s.port with busy := false, wait := .none } } := by
  obtain ⟨m, ms, h⟩ := State.rawBytes_eq (leBytes 4 status) s (polKey (s.port.running.toNat + 4))
  refine ⟨m, ms, ?_⟩
  simp only [State.ends, State.finish, List.foldl_nil, State.polWrite, State.rawWrite, h]

section ends
variable (s : State) (status : Nat)
@[simp] theorem State.ends_challenge : (s.ends status).challenge = s.challenge := by obtain ⟨m, ms, h⟩ := s.ends_eq status; rw [h]
@[simp] theorem State.ends_pitches : (s.ends status).pitches = s.pitches := by obtain ⟨m, ms, h⟩ := s.ends_eq status; rw [h]
@[simp] theorem State.ends_ports : (s.ends status).ports = s.ports := by obtain ⟨m, ms, h⟩ := s.ends_eq status; rw [h]
@[simp] theorem State.ends_wakeHeld : (s.ends status).wakeHeld = s.wakeHeld := by obtain ⟨m, ms, h⟩ := s.ends_eq status; rw [h]
@[simp] theorem State.ends_port : (s.ends status).port = { s.port with busy := false, wait := .none } := by
  obtain ⟨m, ms, h⟩ := s.ends_eq status; rw [h]
@[simp] theorem State.ends_dev3 : (s.ends status).dev3 = s.dev3 := by obtain ⟨m, ms, h⟩ := s.ends_eq status; rw [h]
end ends

/-! ### DEBUG_TOKEN -/

/-- The pitches that a debug token takes to Error: those in Locked or Run (R484). -/
def State.guardedPitches (s : State) : List Nat :=
  (s.pitches.filter fun (x : Nat × Pitch) => x.2.tdi == .locked || x.2.tdi == .run).map (·.1)
/-- With rising keys, a pitch is among them exactly when its own state is Locked or Run. -/
theorem State.mem_guardedPitches {s : State} (sorted : Tab.sorted s.pitches = true) {n : Nat} {p : Pitch}
    (h : s.pitches.get? n = some p) : n ∈ s.guardedPitches ↔ p.tdi = .locked ∨ p.tdi = .run := by
  constructor
  · intro hn
    obtain ⟨⟨m, q⟩, hq, rfl⟩ := List.mem_map.1 hn
    obtain ⟨mem, tdi⟩ := List.mem_filter.1 hq
    have same : q = p := by simpa [Tab.get?_of_mem sorted mem] using h
    simpa [same] using tdi
  · intro tdi
    exact List.mem_map.2 ⟨(n, p), List.mem_filter.2 ⟨Tab.mem_of_get? h, by simpa using tdi⟩, rfl⟩

/-- The arguments of a DEBUG_TOKEN are in order (R477). -/
def State.tokenArgs (s : State) : Prop :=
  s.arg 0 = 0 ∧ s.arg 2 = 0 ∧ (s.arg 1).toNat % 8 = 0 ∧ inSram (s.arg 1).toNat 7552 = true
/-- A machine that has taken a debug token and has to wait for entries to Error, or not. -/
def State.tokenTaken (s : State) : State :=
  s.guardedPitches.foldl (fun s n => s.enterError n)
    (({ s with challenge := none } : State).extend 23 (sha384 ((s.polBytes (s.arg 1).toNat 7552).take 128)))

section token
variable {s : State} (idle : s.port.wait = .none)
include idle

theorem State.debugTokenCmd_badArgs (bad : ¬ s.tokenArgs) : s.debugTokenCmd = s.ends 2 := by
  have wrong : s.arg 0 ≠ 0 ∨ s.arg 2 ≠ 0 ∨ (s.arg 1).toNat % 8 ≠ 0 ∨ !inSram (s.arg 1).toNat 7552 := by
    simpa only [State.tokenArgs, Classical.not_and_iff_not_or_not, Bool.not_eq_true, Bool.not_eq_true'] using bad
  simp only [State.debugTokenCmd, State.endingCmd, idle, if_pos wrong]
theorem State.debugTokenCmd_refused (args : s.tokenArgs) (bad : s.tokenOk (s.polBytes (s.arg 1).toNat 7552) = false) :
    s.debugTokenCmd = ({ s with challenge := none } : State).ends 0x1A1 := by
  obtain ⟨h0, h2, h8, hs⟩ := args
  simp [State.debugTokenCmd, State.endingCmd, idle, h0, h2, h8, hs, bad]
theorem State.debugTokenCmd_accepted (args : s.tokenArgs) (ok : s.tokenOk (s.polBytes (s.arg 1).toNat 7552) = true) :
    s.debugTokenCmd = s.tokenTaken.awaitEnds s.guardedPitches fun s => ({ s with dev3 := true } : State).ends 0 := by
  obtain ⟨h0, h2, h8, hs⟩ := args
  simp [State.debugTokenCmd, State.endingCmd, idle, h0, h2, h8, hs, ok]
  rfl
end token

theorem State.port_tokenTaken (s : State) : s.tokenTaken.port = s.port := State.port_enterErrors ..
theorem State.challenge_tokenTaken (s : State) : s.tokenTaken.challenge = none := State.challenge_enterErrors ..
theorem State.tdiOf_tokenTaken (s : State) (n : Nat) :
    s.tokenTaken.tdiOf n = if n ∈ s.guardedPitches then (s.tdiOf n).map fun _ => .error else s.tdiOf n :=
  State.tdiOf_enterErrors ..
/-- A token that has been taken is gone, has set DEV3 or waits for its pitches, and has taken these to Error. -/
theorem State.awaitEnds_tokenTaken {s : State} (busy : s.port.busy = true) (sorted : Tab.sorted s.pitches = true) :
    let u := s.tokenTaken.awaitEnds s.guardedPitches fun s => ({ s with dev3 := true } : State).ends 0
    u.challenge = none ∧
      (u.dev3 = true ∨ u.port.busy = true ∧ ∃ ps, u.port.wait = .ending ps) ∧ ∀ n p, s.pitches.get? n = some p →
        (u.pitches.get? n).map (·.tdi) = some (if p.tdi = .locked ∨ p.tdi = .run then .error else p.tdi) := by
  have states (n : Nat) (p : Pitch) (h : s.pitches.get? n = some p) :
      s.tokenTaken.tdiOf n = some (if p.tdi = .locked ∨ p.tdi = .run then .error else p.tdi) := by
    rw [State.tdiOf_tokenTaken]
    simp only [State.mem_guardedPitches sorted h, State.tdiOf, h, Option.map_some]
    split <;> rfl
  unfold State.awaitEnds
  split
  · refine ⟨s.challenge_tokenTaken, .inr ⟨?_, _, rfl⟩, states⟩
    rw [← busy, ← s.port_tokenTaken]
  · simp only [State.ends_challenge, State.ends_dev3, State.ends_pitches]
    exact ⟨s.challenge_tokenTaken, .inl trivial, states⟩
theorem State.guardedPitches_nil {s : State} (h : ∀ x ∈ s.pitches, x.2.tdi ≠ .locked ∧ x.2.tdi ≠ .run) : s.guardedPitches = [] := by
  have nobody : (s.pitches.filter fun (x : Nat × Pitch) => x.2.tdi == .locked || x.2.tdi == .run) = [] :=
    List.filter_eq_nil_iff.2 fun x hx => by simp [h x hx]
  simp only [State.guardedPitches, nobody, List.map_nil]

/-! ### DEBUG_HALT, its step and its resume (R486) -/

section wake
variable (s : State) (core bit : Nat)
/-- A wake changes the core and, out of Idle, the power state alone. -/
theorem State.wake_eq : ∃ cs p, s.wake core bit = { s with cores := cs, power := p } := by
  unfold State.wake State.leaveIdle
  dsimp only
  split
  · split <;> exact ⟨_, _, rfl⟩
  · split <;> exact ⟨_, _, rfl⟩
@[simp] theorem State.wake_groups : (s.wake core bit).groups = s.groups := by obtain ⟨cs, p, h⟩ := s.wake_eq core bit; rw [h]
@[simp] theorem State.pairOf_wake (wg : Nat) : (s.wake core bit).pairOf wg = s.pairOf wg := by
  obtain ⟨cs, p, h⟩ := s.wake_eq core bit; rw [h]; rfl
end wake

/-- The arguments of a DEBUG_HALT are in order. -/
def State.haltArgs (s : State) : Prop :=
  (s.arg 0).toNat < 2 ^ 15 ∧ (s.arg 1 = 0 ∧ s.arg 2 = 0) ∧ field (s.arg 0) 0 7 < 96 ∧ field (s.arg 0) 7 6 < 48
/-- The group slot that a DEBUG_HALT names. -/
def State.haltGid (s : State) : Nat := gid (field (s.arg 0) 0 7) (field (s.arg 0) 7 6)

theorem State.get?_of_groupOf {s : State} {u gi j : Nat} {h : Group} (found : s.groupOf u gi = some (j, h)) :
    s.groups.get? j = some h := by
  unfold State.groupOf at found
  split at found
  · split at found
    · obtain ⟨g, hg, same⟩ := Option.map_eq_some_iff.1 found
      cases same
      exact hg
    · cases found
  · cases found

section halt
variable {s : State} {op : Nat} {act : Group → Group} (args : s.haltArgs)
include args

theorem State.haltArgs_legal :
    ¬ (2 ^ 15 ≤ (s.arg 0).toNat ∨ s.arg 1 ≠ 0 ∨ s.arg 2 ≠ 0 ∨ 96 ≤ field (s.arg 0) 0 7 ∨ 48 ≤ field (s.arg 0) 7 6) := by
  obtain ⟨word, ⟨h1, h2⟩, core, slot⟩ := args
  simp only [h1, h2, ne_eq, not_true_eq_false, false_or, not_or, Nat.not_le]
  exact ⟨word, core, slot⟩
theorem State.debugGroup_denied (low : s.debugLevel (s.coreOwner (field (s.arg 0) 0 7)) < 2) : s.debugGroup op act = s.ends 0x1A1 := by
  unfold State.debugGroup
  dsimp only
  rw [if_neg (State.haltArgs_legal args), if_pos low]

variable (high : 2 ≤ s.debugLevel (s.coreOwner (field (s.arg 0) 0 7)))
include high

theorem State.debugGroup_absent (absent : s.groups.get? s.haltGid = none) : s.debugGroup op act = s.ends 2 := by
  unfold State.haltGid at absent
  unfold State.debugGroup
  dsimp only
  rw [if_neg (State.haltArgs_legal args), if_neg (Nat.not_lt.2 high)]
  simp only [absent]

variable {g : Group} (hg : s.groups.get? s.haltGid = some g)
include hg

theorem State.debugGroup_alone (alone : s.pairOf g.wg = none) :
    s.debugGroup op act = ((s.wake (field (s.arg 0) 0 7) wakeDebug).setGroup s.haltGid (act g)).ends 0 := by
  unfold State.haltGid at hg ⊢
  unfold State.debugGroup
  dsimp only
  rw [if_neg (State.haltArgs_legal args), if_neg (Nat.not_lt.2 high)]
  simp only [hg, State.pairOf_wake, alone]

variable {k : Nat} {p : Pair} {lead : Bool} (pair : s.pairOf g.wg = some (k, p, lead))
include pair

/-- A halt or a step of a pair's group waits for the pair's next checkpoint. -/
theorem State.debugGroup_ask (ask : op ≠ 2) :
    s.debugGroup op act =
      (((s.wake (field (s.arg 0) 0 7) wakeDebug).setPair k { p with dbg := p.dbg ++ [(g.gi, op)] }).askCkpt k).ends 0 := by
  unfold State.haltGid at hg
  unfold State.debugGroup
  dsimp only
  rw [if_neg (State.haltArgs_legal args), if_neg (Nat.not_lt.2 high)]
  simp only [hg, State.pairOf_wake, pair, if_neg ask]
/-- A resume acts on both roles' groups at once; the partner's act leaves the group resumed where both are one. -/
theorem State.debugGroup_resume (again : act (act g) = act g) :
    ∃ t : State, s.debugGroup 2 act = t.ends 0 ∧ t.pairs.get? k = some { p with dbg := p.dbg.filter fun x => x.1 ≠ g.gi } ∧
      t.groups.get? s.haltGid = some (act g) := by
  unfold State.haltGid at hg ⊢
  unfold State.debugGroup
  dsimp only
  rw [if_neg (State.haltArgs_legal args), if_neg (Nat.not_lt.2 high)]
  simp only [hg, State.pairOf_wake, pair, if_true]
  refine ⟨_, rfl, ?_, ?_⟩
  · rw [State.setPair_pairs, Tab.get?_set_self]
    simp only [ne_eq, decide_not]
    rfl
  · rw [State.setPair_groups]
    split
    · next j h partner =>
      have found := State.get?_of_groupOf partner
      rw [State.get?_setGroup] at found ⊢
      by_cases here : gid (field (s.arg 0) 0 7) (field (s.arg 0) 7 6) = j
      · have same : act g = h := by simpa [here] using found
        simp [here, ← same, again]
      · rw [if_neg (Ne.symm here), State.get?_setGroup, if_pos rfl]
    · rw [State.get?_setGroup, if_pos rfl]
end halt

/-- What a DEBUG_HALT command of any request does (R486): refused below level 2 or where no group stands; a group without a partner
is acted on at once, as is a pair's at a resume; a pair's halt or step is noted for its next checkpoint. -/
theorem State.debugCmd_cases {s : State} {blk : W64} {i : Instr} {op : Nat} {act : Group → Group} {g : Group}
    (run : exec i s = s.debugCmd blk op act) (again : op = 2 → act (act g) = act g)
    (on : s.onPort blk 24 = true) (request : field (s.arg 0) 13 2 = op) (args : s.haltArgs) :
    (s.debugLevel (s.coreOwner (field (s.arg 0) 0 7)) < 2 → exec i s = .next (s.ends 0x1A1)) ∧
    (2 ≤ s.debugLevel (s.coreOwner (field (s.arg 0) 0 7)) → s.groups.get? s.haltGid = some g → s.pairOf g.wg = none →
      ∃ t : State, exec i s = .next (t.ends 0) ∧ t.groups.get? s.haltGid = some (act g) ∧
        ∀ k, k ≠ s.haltGid → t.groups.get? k = s.groups.get? k) ∧
    (2 ≤ s.debugLevel (s.coreOwner (field (s.arg 0) 0 7)) → s.groups.get? s.haltGid = none → exec i s = .next (s.ends 2)) ∧
    ∀ k p lead, 2 ≤ s.debugLevel (s.coreOwner (field (s.arg 0) 0 7)) → s.groups.get? s.haltGid = some g →
      s.pairOf g.wg = some (k, p, lead) →
      ∃ t : State, exec i s = .next (t.ends 0) ∧ t.pairs.get? k = some (if op = 2 then { p with dbg := p.dbg.filter fun x => x.1 ≠ g.gi }
        else { p with dbg := p.dbg ++ [(g.gi, op)], ckpt := true }) ∧ t.groups.get? s.haltGid = some (if op = 2 then act g else g) := by
  have runs : exec i s = .next (s.debugGroup op act) := by rw [run, State.debugCmd, if_pos request, State.command_on on]
  rw [runs]
  refine ⟨fun low => ?_, fun high hg alone => ?_, fun high absent => ?_, fun k p lead high hg pair => ?_⟩
  · rw [State.debugGroup_denied args low]
  · refine ⟨_, by rw [State.debugGroup_alone args high hg alone], ?_, fun k other => ?_⟩
    · rw [State.get?_setGroup, if_pos rfl]
    · rw [State.get?_setGroup, if_neg (Ne.symm other), State.wake_groups]
  · rw [State.debugGroup_absent args high absent]
  · by_cases resume : op = 2
    · subst resume
      obtain ⟨t, ran, pairs, group⟩ := State.debugGroup_resume args high hg pair (again rfl)
      exact ⟨t, by rw [ran], pairs, group⟩
    · refine ⟨_, by rw [State.debugGroup_ask args high hg pair resume], ?_, ?_⟩
      · simp [State.askCkpt, Tab.get?_modify, resume]
      · simp [State.askCkpt, hg, resume]

/-! ### POWER_SET (R477, R487, R488) -/

theorem State.leaveIdle_eq (s : State) : s.leaveIdle = { s with power := if s.power = .idle then .run else s.power } := by
  unfold State.leaveIdle
  split <;> simp
section powerSet
variable {s : State} {blk : W64} (on : s.onPort blk 25 = true)
include on

theorem exec_powerSetRun (request : (s.arg 0).toNat % 4 = 0) :
    exec (.powerSetRun blk) s = .next (if s.arg 0 = 0 ∧ s.arg 1 = 0 ∧ s.arg 2 = 0 then s.leaveIdle.ends 0 else s.ends 2) := by
  change execPowerSetRun blk s = _
  rw [execPowerSetRun, if_neg (Classical.not_not.2 request), State.command_on on]
  by_cases lone : s.arg 0 = 0 ∧ s.arg 1 = 0 ∧ s.arg 2 = 0
  · simp [lone]
  · rw [if_neg lone, if_pos (by simpa only [Classical.not_and_iff_not_or_not] using lone)]
theorem exec_powerSetStandby (request : (s.arg 0).toNat % 4 = 2) : exec (.powerSetStandby blk) s = .next s.standby := by
  change execPowerSetStandby blk s = _
  rw [execPowerSetStandby, if_neg (Classical.not_not.2 request), State.command_on on]
end powerSet

theorem State.standby_refused {s : State} (first : s.port.wait ≠ .standby)
    (bad : s.arg 0 ≠ 2 ∨ ¬ (s.arg 1 = 0 ∧ s.arg 2 = 0) ∨ ∃ x ∈ s.pitches, x.2.tdi = .locked ∨ x.2.tdi = .run) :
    s.standby = s.ends 2 := by
  have wrong : s.arg 0 ≠ 2 ∨ s.arg 1 ≠ 0 ∨ s.arg 2 ≠ 0 ∨ s.pitches.any (fun x => x.2.tdi == .locked || x.2.tdi == .run) := by
    rcases bad with h | h | ⟨x, hx, h⟩
    · exact .inl h
    · rcases Classical.not_and_iff_not_or_not.1 h with h | h
      · exact .inr (.inl h)
      · exact .inr (.inr (.inl h))
    · exact .inr (.inr (.inr (List.any_eq_true.2 ⟨x, hx, by simpa using h⟩)))
  unfold State.standby
  dsimp only
  rw [if_neg first, if_pos wrong]

/-! ### Entry to Standby (R488) -/

/-- What entry to Standby leaves until its end: the ports and a held WAKE. -/
def State.outside (s : State) : Tab Port × Bool := (s.ports, s.wakeHeld)

section outside
variable (s : State)

theorem State.outside_mscForget : s.mscForget.outside = s.outside := by
  refine foldl_keeps (p := State.outside) (fun s line => ?_) _ s
  unfold State.mscEvict
  split <;> rfl
theorem State.outside_failAccess (id : Nat) (va : W64) (cause : BitVec 8) : (s.failAccess id va cause).outside = s.outside := by
  unfold State.failAccess
  split
  · split <;> rfl
  · rfl
theorem State.outside_fail1 (x : Waiter) (kind : Nat) (va : W64) (cause : BitVec 8) (extra : W64) :
    (s.fail1 x kind va cause extra).outside = s.outside := by
  cases x with
  | access id => exact s.outside_failAccess id va cause
  | drain core =>
    unfold State.fail1
    dsimp only
    split <;> rfl
  | group core slot => rfl
  | copy id => rfl
  | queue hw => rfl
  | none => rfl
theorem State.outside_abortPort (port : Nat) : (s.abortPort port).outside = s.outside := by
  unfold State.abortPort
  split
  · rfl
  · exact foldl_keeps (p := State.outside)
      (fun s (r : AtsReq) => foldl_keeps (p := State.outside) (fun s x => s.outside_fail1 ..) r.waiters s) _ _
theorem State.ports_downPort (port : Nat) : (s.downPort port).ports = s.ports.modify port fun p => { p with width := 0 } :=
  congrArg (·.1) (State.outside_abortPort _ port)
theorem State.wakeHeld_downPort (port : Nat) : (s.downPort port).wakeHeld = s.wakeHeld :=
  congrArg (·.2) (State.outside_abortPort _ port)
/-- Both ports are down behind the two steps that take them down. -/
theorem State.downPorts_width (k : Nat) (hk : k < 2) (x : Port) (hx : ((s.downPort 0).downPort 1).ports.get? k = some x) : x.width = 0 := by
  simp only [State.ports_downPort, Tab.get?_modify] at hx
  by_cases one : 1 = k
  · rw [if_pos one] at hx
    obtain ⟨y, _, rfl⟩ := Option.map_eq_some_iff.1 hx
    rfl
  · rw [if_neg one, if_pos (by omega)] at hx
    obtain ⟨y, _, rfl⟩ := Option.map_eq_some_iff.1 hx
    rfl
end outside

theorem State.quiet_unmapSlot {s : State} (quiet : s.quiet = true) (k : Nat) : (s.unmapSlot k).quiet = true := by
  unfold State.unmapSlot
  split
  · exact quiet
  · simp only [State.quiet, Bool.and_eq_true] at quiet ⊢
    obtain ⟨⟨slots, wgs⟩, copies⟩ := quiet
    exact ⟨⟨List.all_eq_true.2 fun x hx => List.all_eq_true.1 slots x (List.mem_filter.1 hx).1, wgs⟩, copies⟩
theorem State.wakeHeld_unmapSlot (s : State) (k : Nat) : (s.unmapSlot k).wakeHeld = s.wakeHeld := by
  unfold State.unmapSlot
  split <;> rfl
/-- A quiet machine pre-empts nothing. -/
theorem State.no_resident {s : State} (quiet : s.quiet = true) : (s.wgs.filter fun (x : Nat × Wg) => x.2.phase == .resident) = [] := by
  simp only [State.quiet, Bool.and_eq_true] at quiet
  exact List.filter_eq_nil_iff.2 fun x hx => by simpa using List.all_eq_true.1 quiet.1.2 x hx

/-- The end of the entry to Standby. -/
def State.toStandby (s : State) : State :=
  { ((s.mscForget.downPort 0).downPort 1).ends 0 with power := .standby, window := false }
/-- The entry to Standby at an attempt: a machine that is quiet enters, and leaves at once for a WAKE held. -/
def State.tryStandby (s : State) : State :=
  if s.quiet then (if (((s.mscForget.downPort 0).downPort 1).ends 0).wakeHeld then s.toStandby.leaveStandby else s.toStandby) else s
/-- A machine asked for Standby that has unmapped the queues of its idle slots. -/
def State.unmapIdle (s : State) : State :=
  (s.slots.filter fun (x : Nat × QSlot) => !x.2.running).foldl (fun s x => s.unmapSlot x.1) { s with port := { s.port with wait := .standby } }

theorem State.standby_first {s : State} (first : s.port.wait ≠ .standby)
    (legal : ¬ (s.arg 0 ≠ 2 ∨ s.arg 1 ≠ 0 ∨ s.arg 2 ≠ 0 ∨ s.pitches.any (fun x => x.2.tdi == .locked || x.2.tdi == .run))) :
    s.standby = ((s.unmapIdle.wgs.filter fun (x : Nat × Wg) => x.2.phase == .resident).foldl (fun s x => s.askPreempt x.1)
      s.unmapIdle).tryStandby := by
  unfold State.standby
  extract_lets go port s1 s2 s3
  have tries : go = State.tryStandby := by
    funext u
    simp only [go, State.tryStandby, State.toStandby]
  rw [if_neg first, if_neg legal, tries]
  rfl
theorem State.wakeHeld_downEnds (s : State) : (((s.mscForget.downPort 0).downPort 1).ends 0).wakeHeld = s.wakeHeld := by
  rw [State.ends_wakeHeld, State.wakeHeld_downPort, State.wakeHeld_downPort]
  exact congrArg (·.2) s.outside_mscForget
theorem State.unmapIdle_quiet {s : State} (quiet : s.quiet = true) (awake : s.wakeHeld = false) :
    s.unmapIdle.quiet = true ∧ s.unmapIdle.wakeHeld = false :=
  List.foldlRecOn (motive := fun t : State => t.quiet = true ∧ t.wakeHeld = false) _ _ ⟨quiet, awake⟩ fun t ht (x : Nat × QSlot) _ =>
    ⟨State.quiet_unmapSlot ht.1 x.1, (t.wakeHeld_unmapSlot x.1).trans ht.2⟩
/-- A quiet machine whose pitches are not guarded enters Standby at once. -/
theorem State.standby_enters {s : State} (request : s.arg 0 = 2) (lone : s.arg 1 = 0 ∧ s.arg 2 = 0) (idle : s.port.wait = .none)
    (unguarded : ∀ x ∈ s.pitches, x.2.tdi ≠ .locked ∧ x.2.tdi ≠ .run) (quiet : s.quiet = true) (awake : s.wakeHeld = false) :
    s.standby = s.unmapIdle.toStandby := by
  have legal : ¬ (s.arg 0 ≠ 2 ∨ s.arg 1 ≠ 0 ∨ s.arg 2 ≠ 0 ∨ s.pitches.any (fun x => x.2.tdi == .locked || x.2.tdi == .run)) := by
    simp only [request, lone, ne_eq, not_true_eq_false, false_or, List.any_eq_true, not_exists, not_and]
    intro x hx
    simp [unguarded x hx]
  obtain ⟨still, wake⟩ := State.unmapIdle_quiet quiet awake
  rw [State.standby_first (by simp [idle]) legal, State.no_resident still, List.foldl_nil, State.tryStandby, if_pos still,
    State.wakeHeld_downEnds, wake, if_neg Bool.false_ne_true]
theorem State.toStandby_spec (s : State) :
    s.toStandby.power = .standby ∧ s.toStandby.window = false ∧ s.toStandby.port.busy = false ∧
      ∀ k < 2, ∀ x, s.toStandby.ports.get? k = some x → x.width = 0 := by
  unfold State.toStandby
  generalize s.mscForget = u
  refine ⟨rfl, rfl, ?_, fun k hk x hx => u.downPorts_width k hk x ?_⟩
  · simp only [State.ends_port]
  · simpa only [State.ends_ports] using hx

/-! ### The exit from Standby (R489) -/

/-- What the queue scheduler leaves: the pitches, the power state and a held WAKE. -/
def State.settled (s : State) : Tab Pitch × Power × Bool := (s.pitches, s.power, s.wakeHeld)
theorem State.settled_qSchedule (s : State) : s.qSchedule.settled = s.settled := by
  unfold State.qSchedule
  extract_lets s1 s2
  have unmapped : s1.settled = s.settled := foldl_keeps (p := State.settled)
    (fun t k => by unfold State.unmapSlot; split <;> rfl) _ s
  have filled : s2.settled = s1.settled := foldl_keeps (p := State.settled)
    (fun t k => by
      unfold State.fillSlot
      split
      · rfl
      · split <;> rfl) _ s1
  refine (foldl_keeps (p := State.settled) (fun t q => ?_) _ s2).trans (filled.trans unmapped)
  unfold State.markFor
  dsimp only
  split
  · rfl
  · split <;> rfl
/-- Where no pitch is configured, nothing is to be restored. -/
theorem State.leaveStandby_bare {s : State} (bare : s.pitches = []) : s.leaveStandby.power = .run ∧ s.leaveStandby.wakeHeld = false := by
  have kept := State.settled_qSchedule { s with power := .run, wakeHeld := false }
  unfold State.leaveStandby
  dsimp only
  generalize State.qSchedule _ = t at kept ⊢
  obtain ⟨pitches, power, wake⟩ : t.pitches = s.pitches ∧ t.power = .run ∧ t.wakeHeld = false := by
    simpa only [State.settled, Prod.mk.injEq] using kept
  rw [pitches, bare]
  exact ⟨power, wake⟩
theorem exec_wakeInput (s : State) : exec .wakeInput s =
    .next (if s.power = .standby then s.leaveStandby else if s.port.wait = .standby then { s with wakeHeld := true } else s) := by
  change execWakeInput s = _
  unfold execWakeInput
  split
  · rfl
  · split <;> rfl

/-! ### What leaves the memory-side cache -/

section mscDrop
variable (s : State) {line x : Nat} (away : x / 128 ≠ line)
include away

/-- A line that leaves changes bytes of its own alone. -/
theorem State.byte_mscEvict_away : (s.mscEvict line).byte x = s.byte x := by
  unfold State.mscEvict
  split
  · rfl
  · refine Tab.getD_foldl_put _ _ fun k hk => ?_
    have small : k < 128 := by
      split at hk
      · cases hk
      · exact List.mem_range.1 (List.mem_filter.1 hk).1
    omega
theorem State.byte_mscDrop_away (keep : Nat → Bool) : (s.mscDrop line keep).byte x = s.byte x := by
  unfold State.mscDrop
  split
  · rfl
  · refine (Tab.getD_foldl_put _ _ fun k hk => ?_).trans (s.byte_mscEvict_away away)
    have small : k < 128 := List.mem_range.1 (List.mem_filter.1 hk).1
    omega
end mscDrop

/-- What lies beyond a port has a physical address (R380). -/
theorem lt_of_port_isSome {a : Nat} (h : (targetOf a).port.isSome = true) : a < 2 ^ 48 := by
  refine Decidable.byContradiction fun high => ?_
  have nowhere : targetOf a = .none := by
    unfold targetOf
    rw [if_neg (by omega), if_neg (by omega), if_neg (by omega), if_neg (by omega), if_neg (by omega)]
  simp [nowhere, Target.port] at h

/-! ### Loss of power (R25, R487) -/

/-- The fuses that the boot program reads (R27). -/
def State.fuses (s : State) : List Byte × Nat := (s.keyHash, s.minSvn)
/-- The lines of the memory-side cache that hold memory beyond the links. -/
def State.farLines (s : State) : List Nat := (s.msc.map (·.1)).filter fun line => (targetOf (line * 128)).port.isSome
/-- Whether a byte of the one memory outlasts a loss of power: it lies beyond the links, in the ROM or in flash. -/
def outlasts (a : Nat) : Bool :=
  (decide (0x400000000000 ≤ a) && decide (a < 2 ^ 48)) || (decide (polKey 0 ≤ a) && decide (a < polKey 0x40000))
    || (decide (polKey 0x10000000 ≤ a) && decide (a < polKey 0x50000000))
theorem State.fuses_mscDrop (s : State) (line : Nat) (keep : Nat → Bool) : (s.mscDrop line keep).fuses = s.fuses := by
  unfold State.mscDrop State.mscEvict
  split
  · rfl
  · dsimp only
    split <;> rfl
/-- The machine as its slices forget the lines beyond the links. -/
def State.forgetFar (s : State) : State := s.farLines.foldl (fun s line => s.mscDrop line fun _ => false) s
theorem State.fuses_forgetFar (s : State) : s.forgetFar.fuses = s.fuses := foldl_keeps (p := State.fuses) (fun s _ => s.fuses_mscDrop ..) _ s
theorem State.byte_forgetFar (s : State) {x : Nat} (high : 2 ^ 48 ≤ x) : s.forgetFar.byte x = s.byte x := by
  have far (line : Nat) (h : line ∈ s.farLines) : x / 128 ≠ line := by
    have low := lt_of_port_isSome (List.mem_filter.1 h).2
    omega
  exact List.foldlRecOn (motive := fun t : State => t.byte x = s.byte x) _ _ rfl fun t ht line hl =>
    (t.byte_mscDrop_away (far line hl) _).trans ht
theorem State.byte_powerOff (s : State) (a : Nat) : s.powerOff.byte a = if outlasts a then s.forgetFar.byte a else 0 := by
  have mem : s.powerOff.mem = s.forgetFar.mem.filter fun c => outlasts c.1 := rfl
  simp only [State.byte, Tab.getD, mem]
  rw [Tab.get?_filter_key]
  split <;> rfl
theorem State.fuses_powerOff (s : State) : s.powerOff.fuses = s.fuses := s.fuses_forgetFar
/-- The DRAM is lost (R487). -/
theorem State.byte_powerOff_dram (s : State) {a : Nat} (h : a < 2 ^ 37) : s.powerOff.byte a = 0 := by
  rw [State.byte_powerOff, if_neg]
  simp only [outlasts, Bool.or_eq_true, Bool.and_eq_true, decide_eq_true_eq]
  unfold polKey
  omega
/-- Flash is kept (R487). -/
theorem State.byte_powerOff_flash (s : State) {a : Nat} (lo : 0x10000000 ≤ a) (hi : a < 0x50000000) :
    s.powerOff.byte (polKey a) = s.byte (polKey a) := by
  rw [State.byte_powerOff, if_pos, State.byte_forgetFar]
  · simp only [polKey]; omega
  · simp only [outlasts, Bool.or_eq_true, Bool.and_eq_true, decide_eq_true_eq]
    unfold polKey
    omega

/-! ### The statement -/

section exec
variable {s : State} {blk : W64}
theorem exec_debugSet (on : s.onPort blk 21 = true) : exec (.debugSet blk) s = .next s.debugSet := State.command_on on _
theorem exec_debugChallenge (on : s.onPort blk 22 = true) : exec (.debugChallenge blk) s = .next s.debugChallenge := State.command_on on _
theorem exec_debugToken (on : s.onPort blk 23 = true) : exec (.debugToken blk) s = .next s.debugTokenCmd := State.command_on on _
theorem exec_debugHalt : exec (.debugHalt blk) s = s.debugCmd blk 0 fun g => { g with halted := true, stepReq := false } := rfl
theorem exec_debugStep : exec (.debugStep blk) s = s.debugCmd blk 1 fun g => { g with halted := true, stepReq := g.atBoundary } := rfl
theorem exec_debugResume : exec (.debugResume blk) s = s.debugCmd blk 2 fun g => { g with halted := false, stepReq := false } := rfl
theorem State.busy_of_onPort {op : Nat} (on : s.onPort blk op = true) : s.port.busy = true := by
  simp only [State.onPort, Bool.and_eq_true] at on
  exact on.1.1
end exec

/-- Settles O47: each command by what it does under its arguments, entry to Error by what it leaves, entry to Standby by what a quiet
machine does, loss of power byte by byte. -/
theorem debugAndPower : Obligations.DebugAndPower := by
  intro s blk gives lone
  refine ⟨?debugSet, fun unknown on _ => ?unknown, ?challenge, ?token, ?halts, fun on ⟨request, bad⟩ => ?runRefused,
    fun on ⟨request, first, bad⟩ => ?standbyRefused, fun on args => ?run, fun on request args idle unguarded quiet awake => ?standby,
    fun asleep => ⟨?wake, State.leaveStandby_bare⟩,
    fun up waits => ?wakeHeld, fun up idle => ?wakeIdle, fun off => ?good, ?loss, fun half => rfl⟩
  case debugSet =>
    intro p hp reads
    refine ⟨fun on bad => ?_, fun on ⟨good, guarded⟩ => ?_, fun on ⟨good, opened⟩ => ?_⟩
    · rw [exec_debugSet on, State.debugSet_some hp, if_neg bad]
    · rw [exec_debugSet on, State.debugSet_some hp, if_pos good, if_neg guarded]
    · rw [exec_debugSet on, State.debugSet_some hp, if_pos good, if_pos opened]
  case unknown => rw [exec_debugSet on, State.debugSet_none unknown]
  case challenge =>
    intro a legal bs
    refine ⟨fun on bad => ?_, fun on good => ?_⟩
    · rw [exec_debugChallenge on, State.debugChallenge_eq, if_neg bad]
    · rw [exec_debugChallenge on, State.debugChallenge_eq, if_pos good]
  case token =>
    intro a clean legal t
    refine ⟨fun on ⟨idle, bad⟩ => ?_, fun on ⟨args, idle⟩ ok sorted => ?_, fun on ⟨⟨args, idle⟩, bad⟩ => ?_,
      fun on ⟨⟨args, idle⟩, ok, unguarded⟩ => ?_⟩
    · rw [exec_debugToken on, State.debugTokenCmd_badArgs idle bad]
    · rw [exec_debugToken on, State.debugTokenCmd_accepted idle args ok]
      exact ⟨_, rfl, State.awaitEnds_tokenTaken (State.busy_of_onPort on) sorted⟩
    · rw [exec_debugToken on, State.debugTokenCmd_refused idle args bad]
    · rw [exec_debugToken on, State.debugTokenCmd_accepted idle args ok, State.tokenTaken, State.guardedPitches_nil unguarded]
      rfl
  case halts =>
    intro g core slot halts
    refine ⟨fun on request word lone hc hs => ?_, fun on request word lone hc hs => ?_, fun on request word lone hc hs => ?_⟩
    · exact State.debugCmd_cases exec_debugHalt (by simp) on request ⟨word, lone, hc, hs⟩
    · exact State.debugCmd_cases exec_debugStep (by simp) on request ⟨word, lone, hc, hs⟩
    · exact State.debugCmd_cases exec_debugResume (fun _ => rfl) on request ⟨word, lone, hc, hs⟩
  case runRefused =>
    rw [exec_powerSetRun on request, if_neg]
    rintro ⟨zero, args⟩
    exact bad.elim (· zero) (· args)
  case standbyRefused => rw [exec_powerSetStandby on request, State.standby_refused first bad]
  case run => rw [exec_powerSetRun on (by simp [args.1]), if_pos args, State.leaveIdle_eq]
  case standby =>
    rw [exec_powerSetStandby on (by simp [request]), State.standby_enters request args idle unguarded quiet awake]
    exact ⟨_, rfl, State.toStandby_spec _⟩
  case wake => rw [exec_wakeInput, if_pos asleep]
  case wakeHeld => rw [exec_wakeInput, if_neg up, if_pos waits]
  case wakeIdle => rw [exec_wakeInput, if_neg up, if_neg idle]
  case good => exact if_pos off
  case loss =>
    have fuses : s.powerOff.keyHash = s.keyHash ∧ s.powerOff.minSvn = s.minSvn := Prod.mk.injEq .. ▸ s.fuses_powerOff
    exact ⟨s.powerOff, rfl, rfl, rfl, rfl, rfl, fuses.2, fuses.1, fun a h => s.byte_powerOff_dram h,
      fun a lo hi => s.byte_powerOff_flash lo hi⟩

end Sys2Proof.Machine
end

section
/-! PROOF. Number formats (04 R95, R97): the finite codes of a format as multiples of its smallest subnormal, rising with the code;
the two neighbouring codes between which a fraction lies and how each mode chooses between them; NaN operands; and Rounding from these.
All values are natural numbers at a common scale, so that comparing fractions is comparing products. -/

namespace Sys2Proof

/-! ### Powers of two and scaled fractions -/

theorem ratPow_pos (m : Nat) (e : Int) : 0 < (ratPow m e).2 := by
  cases e with
  | ofNat k => exact Nat.one_pos
  | negSucc k => exact Nat.two_pow_pos _
/-- The fraction `m · 2^e` for an exponent written as a difference of naturals. -/
theorem ratPow_spec (m : Nat) {e : Int} {i j : Nat} (he : e = i - j) : (ratPow m e).1 * 2 ^ j = m * 2 ^ i * (ratPow m e).2 := by
  cases e with
  | ofNat k =>
    obtain rfl : i = k + j := by rw [Int.ofNat_eq_natCast] at he; omega
    rw [ratPow, Nat.mul_one, Nat.mul_assoc, ← Nat.pow_add]
  | negSucc k =>
    obtain rfl : j = i + (k + 1) := by omega
    rw [ratPow, Nat.mul_assoc, ← Nat.pow_add]
/-- The test by which the model compares a fraction with a power of two. -/
theorem lt_ratPow_iff (n d : Nat) {e : Int} {i j : Nat} (he : e = i - j) :
    n * (ratPow 1 e).2 < d * (ratPow 1 e).1 ↔ n * 2 ^ j < 2 ^ i * d := by
  have spec := ratPow_spec 1 he
  have right : d * (ratPow 1 e).1 * 2 ^ j = 2 ^ i * d * (ratPow 1 e).2 := by rw [Nat.mul_assoc d, spec, Nat.one_mul]; ac_rfl
  rw [← Nat.mul_lt_mul_right (Nat.two_pow_pos j), right, Nat.mul_right_comm, Nat.mul_lt_mul_right (ratPow_pos 1 e)]
theorem ratLog2_eq (n d : Nat) : ratLog2 n d =
    if n * (ratPow 1 (n.log2 - d.log2)).2 < d * (ratPow 1 (n.log2 - d.log2)).1 then (n.log2 : Int) - d.log2 - 1 else n.log2 - d.log2 := rfl
/-- The logarithms of numerator and denominator name the binade of a fraction up to one. -/
theorem log2_sub_bounds {n d i j : Nat} (hn : 0 < n) (hd : 0 < d) (hij : (n.log2 : Int) - d.log2 = i - j) :
    2 ^ i * d < n * 2 ^ (j + 1) ∧ n * 2 ^ j < 2 ^ (i + 1) * d := by
  have dlo := Nat.log2_self_le (Nat.ne_of_gt hd)
  have dhi := Nat.lt_log2_self (n := d)
  have nlo := Nat.log2_self_le (Nat.ne_of_gt hn)
  have nhi := Nat.lt_log2_self (n := n)
  constructor
  · calc 2 ^ i * d < 2 ^ i * 2 ^ (d.log2 + 1) := Nat.mul_lt_mul_of_pos_left dhi (Nat.two_pow_pos i)
      _ = 2 ^ n.log2 * 2 ^ (j + 1) := by rw [← Nat.pow_add, ← Nat.pow_add]; congr 1; omega
      _ ≤ n * 2 ^ (j + 1) := Nat.mul_le_mul_right _ nlo
  · calc n * 2 ^ j < 2 ^ (n.log2 + 1) * 2 ^ j := Nat.mul_lt_mul_of_pos_right nhi (Nat.two_pow_pos j)
      _ = 2 ^ (i + 1) * 2 ^ d.log2 := by rw [← Nat.pow_add, ← Nat.pow_add]; congr 1; omega
      _ ≤ 2 ^ (i + 1) * d := Nat.mul_le_mul_left _ dlo
theorem ratLog2_spec {n d i j : Nat} (hn : 0 < n) (hd : 0 < d) (hij : ratLog2 n d = i - j) :
    2 ^ i * d ≤ n * 2 ^ j ∧ n * 2 ^ j < 2 ^ (i + 1) * d := by
  rw [ratLog2_eq] at hij
  split at hij
  · next less =>
    have shifted : (n.log2 : Int) - d.log2 = (i + 1 : Nat) - j := by omega
    have lower := (log2_sub_bounds hn hd shifted).1
    rw [Nat.pow_succ, Nat.pow_succ, Nat.mul_right_comm, ← Nat.mul_assoc] at lower
    exact ⟨Nat.le_of_lt (Nat.lt_of_mul_lt_mul_right lower), (lt_ratPow_iff n d shifted).1 less⟩
  · next more =>
    exact ⟨Nat.le_of_not_lt (mt (lt_ratPow_iff n d hij).2 more), (log2_sub_bounds hn hd hij).2⟩
/-- A scaled division leaves a quotient and a remainder of the scaled fraction. -/
theorem scaledDiv_spec (n : Nat) {d : Nat} (hd : 0 < d) (s : Int) {k r q : Nat} (run : scaledDiv n d s = (k, r, q)) :
    q = d * (ratPow 1 s).2 ∧ r < q ∧ n * (ratPow 1 s).1 = k * q + r := by
  obtain ⟨rfl, rfl, rfl⟩ : n * (ratPow 1 s).1 / (d * (ratPow 1 s).2) = k ∧ n * (ratPow 1 s).1 % (d * (ratPow 1 s).2) = r ∧
      d * (ratPow 1 s).2 = q := by
    simpa only [scaledDiv, Prod.mk.injEq] using run
  exact ⟨rfl, Nat.mod_lt _ (Nat.mul_pos hd (ratPow_pos 1 s)), (Nat.div_add_mod' ..).symm⟩

/-! ### The finite codes of a format in units of its smallest subnormal (R84) -/

/-- The smallest subnormal of a format is `1 / 2^depth`. -/
def Fmt.depth (f : Fmt) : Nat := f.bias + f.mbits - 1
/-- The magnitude of a code in smallest subnormals, with no bound on the exponent. -/
def Fmt.units (f : Fmt) (c : Nat) : Nat :=
  if c / 2 ^ f.mbits = 0 then c % 2 ^ f.mbits else (2 ^ f.mbits + c % 2 ^ f.mbits) * 2 ^ (c / 2 ^ f.mbits - 1)

section units
variable (f : Fmt)

theorem Fmt.units_subnormal {c : Nat} (h : c < 2 ^ f.mbits) : f.units c = c := by
  rw [Fmt.units, if_pos (Nat.div_eq_of_lt h), Nat.mod_eq_of_lt h]
theorem Fmt.units_normal (E : Nat) {j : Nat} (h : j < 2 ^ f.mbits) : f.units ((E + 1) * 2 ^ f.mbits + j) = (2 ^ f.mbits + j) * 2 ^ E := by
  have quot : ((E + 1) * 2 ^ f.mbits + j) / 2 ^ f.mbits = E + 1 :=
    Nat.div_eq_of_lt_le (Nat.le_add_right ..) (by rw [Nat.succ_mul (E + 1)]; omega)
  rw [Fmt.units, quot, if_neg (Nat.succ_ne_zero E), Nat.mul_add_mod_self_right, Nat.mod_eq_of_lt h, Nat.add_sub_cancel]
/-- A significand at a scale, the one that carries into the next binade with it. -/
theorem Fmt.units_scaled {E k : Nat} (top : k ≤ 2 ^ (f.mbits + 1)) (normal : E = 0 ∨ 2 ^ f.mbits ≤ k) :
    f.units (E * 2 ^ f.mbits + k) = k * 2 ^ E := by
  rw [Nat.pow_succ] at top
  by_cases sub : k < 2 ^ f.mbits
  · obtain rfl : E = 0 := normal.resolve_right (by omega)
    rw [Nat.zero_mul, Nat.zero_add, f.units_subnormal sub, Nat.pow_zero, Nat.mul_one]
  obtain ⟨j, rfl⟩ := Nat.exists_eq_add_of_le (Nat.le_of_not_lt sub)
  rw [← Nat.add_assoc, ← Nat.succ_mul]
  by_cases carry : j < 2 ^ f.mbits
  · exact f.units_normal E carry
  · obtain rfl : j = 2 ^ f.mbits := by omega
    have next := f.units_normal (E + 1) (Nat.two_pow_pos f.mbits)
    rw [Nat.add_zero, Nat.succ_mul, Nat.add_zero] at next
    rw [next, Nat.add_zero, Nat.pow_succ 2 E, ← Nat.mul_two, Nat.mul_assoc, Nat.mul_comm 2]
theorem Fmt.units_lt_succ (c : Nat) : f.units c < f.units (c + 1) := by
  obtain ⟨E, k, top, normal, rfl⟩ : ∃ E k, k < 2 ^ (f.mbits + 1) ∧ (E = 0 ∨ 2 ^ f.mbits ≤ k) ∧ c = E * 2 ^ f.mbits + k := by
    rw [Nat.pow_succ]
    have split := Nat.div_add_mod' c (2 ^ f.mbits)
    have low := Nat.mod_lt c (Nat.two_pow_pos f.mbits)
    cases exponent : c / 2 ^ f.mbits with
    | zero => exact ⟨0, c, by rw [exponent] at split; omega, .inl rfl, by omega⟩
    | succ E =>
      rw [exponent, Nat.succ_mul] at split
      exact ⟨E, 2 ^ f.mbits + c % 2 ^ f.mbits, by omega, .inr (by omega), by omega⟩
  rw [Nat.add_assoc, f.units_scaled (Nat.le_of_lt top) normal, f.units_scaled top (normal.imp_right Nat.le_succ_of_le)]
  exact Nat.mul_lt_mul_of_pos_right (Nat.lt_succ_self k) (Nat.two_pow_pos E)
end units

/-! ### Rising rows -/

/-- A row whose next value is greater at each index. -/
def Rising (v : Nat → Nat) : Prop := ∀ c, v c < v (c + 1)

theorem Rising.lt {v : Nat → Nat} (rising : Rising v) {a b : Nat} (less : a < b) : v a < v b := by
  induction b with
  | zero => cases less
  | succ b ih =>
    rcases Nat.lt_succ_iff_lt_or_eq.1 less with before | rfl
    · exact Nat.lt_trans (ih before) (rising b)
    · exact rising a
theorem Rising.le_iff {v : Nat → Nat} (rising : Rising v) {a b : Nat} : v a ≤ v b ↔ a ≤ b := by
  constructor
  · exact fun le => Nat.le_of_not_lt fun less => Nat.not_lt.2 le (rising.lt less)
  · intro le
    rcases Nat.lt_or_eq_of_le le with less | rfl
    · exact Nat.le_of_lt (rising.lt less)
    · exact Nat.le_refl _
/-- The finite codes' values at the scale of a denominator. -/
theorem Fmt.rising_units (f : Fmt) {d : Nat} (hd : 0 < d) : Rising fun c => f.units c * d :=
  fun c => Nat.mul_lt_mul_of_pos_right (f.units_lt_succ c) hd

/-- How far apart two naturals are. -/
def gap (a b : Nat) : Nat := (a - b : Int).natAbs
/-- No nearer to `x` is `v k` than `v m`, and as near for another `k` only if `m` is even. -/
def NearestTo (v : Nat → Nat) (x m k : Nat) : Prop :=
  gap (v m) x ≤ gap (v k) x ∧ (gap (v m) x = gap (v k) x → k ≠ m → m % 2 = 0)

theorem NearestTo.refl (v : Nat → Nat) (x m : Nat) : NearestTo v x m m := ⟨Nat.le_refl _, fun _ other => absurd rfl other⟩
theorem NearestTo.of_lt {v : Nat → Nat} {x m k : Nat} (less : gap (v m) x < gap (v k) x) : NearestTo v x m k :=
  ⟨Nat.le_of_lt less, fun same => absurd same (Nat.ne_of_lt less)⟩
/-- In a rising row what is nearest among the neighbours of `x` is nearest of all. -/
theorem NearestTo.of_neighbours {v : Nat → Nat} (rising : Rising v) {x c m : Nat} (lo : v c ≤ x) (hi : x ≤ v (c + 1))
    (here : NearestTo v x m c) (next : NearestTo v x m (c + 1)) (k : Nat) : NearestTo v x m k := by
  rcases Nat.lt_trichotomy k c with below | rfl | above
  · have lower := rising.lt below
    exact .of_lt (Nat.lt_of_le_of_lt here.1 (by unfold gap; omega))
  · exact here
  · rcases Nat.lt_or_eq_of_le (Nat.succ_le_of_lt above) with beyond | rfl
    · have higher : v (c + 1) < v k := rising.lt beyond
      exact .of_lt (Nat.lt_of_le_of_lt next.1 (by unfold gap; omega))
    · exact next

/-! ### Rounding between two neighbouring codes (R95) -/

/-- `x` lies at or above entry `c` of a row and below the next, by the share `r/q` of the way. -/
structure Between (v : Nat → Nat) (x c r q : Nat) : Prop where
  low : r < q
  above : v c ≤ x
  share : q * (x - v c) = r * (v (c + 1) - v c)

section between
variable {v : Nat → Nat} {x c r q : Nat} (rising : Rising v) (h : Between v x c r q)
include rising h

theorem Between.lt : x < v (c + 1) := by
  have step := Nat.sub_pos_of_lt (rising c)
  have less : q * (x - v c) < q * (v (c + 1) - v c) := by
    rw [h.share]
    exact Nat.mul_lt_mul_of_pos_right h.low step
  have within := Nat.lt_of_mul_lt_mul_left less
  omega
/-- The mode to nearest compares the ways to the two neighbours. -/
theorem Between.roundsUp_near_iff (neg odd : Bool) : roundsUp .near neg odd r q = true ↔
    v (c + 1) - x < x - v c ∨ v (c + 1) - x = x - v c ∧ odd = true := by
  have step := Nat.sub_pos_of_lt (rising c)
  have hq : 0 < q := Nat.zero_lt_of_lt h.low
  have twice : q * (2 * (x - v c)) = 2 * r * (v (c + 1) - v c) := by rw [Nat.mul_left_comm, h.share, Nat.mul_assoc]
  have lo := h.above
  have hi := h.lt rising
  have more : q < 2 * r ↔ v (c + 1) - x < x - v c := by
    rw [← Nat.mul_lt_mul_right step, ← twice, Nat.mul_lt_mul_left hq]
    omega
  have half : q = 2 * r ↔ v (c + 1) - x = x - v c := by
    rw [← Nat.mul_left_inj (Nat.ne_of_gt step), ← twice, Nat.mul_right_inj (Nat.ne_of_gt hq)]
    omega
  simp only [roundsUp, Bool.or_eq_true, Bool.and_eq_true, decide_eq_true_eq, more, half]
/-- Between neighbours the mode to nearest picks the nearer, and the even one at half the way. -/
theorem Between.nearest (neg : Bool) (k : Nat) :
    NearestTo v x (if roundsUp .near neg (c % 2 == 1) r q then c + 1 else c) k := by
  have choice := h.roundsUp_near_iff rising neg (c % 2 == 1)
  have lo := h.above
  have hi := h.lt rising
  refine .of_neighbours rising lo (Nat.le_of_lt hi) ?_ ?_ k
  · split
    · next up =>
      rcases choice.1 up with more | ⟨half, odd⟩
      · exact .of_lt (by unfold gap; omega)
      · rw [beq_iff_eq] at odd
        exact ⟨by unfold gap; omega, fun _ _ => by omega⟩
    · exact .refl ..
  · split
    · exact .refl ..
    · next down =>
      obtain ⟨most, even⟩ := not_or.1 (mt choice.2 down)
      rw [beq_iff_eq] at even
      unfold NearestTo gap
      omega
/-- Below the next neighbour, what is not above `x` stands at entry `c` at most. -/
theorem Between.le_iff (k : Nat) : v k ≤ x ↔ k ≤ c := by
  constructor
  · intro le
    exact Nat.le_of_not_lt fun less => Nat.not_lt.2 (rising.le_iff.2 less) (Nat.lt_of_le_of_lt le (h.lt rising))
  · intro le
    exact Nat.le_trans (rising.le_iff.2 le) h.above
end between

/-- The code is the scale above the smallest normal beside a significand rounded up or not. -/
theorem Fmt.roundCode_eq {f : Fmt} {n d k r q E : Nat} (hn : 0 < n) (scale : max (ratLog2 n d) (1 - (f.bias : Int)) = 1 - f.bias + E)
    (run : scaledDiv n d (f.mbits - (1 - f.bias + E)) = (k, r, q)) (rm : RMode) (neg : Bool) :
    f.roundCode rm neg n d = E * 2 ^ f.mbits + if roundsUp rm neg (k % 2 == 1) r q then k + 1 else k := by
  have exponent : (1 - (f.bias : Int) + E - (1 - f.bias)).toNat = E := by omega
  rw [Fmt.roundCode, if_neg (Nat.ne_of_gt hn)]
  simp only [scale, run, exponent]

section bracket
variable {f : Fmt} (mantissa : f.mbits ≠ 0) {n d k r q E : Nat} (hn : 0 < n) (hd : 0 < d)
  (scale : max (ratLog2 n d) (1 - (f.bias : Int)) = 1 - f.bias + E) (run : scaledDiv n d (f.mbits - (1 - f.bias + E)) = (k, r, q))
include mantissa hd run

/-- The division in smallest subnormals, with quotient and remainder at the scale of the significand. -/
theorem Fmt.scaledDiv_units : r < q ∧ ∃ b, 0 < b ∧ q = d * b ∧ n * 2 ^ f.depth * b = (k * q + r) * 2 ^ E := by
  obtain ⟨divisor, low, value⟩ := scaledDiv_spec n hd _ run
  have spec := ratPow_spec 1 (e := f.mbits - (1 - f.bias + E)) (i := f.depth) (j := E) (by unfold Fmt.depth; omega)
  refine ⟨low, _, ratPow_pos .., divisor, ?_⟩
  rw [← value, Nat.mul_assoc n _ (2 ^ E), spec, Nat.one_mul, Nat.mul_assoc]
include hn scale

/-- The significand fills its field, but for the subnormals. -/
theorem Fmt.significand_bounds : k < 2 ^ (f.mbits + 1) ∧ (E = 0 ∨ 2 ^ f.mbits ≤ k) := by
  obtain ⟨low, b, hb, rfl, value⟩ := Fmt.scaledDiv_units mantissa hd run
  have unit : 0 < d * b * 2 ^ E := Nat.mul_pos (Nat.mul_pos hd hb) (Nat.two_pow_pos E)
  constructor
  · obtain ⟨t, ht⟩ : ∃ t : Nat, ratLog2 n d = (f.mbits + E : Nat) - (f.depth + t : Nat) :=
      ⟨(1 - f.bias + E - ratLog2 n d).toNat, by unfold Fmt.depth; omega⟩
    refine Nat.lt_of_mul_lt_mul_right (a := d * b * 2 ^ E) ?_
    calc k * (d * b * 2 ^ E) ≤ n * 2 ^ f.depth * b := by
          rw [value, ← Nat.mul_assoc]
          exact Nat.mul_le_mul_right _ (Nat.le_add_right ..)
      _ ≤ n * 2 ^ (f.depth + t) * b :=
          Nat.mul_le_mul_right _ (Nat.mul_le_mul_left _ (Nat.pow_le_pow_right Nat.two_pos (Nat.le_add_right ..)))
      _ < 2 ^ (f.mbits + E + 1) * d * b := Nat.mul_lt_mul_of_pos_right (ratLog2_spec hn hd ht).2 hb
      _ = 2 ^ (f.mbits + 1) * (d * b * 2 ^ E) := by rw [Nat.add_right_comm, Nat.pow_add]; ac_rfl
  · refine (Nat.eq_zero_or_pos E).imp_right fun normal => ?_
    have binade : ratLog2 n d = (f.mbits + E : Nat) - f.depth := by unfold Fmt.depth; omega
    refine Nat.le_of_lt_succ (Nat.lt_of_mul_lt_mul_right (a := d * b * 2 ^ E) ?_)
    calc 2 ^ f.mbits * (d * b * 2 ^ E) = 2 ^ (f.mbits + E) * d * b := by rw [Nat.pow_add]; ac_rfl
      _ ≤ n * 2 ^ f.depth * b := Nat.mul_le_mul_right _ (ratLog2_spec hn hd binade).1
      _ = (k * (d * b) + r) * 2 ^ E := value
      _ < (k + 1) * (d * b) * 2 ^ E := by
          rw [Nat.succ_mul]
          exact Nat.mul_lt_mul_of_pos_right (Nat.add_lt_add_left low _) (Nat.two_pow_pos E)
      _ = (k + 1) * (d * b * 2 ^ E) := Nat.mul_assoc ..
theorem Fmt.between_units : Between (fun c => f.units c * d) (n * 2 ^ f.depth) (E * 2 ^ f.mbits + k) r q := by
  obtain ⟨top, normal⟩ := Fmt.significand_bounds mantissa hn hd scale run
  obtain ⟨low, b, hb, rfl, value⟩ := Fmt.scaledDiv_units mantissa hd run
  have here : f.units (E * 2 ^ f.mbits + k) = k * 2 ^ E := f.units_scaled (Nat.le_of_lt top) normal
  have next : f.units (E * 2 ^ f.mbits + k + 1) = (k + 1) * 2 ^ E := f.units_scaled top (normal.imp_right Nat.le_succ_of_le)
  refine ⟨low, ?above, ?share⟩
  case above =>
    refine Nat.le_of_mul_le_mul_right (c := b) ?_ hb
    calc f.units (E * 2 ^ f.mbits + k) * d * b = k * (d * b) * 2 ^ E := by rw [here]; ac_rfl
      _ ≤ n * 2 ^ f.depth * b := by rw [value]; exact Nat.mul_le_mul_right _ (Nat.le_add_right ..)
  case share =>
    have step : (k + 1) * 2 ^ E * d - k * 2 ^ E * d = 2 ^ E * d := by
      rw [← Nat.sub_mul, ← Nat.sub_mul, Nat.add_sub_cancel_left, Nat.one_mul]
    simp only [here, next, step]
    calc d * b * (n * 2 ^ f.depth - k * 2 ^ E * d) = d * (n * 2 ^ f.depth * b - k * (d * b) * 2 ^ E) := by
          rw [Nat.mul_assoc d, Nat.mul_sub b]; ac_rfl
      _ = r * (2 ^ E * d) := by rw [value, ← Nat.sub_mul, Nat.add_sub_cancel_left]; ac_rfl
end bracket

/-- A positive fraction lies at or above one code and below the next, and a mode picks one of the two. -/
theorem Fmt.roundCode_bracket (f : Fmt) (mantissa : f.mbits ≠ 0) {n d : Nat} (hn : 0 < n) (hd : 0 < d) :
    ∃ c r q : Nat, Between (fun c => f.units c * d) (n * 2 ^ f.depth) c r q ∧
      ∀ rm neg, f.roundCode rm neg n d = if roundsUp rm neg (c % 2 == 1) r q then c + 1 else c := by
  obtain ⟨E, scale⟩ : ∃ E : Nat, max (ratLog2 n d) (1 - (f.bias : Int)) = 1 - f.bias + E :=
    ⟨(max (ratLog2 n d) (1 - (f.bias : Int)) - (1 - f.bias)).toNat, by omega⟩
  obtain ⟨k, r, q, run⟩ : ∃ k r q, scaledDiv n d (f.mbits - (1 - f.bias + E)) = (k, r, q) := ⟨_, _, _, rfl⟩
  refine ⟨E * 2 ^ f.mbits + k, r, q, Fmt.between_units mantissa hn hd scale run, fun rm neg => ?_⟩
  have two_dvd : 2 ∣ 2 ^ f.mbits := Nat.dvd_of_pow_dvd (Nat.pos_of_ne_zero mantissa) (Nat.dvd_refl _)
  have even : E * 2 ^ f.mbits % 2 = 0 := Nat.mod_eq_zero_of_dvd (Nat.dvd_trans two_dvd (Nat.dvd_mul_left ..))
  have parity : (E * 2 ^ f.mbits + k) % 2 = k % 2 := by omega
  rw [Fmt.roundCode_eq hn scale run, parity]
  split <;> rfl

/-! ### NaN operands (R97) -/

section nan
variable (rm : RMode) (x : Num)
@[simp] theorem Num.nan_add : Num.nan.add rm x = .nan := by cases x <;> rfl
@[simp] theorem Num.add_nan : x.add rm .nan = .nan := by cases x <;> rfl
@[simp] theorem Num.nan_mul : Num.nan.mul x = .nan := by cases x <;> rfl
@[simp] theorem Num.mul_nan : x.mul .nan = .nan := by cases x <;> rfl
@[simp] theorem Num.nan_div : Num.nan.div x = .nan := by cases x <;> rfl
@[simp] theorem Num.div_nan : x.div .nan = .nan := by cases x <;> rfl
end nan
/-- The canonical NaN is not a subnormal, so that .ftz leaves it. -/
theorem Fmt.flushOut_nanCode {f : Fmt} (h : f ∈ [fp32, fp16, bf16]) : f.flushOut f.nanCode = f.nanCode := by
  revert f
  decide
theorem FMode.write_nan {m : FMode} (h : m.fmt ∈ [fp32, fp16, bf16]) : m.write .nan = m.fmt.nanCode := by
  have code : m.fmt.encode m.round false .nan = m.fmt.nanCode := rfl
  rw [FMode.write, code, Fmt.flushOut_nanCode h, ite_self]

end Sys2Proof

namespace Sys2Proof.Machine
open Sys2Proof

/-! ### The fractions of the statement -/

theorem magnitudeOf_eq {f : Fmt} {c : Nat} (h : c ≤ f.maxCode) : magnitudeOf f c =
    if c / 2 ^ f.mbits = 0 then ratPow (c % 2 ^ f.mbits) (1 - f.bias - f.mbits)
    else ratPow (2 ^ f.mbits + c % 2 ^ f.mbits) ((c / 2 ^ f.mbits : Nat) - f.bias - f.mbits) := by
  have room : f.maxCode < 2 ^ (f.ebits + f.mbits) := by
    have all := Nat.two_pow_pos (f.ebits + f.mbits)
    have mantissa := Nat.two_pow_pos f.mbits
    unfold Fmt.maxCode
    split <;> omega
  have small : c < 2 ^ (f.ebits + f.mbits) := Nat.lt_of_le_of_lt h room
  have code : c % 2 ^ f.width = c :=
    Nat.mod_eq_of_lt (Nat.lt_trans small (Nat.pow_lt_pow_right Nat.one_lt_two (Nat.lt_succ_self _)))
  simp only [magnitudeOf, Fmt.decode, code, Nat.mod_eq_of_lt small, if_neg (Nat.not_lt.2 h)]
theorem magnitudeOf_pos {f : Fmt} {c : Nat} (h : c ≤ f.maxCode) : 0 < (magnitudeOf f c).2 := by
  rw [magnitudeOf_eq h]
  split <;> exact ratPow_pos ..
theorem magnitudeOf_units {f : Fmt} (mantissa : f.mbits ≠ 0) {c : Nat} (h : c ≤ f.maxCode) :
    (magnitudeOf f c).1 * 2 ^ f.depth = f.units c * (magnitudeOf f c).2 := by
  rw [magnitudeOf_eq h, Fmt.units]
  generalize c / 2 ^ f.mbits = e
  split
  · rw [ratPow_spec _ (i := 0) (by unfold Fmt.depth; omega), Nat.pow_zero, Nat.mul_one]
  · rw [ratPow_spec _ (i := e - 1) (by unfold Fmt.depth; omega)]

/-- The distance of two fractions times both denominators. -/
def crossDist (n d : Nat) (x : Nat × Nat) : Nat := ((x.1 * d : Nat) - (n * x.2 : Nat) : Int).natAbs

theorem crossDist_mul (d n : Nat) {x : Nat × Nat} {p u : Nat} (value : x.1 * p = u * x.2) :
    crossDist n d x * p = gap (u * d) (n * p) * x.2 := by
  have left : x.1 * d * p = u * d * x.2 := by rw [Nat.mul_right_comm, value, Nat.mul_right_comm]
  rw [crossDist, gap, ← Int.natAbs_natCast p, ← Int.natAbs_mul, Int.sub_mul, ← Int.natCast_mul, ← Int.natCast_mul, left,
    ← Int.natAbs_natCast x.2, ← Int.natAbs_mul, Int.sub_mul, ← Int.natCast_mul, ← Int.natCast_mul, Nat.mul_right_comm n,
    Int.natAbs_natCast, Int.natAbs_natCast]

/-- Comparing distances of fractions is comparing them at the common scale. -/
theorem crossDist_cross (n d : Nat) {x y : Nat × Nat} (hx : 0 < x.2) (hy : 0 < y.2) {p u w : Nat} (hp : 0 < p)
    (value : x.1 * p = u * x.2) (value' : y.1 * p = w * y.2) :
    (crossDist n d x * y.2 ≤ crossDist n d y * x.2 ↔ gap (u * d) (n * p) ≤ gap (w * d) (n * p)) ∧
    (crossDist n d x * y.2 = crossDist n d y * x.2 ↔ gap (u * d) (n * p) = gap (w * d) (n * p)) := by
  have both : 0 < x.2 * y.2 := Nat.mul_pos hx hy
  have left : crossDist n d x * y.2 * p = gap (u * d) (n * p) * (x.2 * y.2) := by
    rw [Nat.mul_right_comm, crossDist_mul d n value, Nat.mul_assoc]
  have right : crossDist n d y * x.2 * p = gap (w * d) (n * p) * (x.2 * y.2) := by
    rw [Nat.mul_right_comm, crossDist_mul d n value', Nat.mul_assoc, Nat.mul_comm y.2]
  constructor
  · rw [← Nat.mul_le_mul_right_iff hp, left, right, Nat.mul_le_mul_right_iff both]
  · rw [← Nat.mul_left_inj (Nat.ne_of_gt hp), left, right, Nat.mul_left_inj (Nat.ne_of_gt both)]
theorem cross_le_iff (n d : Nat) {x : Nat × Nat} (hx : 0 < x.2) {p u : Nat} (hp : 0 < p) (value : x.1 * p = u * x.2) :
    x.1 * d ≤ n * x.2 ↔ u * d ≤ n * p := by
  rw [← Nat.mul_le_mul_right_iff hp, Nat.mul_right_comm, value, Nat.mul_right_comm, Nat.mul_right_comm n, Nat.mul_le_mul_right_iff hx]

/-! ### The statement -/

section modes
variable {f : Fmt} (mantissa : f.mbits ≠ 0) {n d : Nat} (hn : 0 < n) (hd : 0 < d)
include mantissa hn hd

theorem roundCode_near_nearest (neg : Bool) (k : Nat) :
    NearestTo (fun c => f.units c * d) (n * 2 ^ f.depth) (f.roundCode .near neg n d) k := by
  obtain ⟨c, r, q, between, picks⟩ := f.roundCode_bracket mantissa hn hd
  rw [picks]
  exact between.nearest (f.rising_units hd) neg k
/-- Towards zero the code picked is the largest whose value is not above. -/
theorem le_roundCode_zero_iff (neg : Bool) (k : Nat) : f.units k * d ≤ n * 2 ^ f.depth ↔ k ≤ f.roundCode .zero neg n d := by
  obtain ⟨c, r, q, between, picks⟩ := f.roundCode_bracket mantissa hn hd
  have picked : f.roundCode .zero neg n d = c := picks .zero neg
  rw [picked]
  exact between.le_iff (f.rising_units hd) k
end modes

/-- Settles O8: the codes rise with their values, a positive fraction lies between two neighbours, and each mode picks its own of
the two; a NaN operand makes each operation NaN, which is written as the canonical one. -/
theorem rounding : Obligations.Rounding := by
  refine ⟨fun f neg n d hf hn hd => ?finite, fun m x y z hm => ?nan⟩
  case finite =>
    have mantissa : f.mbits ≠ 0 := by
      revert f
      decide
    have hp : 0 < 2 ^ f.depth := Nat.two_pow_pos _
    refine ⟨fun hc k hk => ?near, fun hc => ⟨?below, fun k hk le => ?largest⟩⟩
    case near =>
      obtain ⟨le, even⟩ := roundCode_near_nearest mantissa hn hd neg k
      obtain ⟨le_iff, eq_iff⟩ := crossDist_cross n d (magnitudeOf_pos hc) (magnitudeOf_pos hk) hp (magnitudeOf_units mantissa hc)
        (magnitudeOf_units mantissa hk)
      exact ⟨le_iff.2 le, fun same => even (eq_iff.1 same)⟩
    case below =>
      exact (cross_le_iff n d (magnitudeOf_pos hc) hp (magnitudeOf_units mantissa hc)).2
        ((le_roundCode_zero_iff mantissa hn hd neg _).2 (Nat.le_refl _))
    case largest =>
      exact (le_roundCode_zero_iff mantissa hn hd neg k).1
        ((cross_le_iff n d (magnitudeOf_pos hk) hp (magnitudeOf_units mantissa hk)).1 le)
  case nan =>
    have written : m.write .nan = m.fmt.nanCode := FMode.write_nan hm
    refine ⟨?two, ?three, written, written, by rw [Num.add_nan, written], written⟩
    case two =>
      rintro (rfl | rfl)
      · simp only [Num.nan_add, Num.nan_mul, Num.nan_div, written, and_self]
      · simp only [Num.add_nan, Num.mul_nan, Num.div_nan, written, and_self]
    case three =>
      rintro (rfl | rfl | rfl)
      · rw [Num.nan_mul, Num.nan_add, written]
      · rw [Num.mul_nan, Num.nan_add, written]
      · rw [Num.add_nan, written]

end Sys2Proof.Machine
end

section
/-! PROOF. Instruction words (05 R111–R128, 12 R303, R304): the fields of each format read back what was written, each format's
words decode to themselves, and EncodingRoundTrip from these. -/

namespace Sys2Proof
open BitVec

/-! ### Operand codes (R115) -/

theorem SReg.ofCode_code (r : SReg) : SReg.ofCode r.code = some r := by cases r <;> rfl
/-- The codes of each kind of operand fill a range of their own. -/
theorem Opnd.ofCode_code (o : Opnd) : Opnd.ofCode o.code = some o := by
  cases o with
  | v n => revert n; decide
  | s n => revert n; decide
  | p n => revert n; decide
  | sr r => cases r <;> decide
  | imm k => revert k; decide

/-- The field of a word at a bit position holds the code of an operand. -/
def HoldsAt (w : W64) (lo : Nat) (o : Opnd) : Prop := w.extractLsb' lo 9 = o.code
theorem HoldsAt.field {w : W64} {lo : Nat} {o : Opnd} (h : HoldsAt w lo o) : field w lo = o := by
  unfold Sys2Proof.field
  rw [h, Opnd.ofCode_code]
  rfl
theorem HoldsAt.isSome {w : W64} {lo : Nat} {o : Opnd} (h : HoldsAt w lo o) : (Opnd.ofCode (w.extractLsb' lo 9)).isSome = true := by
  rw [h, Opnd.ofCode_code]
  rfl

/-! ### The fields of a full word (R113, R118) -/

section full
variable (opc : BitVec 10) (g : Guard) (low : BitVec 45)
theorem opcode_encFull : (encFull opc g low).extractLsb' 52 10 = opc := by
  unfold encFull
  rw [extractLsb'_append_eq_of_le (by decide), extractLsb'_append_eq_of_le (by decide), extractLsb'_append_eq_of_le (by decide),
    extractLsb'_append_eq_right]
theorem guardOf_encFull : guardOf (encFull opc g low) = g := by
  obtain ⟨neg, idx⟩ := g
  unfold guardOf encFull
  congr 1
  · rw [getLsbD_append, getLsbD_append, getLsbD_append]
    simp
  · rw [extractLsb'_append_eq_of_le (by decide), extractLsb'_append_eq_right]
theorem low_encFull {lo n : Nat} (h : lo + n ≤ 45) : (encFull opc g low).extractLsb' lo n = low.extractLsb' lo n := by
  unfold encFull
  rw [extractLsb'_append_eq_of_add_le h]
end full

/-- Five fields of nine bits: the low bits of an RRR or a CVT word. -/
theorem extract_fiveFields (d a b c m : BitVec 9) :
    let low : BitVec 45 := d ++ a ++ b ++ c ++ m
    low.extractLsb' 36 9 = d ∧ low.extractLsb' 27 9 = a ∧ low.extractLsb' 18 9 = b ∧ low.extractLsb' 9 9 = c ∧
      low.extractLsb' 0 9 = m := by
  refine ⟨?_, ?_, ?_, ?_, extractLsb'_append_eq_right⟩
  · iterate 3 rw [extractLsb'_append_eq_of_le (by decide)]
    exact extractLsb'_append_eq_left
  · iterate 3 rw [extractLsb'_append_eq_of_le (by decide)]
    exact extractLsb'_append_eq_right
  · iterate 2 rw [extractLsb'_append_eq_of_le (by decide)]
    exact extractLsb'_append_eq_right
  · rw [extractLsb'_append_eq_of_le (by decide)]
    exact extractLsb'_append_eq_right
/-- The low bits of an RI word. -/
theorem extract_riFields (d a : BitVec 9) (imm : BitVec 27) :
    let low : BitVec 45 := d ++ a ++ imm
    low.extractLsb' 36 9 = d ∧ low.extractLsb' 27 9 = a ∧ low.extractLsb' 0 27 = imm := by
  refine ⟨?_, ?_, extractLsb'_append_eq_right⟩
  · rw [extractLsb'_append_eq_of_le (by decide)]
    exact extractLsb'_append_eq_left
  · rw [extractLsb'_append_eq_of_le (by decide)]
    exact extractLsb'_append_eq_right
/-- The low bits of a MEM word. -/
theorem extract_memFields (d base : BitVec 9) (ofs : BitVec 18) (m : BitVec 9) :
    let low : BitVec 45 := d ++ base ++ ofs ++ m
    low.extractLsb' 36 9 = d ∧ low.extractLsb' 27 9 = base ∧ low.extractLsb' 9 18 = ofs ∧ low.extractLsb' 0 9 = m := by
  refine ⟨?_, ?_, ?_, extractLsb'_append_eq_right⟩
  · iterate 2 rw [extractLsb'_append_eq_of_le (by decide)]
    exact extractLsb'_append_eq_left
  · iterate 2 rw [extractLsb'_append_eq_of_le (by decide)]
    exact extractLsb'_append_eq_right
  · rw [extractLsb'_append_eq_of_le (by decide)]
    exact extractLsb'_append_eq_right

/-! ### What each format reads as -/

section read
variable {opc : BitVec 10} (ext : Option (BitVec 37))

/-- An opcode that a format's map assigns is none of the three that are read before the maps. -/
theorem not_special {α : Type} {n : Nat} {ctor : Nat → Option α} {f : α} (assigned : ctor n = some f)
    (free : (ctor 0x001, ctor 0x180, ctor 0x28B) = (none, none, none)) : n ≠ 0x001 ∧ n ≠ 0x180 ∧ n ≠ 0x28B := by
  simp only [Prod.mk.injEq] at free
  obtain ⟨pnop, cvt, mona⟩ := free
  exact ⟨fun e => by simp [e, pnop] at assigned, fun e => by simp [e, cvt] at assigned, fun e => by simp [e, mona] at assigned⟩
/-- An RRR word reads as its instruction. -/
theorem readFull_rrr {f : RRR → Instr} (assigned : rrrCtor opc.toNat = some f) (w : RRR) :
    readFull (encFull opc w.g (w.d.code ++ w.a.code ++ w.b.code ++ w.c.code ++ w.m)) ext = some (f w, true) := by
  obtain ⟨d, a, b, c, m⟩ := extract_fiveFields w.d.code w.a.code w.b.code w.c.code w.m
  rw [← low_encFull opc w.g _ (by decide)] at d a b c m
  obtain ⟨notPnop, notCvt, notMona⟩ := not_special assigned rfl
  simp only [readFull, opcode_encFull, guardOf_encFull, notPnop, notCvt, notMona, if_false, assigned, HoldsAt.field d,
    HoldsAt.field a, HoldsAt.field b, HoldsAt.field c, m, fieldsOk, List.all_cons, List.all_nil, HoldsAt.isSome d,
    HoldsAt.isSome a, HoldsAt.isSome b, HoldsAt.isSome c, Bool.and_self]
/-- MONA and its cancelling form share an opcode, and M[0] tells them apart (R240). -/
theorem readFull_mona (w : RRR) :
    readFull (encFull 0x28B w.g (w.d.code ++ w.a.code ++ w.b.code ++ w.c.code ++ w.m)) ext =
      some (if w.m.getLsbD 0 then .monaCancel w else .mona w, true) := by
  obtain ⟨d, a, b, c, m⟩ := extract_fiveFields w.d.code w.a.code w.b.code w.c.code w.m
  rw [← low_encFull 0x28B w.g _ (by decide)] at d a b c m
  have code : (0x28B : BitVec 10).toNat = 0x28B := rfl
  simp only [readFull, opcode_encFull, guardOf_encFull, code, Nat.reduceEqDiff, if_false, if_true, HoldsAt.field d,
    HoldsAt.field a, HoldsAt.field b, HoldsAt.field c, m, fieldsOk, List.all_cons, List.all_nil, HoldsAt.isSome d,
    HoldsAt.isSome a, HoldsAt.isSome b, HoldsAt.isSome c, Bool.and_self]
theorem readFull_cvt (w : CVTW) :
    readFull (encFull 0x180 w.g (w.d.code ++ w.a.code ++ w.cm ++ w.c.code ++ w.m)) ext = some (.cvt w, true) := by
  obtain ⟨d, a, cm, c, m⟩ := extract_fiveFields w.d.code w.a.code w.cm w.c.code w.m
  rw [← low_encFull 0x180 w.g _ (by decide)] at d a cm c m
  have code : (0x180 : BitVec 10).toNat = 0x180 := rfl
  simp only [readFull, opcode_encFull, guardOf_encFull, code, Nat.reduceEqDiff, if_false, if_true, HoldsAt.field d,
    HoldsAt.field a, cm, HoldsAt.field c, m, fieldsOk, List.all_cons, List.all_nil, HoldsAt.isSome d, HoldsAt.isSome a,
    HoldsAt.isSome c, Bool.and_self]
theorem readFull_ri {f : RI → Instr} (other : rrrCtor opc.toNat = none) (assigned : riCtor opc.toNat = some f) (w : RI) :
    readFull (encFull opc w.g (w.d.code ++ w.a.code ++ w.imm)) ext = some (f ⟨w.g, w.d, w.a, w.imm, ext⟩, true) := by
  obtain ⟨d, a, imm⟩ := extract_riFields w.d.code w.a.code w.imm
  rw [← low_encFull opc w.g _ (by decide)] at d a imm
  obtain ⟨notPnop, notCvt, notMona⟩ := not_special assigned rfl
  simp only [readFull, opcode_encFull, guardOf_encFull, notPnop, notCvt, notMona, if_false, other, assigned, HoldsAt.field d,
    HoldsAt.field a, imm, fieldsOk, List.all_cons, List.all_nil, HoldsAt.isSome d, HoldsAt.isSome a, Bool.and_self]
theorem readFull_br {f : BR → Instr} (other : rrrCtor opc.toNat = none ∧ riCtor opc.toNat = none)
    (assigned : brCtor opc.toNat = some f) (w : BR) :
    readFull (encFull opc w.g (w.target ++ w.join)) ext = some (f w, true) := by
  have target : (encFull opc w.g (w.target ++ w.join)).extractLsb' 21 24 = w.target :=
    (low_encFull opc w.g _ (by decide)).trans extractLsb'_append_eq_left
  have join : (encFull opc w.g (w.target ++ w.join)).extractLsb' 0 21 = w.join :=
    (low_encFull opc w.g _ (by decide)).trans extractLsb'_append_eq_right
  obtain ⟨notPnop, notCvt, notMona⟩ := not_special assigned rfl
  simp only [readFull, opcode_encFull, guardOf_encFull, notPnop, notCvt, notMona, if_false, other.1, other.2, assigned, target,
    join]
theorem readFull_mem {f : MEM → Instr}
    (other : rrrCtor opc.toNat = none ∧ riCtor opc.toNat = none ∧ brCtor opc.toNat = none)
    (assigned : memCtor opc.toNat = some f) (w : MEM) :
    readFull (encFull opc w.g (w.d.code ++ w.base.code ++ w.ofs ++ w.m)) ext = some (f w, true) := by
  obtain ⟨d, base, ofs, m⟩ := extract_memFields w.d.code w.base.code w.ofs w.m
  rw [← low_encFull opc w.g _ (by decide)] at d base ofs m
  obtain ⟨notRrr, notRi, notBr⟩ := other
  obtain ⟨notPnop, notCvt, notMona⟩ := not_special assigned rfl
  simp only [readFull, opcode_encFull, guardOf_encFull, notPnop, notCvt, notMona, if_false, notRrr, notRi, notBr, assigned,
    HoldsAt.field d, HoldsAt.field base, ofs, m, fieldsOk, List.all_cons, List.all_nil, HoldsAt.isSome d, HoldsAt.isSome base,
    Bool.and_self]
end read

/-! ### Pair words (R123, R128) -/

theorem HOp.ofCode_code (op : HOp) : HOp.ofCode op.code.toNat = some op := by cases op <;> rfl
/-- A half is read back from its 31 bits. -/
theorem readHalf_encHalf (h : Half) : readHalf (encHalf h) = some h := by
  obtain ⟨op, neg, idx, d, a, m⟩ := h
  have hop : (encHalf ⟨op, neg, idx, d, a, m⟩).extractLsb' 24 7 = op.code := by
    unfold encHalf
    iterate 4 rw [extractLsb'_append_eq_of_le (by decide)]
    exact extractLsb'_append_eq_left
  have hneg : (encHalf ⟨op, neg, idx, d, a, m⟩).getLsbD 23 = neg := by
    unfold encHalf
    iterate 5 rw [getLsbD_append]
    simp
  have hidx : (encHalf ⟨op, neg, idx, d, a, m⟩).extractLsb' 20 3 = idx := by
    unfold encHalf
    iterate 3 rw [extractLsb'_append_eq_of_le (by decide)]
    exact extractLsb'_append_eq_right
  have hd : (encHalf ⟨op, neg, idx, d, a, m⟩).extractLsb' 12 8 = d := by
    unfold encHalf
    iterate 2 rw [extractLsb'_append_eq_of_le (by decide)]
    exact extractLsb'_append_eq_right
  have ha : (encHalf ⟨op, neg, idx, d, a, m⟩).extractLsb' 4 8 = a := by
    unfold encHalf
    rw [extractLsb'_append_eq_of_le (by decide)]
    exact extractLsb'_append_eq_right
  have hm : (encHalf ⟨op, neg, idx, d, a, m⟩).extractLsb' 0 4 = m := extractLsb'_append_eq_right
  simp only [readHalf, hop, HOp.ofCode_code, Option.map_some, hneg, hidx, hd, ha, hm]

/-! ### Decoding (R111, R112, R129) -/

/-- A well-formed instruction passes the decoder's checks. -/
theorem Instr.wellFormed_spec {i : Instr} (wf : i.wellFormed = true) :
    i.modOk = true ∧ i.operandsOk = true ∧ i.extOk = true ∧ ∀ h0 h1, i = .pairWord h0 h1 → pairOk h0 h1 = true := by
  simp only [Instr.wellFormed, Bool.and_eq_true] at wf
  obtain ⟨⟨⟨⟨mod, operands⟩, _⟩, ext⟩, pair⟩ := wf
  exact ⟨mod, operands, ext, fun h0 h1 e => by subst e; exact pair⟩

/-- A full word that reads as a well-formed instruction passes the checks after its class. -/
theorem finish_ok {w : W64} {ext : Option (BitVec 37)} {i : Instr} (reads : readFull w ext = some (i, true))
    (wf : i.wellFormed = true) : decodeWord.finish w ext = .ok i := by
  obtain ⟨mod, operands, _⟩ := i.wellFormed_spec wf
  simp [decodeWord.finish, reads, mod, operands]
/-- A full word with no extension behind it. -/
theorem decodeWord_full {opc : BitVec 10} {g : Guard} {low : BitVec 45} {i : Instr}
    (reads : readFull (encFull opc g low) none = some (i, true)) (wf : i.wellFormed = true) :
    decodeCode (.core (encFull opc g low) none) = some i := by
  have class0 : ((encFull opc g low).extractLsb' 62 2).toNat = 0 := by rw [Laws.class_encFull]; rfl
  simp only [decodeCode, decodeWord, class0, finish_ok reads wf, Except.toOption]
/-- A full word that takes the extension behind it. -/
theorem decodeWord_extended {opc : BitVec 10} {g : Guard} {low : BitVec 45} {i : Instr} {x : BitVec 37}
    (takes : takesExt opc.toNat = true) (reads : readFull (encFull opc g low) (some x) = some (i, true))
    (wf : i.wellFormed = true) :
    decodeCode (.core (encFull opc g low) (some ((2 : BitVec 2) ++ (0 : BitVec 25) ++ x))) = some i := by
  have class0 : ((encFull opc g low).extractLsb' 62 2).toNat = 0 := by rw [Laws.class_encFull]; rfl
  have class2 := Laws.class_ext x
  have reserved : BitVec.extractLsb' 37 25 ((2 : BitVec 2) ++ (0 : BitVec 25) ++ x : W64) = 0 := by
    rw [extractLsb'_append_eq_of_le (by decide)]
    exact extractLsb'_append_eq_right
  have value : BitVec.extractLsb' 0 37 ((2 : BitVec 2) ++ (0 : BitVec 25) ++ x : W64) = x := extractLsb'_append_eq_right
  simp only [decodeCode, decodeWord, class0, opcode_encFull, takes, class2, beq_self_eq_true, Bool.and_self, if_true, reserved,
    ne_eq, not_true_eq_false, if_false, value, finish_ok reads wf, Except.toOption]

/-! ### The round trip of a core word, format by format -/

section formats
variable {opc : BitVec 10} {i : Instr}

theorem decode_rrr {f : RRR → Instr} {w : RRR} (written : encode (f w) = encRRR opc w) (assigned : rrrCtor opc.toNat = some f)
    (wf : (f w).wellFormed = true) : decodeCode (encode (f w)) = some (f w) := by
  rw [written]
  exact decodeWord_full (readFull_rrr none assigned w) wf
theorem decode_br {f : BR → Instr} {w : BR} (written : encode (f w) = encBR opc w)
    (other : rrrCtor opc.toNat = none ∧ riCtor opc.toNat = none) (assigned : brCtor opc.toNat = some f)
    (wf : (f w).wellFormed = true) : decodeCode (encode (f w)) = some (f w) := by
  rw [written]
  exact decodeWord_full (readFull_br none other assigned w) wf
theorem decode_mem {f : MEM → Instr} {w : MEM} (written : encode (f w) = encMEM opc w)
    (other : rrrCtor opc.toNat = none ∧ riCtor opc.toNat = none ∧ brCtor opc.toNat = none)
    (assigned : memCtor opc.toNat = some f) (wf : (f w).wellFormed = true) : decodeCode (encode (f w)) = some (f w) := by
  rw [written]
  exact decodeWord_full (readFull_mem none other assigned w) wf
/-- An RI word whose opcode takes an extension if the word has one. -/
theorem decode_ri {f : RI → Instr} {w : RI} (written : encode (f w) = encRI opc w) (other : rrrCtor opc.toNat = none)
    (assigned : riCtor opc.toNat = some f) (takes : takesExt opc.toNat = true ∨ w.ext = none) (wf : (f w).wellFormed = true) :
    decodeCode (encode (f w)) = some (f w) := by
  rw [written]
  obtain ⟨g, d, a, imm, ext⟩ := w
  cases ext with
  | none => exact decodeWord_full (readFull_ri none other assigned ⟨g, d, a, imm, none⟩) wf
  | some x =>
    have takes := takes.resolve_right (by simp)
    exact decodeWord_extended takes (readFull_ri (some x) other assigned ⟨g, d, a, imm, some x⟩) wf
/-- MONA's modifier is 0, and that of its cancelling form is 1 (R240). -/
theorem decode_mona {w : RRR} (h : i = .mona w ∨ i = .monaCancel w) (wf : i.wellFormed = true) :
    decodeCode (encode i) = some i := by
  obtain ⟨mod, _⟩ := i.wellFormed_spec wf
  have reads := readFull_mona none w
  rcases h with rfl | rfl
  · have m : w.m = 0 := eq_of_beq mod
    refine decodeWord_full (reads.trans ?_) wf
    simp [m]
  · have m : w.m = 1 := eq_of_beq mod
    refine decodeWord_full (reads.trans ?_) wf
    simp [m]
/-- A pair word that meets its rules is read back half by half (R124). -/
theorem decode_pairWord {h0 h1 : Half} (wf : (Instr.pairWord h0 h1).wellFormed = true) :
    decodeCode (encode (.pairWord h0 h1)) = some (.pairWord h0 h1) := by
  obtain ⟨mod, operands, _, pair⟩ := (Instr.pairWord h0 h1).wellFormed_spec wf
  have class1 : (BitVec.extractLsb' 62 2 ((1 : BitVec 2) ++ encHalf h0 ++ encHalf h1 : W64)).toNat = 1 := by
    rw [Laws.class_pair]; rfl
  have first : BitVec.extractLsb' 31 31 ((1 : BitVec 2) ++ encHalf h0 ++ encHalf h1 : W64) = encHalf h0 := by
    rw [extractLsb'_append_eq_of_le (by decide)]
    exact extractLsb'_append_eq_right
  have second : BitVec.extractLsb' 0 31 ((1 : BitVec 2) ++ encHalf h0 ++ encHalf h1 : W64) = encHalf h1 :=
    extractLsb'_append_eq_right
  show (decodeWord ((1 : BitVec 2) ++ encHalf h0 ++ encHalf h1 : W64) none).toOption = _
  simp only [decodeWord, class1, first, second, readHalf_encHalf, pair h0 h1 rfl, mod, operands, Bool.not_true,
    Bool.false_eq_true, if_false, Except.toOption]
end formats

/-- Each core word is read back, by its format. -/
theorem decode_encode_core {i : Instr} {bits : W64} {next : Option W64} (written : encode i = .core bits next)
    (wf : i.wellFormed = true) : decodeCode (encode i) = some i := by
  cases i with
  | nop w | bri w | ret w | exit w | pset w | vote w | lshf w | lred w | plog w | pmov w | tret w | clock w | chkerr w
    | phase w | ckpt w | iadd w | isub w | imul w | imulh w | imad w | imadw w | idiv w | irem w | imin w | imax w
    | iabs w | ineg w | icmp w | iaddc w | and w | or w | xor w | andn w | not w | shl w | shr w | sar w | rol w
    | bfx w | bfi w | popc w | clz w | ctz w | brev w | permb w | sel w | lea w | mov w | dot4 w | fadd w | fsub w
    | fmul w | ffma w | fmin w | fmax w | fcmp w | fclass w | frnd w | frcp w | frsq w | fsqrt w | fdiv w | fexp2 w
    | flog2 w | fsinr w | fcosr w | fscale w | hadd2 w | hmul2 w | hfma2 w | hmin2 w | hmax2 w | hcmp2 w | cvtp w
    | qnb8 w | dqnb8 w | qmx w | dqmx w | smax w | cvtfx w | cvtxf w | fence w | rfence w | cpy w | cpyg w | cpys w
    | cpyt w | qfence w | coll w | binit w | arrive w | expect w | waitp w | bpoll w | bld w | mma w | mmap w | msa w
    | mzero w | mdr w | mmov w | mmt w | mres w | mchk w | mstat w | tex w | tld w | tgath w | tdim w | ist w | hgf w
    | hgs w | rbox w | rtri w | mvtx w | mprim w | mcommit w =>
    exact decode_rrr rfl rfl wf
  | movi w | iaddRi w | isubRi w | imulRi w | iminRi w | imaxRi w | icmpRi w | andRi w | orRi w | xorRi w | shlRi w
    | shrRi w | sarRi w | rolRi w | leaRi w | movRi w =>
    exact decode_ri rfl rfl rfl (.inl rfl) wf
  | pseti w | trap w | csrr w | csrw w | prefc w | faddRi w | fmulRi w | ffmaRi w | fminRi w | fmaxRi w | fcmpRi w =>
    obtain ⟨_, _, noExt, _⟩ := Instr.wellFormed_spec wf
    exact decode_ri rfl rfl rfl (.inr (Option.isNone_iff_eq_none.1 noExt)) wf
  | bra w | brc w | call w =>
    exact decode_br rfl ⟨rfl, rfl⟩ rfl wf
  | ld w | st w | ldu w | stu w | upd w | updr w | ucas w | vismax w | pref w | discard w =>
    exact decode_mem rfl ⟨rfl, rfl, rfl⟩ rfl wf
  | mona w => exact decode_mona (.inl rfl) wf
  | monaCancel w => exact decode_mona (.inr rfl) wf
  | cvt w => exact decodeWord_full (readFull_cvt none w) wf
  | pairWord h0 h1 => exact decode_pairWord wf
  | pnop => rfl
  | _ => cases written

/-! ### Queue words (R303, R304) -/

section queue
variable (op : BitVec 6) (d a b : BitVec 4) (o : BitVec 14) (i : BitVec 18)

/-- The fields of a queue word of format M, or R, whose last field is 0. -/
theorem queueM_op : BitVec.extractLsb' 26 6 (op ++ d ++ a ++ b ++ o : W32) = op := by
  iterate 3 rw [extractLsb'_append_eq_of_le (by decide)]
  exact extractLsb'_append_eq_left
@[inherit_doc queueM_op] theorem queueM_d : BitVec.extractLsb' 22 4 (op ++ d ++ a ++ b ++ o : W32) = d := by
  iterate 3 rw [extractLsb'_append_eq_of_le (by decide)]
  exact extractLsb'_append_eq_right
@[inherit_doc queueM_op] theorem queueM_a : BitVec.extractLsb' 18 4 (op ++ d ++ a ++ b ++ o : W32) = a := by
  iterate 2 rw [extractLsb'_append_eq_of_le (by decide)]
  exact extractLsb'_append_eq_right
@[inherit_doc queueM_op] theorem queueM_b : BitVec.extractLsb' 14 4 (op ++ d ++ a ++ b ++ o : W32) = b := by
  rw [extractLsb'_append_eq_of_le (by decide)]
  exact extractLsb'_append_eq_right
@[inherit_doc queueM_op] theorem queueM_o : BitVec.extractLsb' 0 14 (op ++ d ++ a ++ b ++ o : W32) = o :=
  extractLsb'_append_eq_right

/-- The fields of a queue word of format I. -/
theorem queueI_op : BitVec.extractLsb' 26 6 (op ++ d ++ a ++ i : W32) = op := by
  iterate 2 rw [extractLsb'_append_eq_of_le (by decide)]
  exact extractLsb'_append_eq_left
@[inherit_doc queueI_op] theorem queueI_d : BitVec.extractLsb' 22 4 (op ++ d ++ a ++ i : W32) = d := by
  iterate 2 rw [extractLsb'_append_eq_of_le (by decide)]
  exact extractLsb'_append_eq_right
@[inherit_doc queueI_op] theorem queueI_a : BitVec.extractLsb' 18 4 (op ++ d ++ a ++ i : W32) = a := by
  rw [extractLsb'_append_eq_of_le (by decide)]
  exact extractLsb'_append_eq_right
@[inherit_doc queueI_op] theorem queueI_i : BitVec.extractLsb' 0 18 (op ++ d ++ a ++ i : W32) = i :=
  extractLsb'_append_eq_right

/-- The fields of LOOP (R306). -/
theorem loop_fields (n : BitVec 6) (l : BitVec 12) :
    let w : W32 := op ++ d ++ a ++ n ++ l
    w.extractLsb' 26 6 = op ∧ w.extractLsb' 22 4 = d ∧ w.extractLsb' 18 4 = a ∧ w.extractLsb' 12 6 = n ∧
      w.extractLsb' 0 12 = l := by
  refine ⟨?_, ?_, ?_, ?_, extractLsb'_append_eq_right⟩
  · iterate 3 rw [extractLsb'_append_eq_of_le (by decide)]
    exact extractLsb'_append_eq_left
  · iterate 3 rw [extractLsb'_append_eq_of_le (by decide)]
    exact extractLsb'_append_eq_right
  · iterate 2 rw [extractLsb'_append_eq_of_le (by decide)]
    exact extractLsb'_append_eq_right
  · rw [extractLsb'_append_eq_of_le (by decide)]
    exact extractLsb'_append_eq_right
/-- A shift's count, below zeros (R304). -/
theorem shift_zeros (n : BitVec 6) : BitVec.extractLsb' 6 12 (op ++ d ++ a ++ ((0 : BitVec 12) ++ n) : W32) = 0 := by
  rw [extractLsb'_append_eq_of_add_le (by decide)]
  exact extractLsb'_append_eq_left
@[inherit_doc shift_zeros] theorem shift_count (n : BitVec 6) :
    BitVec.extractLsb' 0 6 (op ++ d ++ a ++ ((0 : BitVec 12) ++ n) : W32) = n := by
  rw [extractLsb'_append_eq_of_add_le (by decide)]
  exact extractLsb'_append_eq_right
end queue

/-- What a queue instruction is written as reads as it. -/
theorem decodeQueue_encode {i : Instr} {w : W32} (written : encode i = .queue w) : decodeQueue w = some i := by
  cases i with
  | qbLdb | qbLdh | qbLdw | qbLdd | qbStb | qbSth | qbStw | qbStd | qbAdd | qbSub | qbAnd | qbOr | qbXor | qbShl | qbShr
    | qbMul | qbCeq | qbCne | qbCltu | qbClts | emit =>
    cases written
    unfold decodeQueue
    dsimp only
    rw [queueM_op, queueM_d, queueM_a, queueM_b, queueM_o]
    rfl
  | qbAddi | qbAndi | qbOri | qbXori | qbMovi | qbShlor | qbBz | qbBnz | qbJmp | qbLidx | launch | signal | hash | sign
    | random | doesend | measread | fault =>
    cases written
    unfold decodeQueue
    dsimp only
    rw [queueI_op, queueI_d, queueI_a, queueI_i]
    rfl
  | qbShli | qbShri =>
    cases written
    unfold decodeQueue
    dsimp only
    rw [queueI_op, queueI_d, queueI_a, shift_zeros, shift_count]
    rfl
  | qbLoop a n l =>
    cases written
    obtain ⟨hop, hd, ha, hn, hl⟩ := loop_fields 0x2B 0 a n l
    unfold decodeQueue
    dsimp only
    rw [hop, hd, ha, hn, hl]
    rfl
  | halt =>
    cases written
    rfl
  | _ => cases written

section unique
variable {w : W32} {op : BitVec 6} {d a b : BitVec 4} {o : BitVec 14} {i : BitVec 18}

/-- A word with the fields of format M, or R, is the one written from them. -/
theorem encQM_eq (hop : (w.extractLsb' 26 6).toNat = op.toNat) (hd : w.extractLsb' 22 4 = d) (ha : w.extractLsb' 18 4 = a)
    (hb : w.extractLsb' 14 4 = b) (ho : w.extractLsb' 0 14 = o) : encQM op d a b o = .queue w := by
  obtain rfl := eq_of_toNat_eq hop
  subst hd ha hb ho
  unfold encQM
  rw [extractLsb'_append_extractLsb'_eq_extractLsb' (show 26 = 22 + 4 from rfl),
    extractLsb'_append_extractLsb'_eq_extractLsb' (show 22 = 18 + 4 from rfl),
    extractLsb'_append_extractLsb'_eq_extractLsb' (show 18 = 14 + 4 from rfl),
    extractLsb'_append_extractLsb'_eq_extractLsb' (show 14 = 0 + 14 from rfl)]
  exact congrArg Code.queue extractLsb'_eq_self
/-- A word with the fields of format I is the one written from them. -/
theorem encQI_eq (hop : (w.extractLsb' 26 6).toNat = op.toNat) (hd : w.extractLsb' 22 4 = d) (ha : w.extractLsb' 18 4 = a)
    (hi : w.extractLsb' 0 18 = i) : encQI op d a i = .queue w := by
  obtain rfl := eq_of_toNat_eq hop
  subst hd ha hi
  unfold encQI
  rw [extractLsb'_append_extractLsb'_eq_extractLsb' (show 26 = 22 + 4 from rfl),
    extractLsb'_append_extractLsb'_eq_extractLsb' (show 22 = 18 + 4 from rfl),
    extractLsb'_append_extractLsb'_eq_extractLsb' (show 18 = 0 + 18 from rfl)]
  exact congrArg Code.queue extractLsb'_eq_self
/-- The immediate of a shift whose unused field is 0. -/
theorem shift_eq (zero : w.extractLsb' 6 12 = 0) : w.extractLsb' 0 18 = (0 : BitVec 12) ++ w.extractLsb' 0 6 := by
  rw [← zero]
  exact (extractLsb'_append_extractLsb'_eq_extractLsb' (show 6 = 0 + 6 from rfl)).symm
/-- A word with the fields of LOOP is the one written from them. -/
theorem loop_eq (hop : (w.extractLsb' 26 6).toNat = 0x2B) (hd : w.extractLsb' 22 4 = 0) :
    encode (.qbLoop (w.extractLsb' 18 4) (w.extractLsb' 12 6) (w.extractLsb' 0 12)) = .queue w := by
  have hop : w.extractLsb' 26 6 = 0x2B := eq_of_toNat_eq hop
  show Code.queue _ = _
  rw [← hop, ← hd, extractLsb'_append_extractLsb'_eq_extractLsb' (show 26 = 22 + 4 from rfl),
    extractLsb'_append_extractLsb'_eq_extractLsb' (show 22 = 18 + 4 from rfl),
    extractLsb'_append_extractLsb'_eq_extractLsb' (show 18 = 12 + 6 from rfl),
    extractLsb'_append_extractLsb'_eq_extractLsb' (show 12 = 0 + 12 from rfl)]
  exact congrArg Code.queue extractLsb'_eq_self
end unique

/-- A queue word that decodes is the one its instruction is written as. -/
theorem encode_decodeQueue {w : W32} {i : Instr} (h : decodeQueue w = some i) : encode i = .queue w := by
  -- the cases stand in the order of the map of R304: first the loads and stores of a window
  unfold decodeQueue at h
  dsimp only at h
  split at h
  case h_1 _ op | h_2 _ op | h_3 _ op | h_4 _ op | h_5 _ op | h_6 _ op | h_7 _ op | h_8 _ op =>
    cases h
    exact encQM_eq op rfl rfl rfl rfl
  -- register operations
  case h_9 _ op | h_10 _ op | h_11 _ op | h_12 _ op | h_13 _ op | h_14 _ op | h_15 _ op | h_16 _ op | h_17 _ op | h_18 _ op
      | h_19 _ op | h_20 _ op =>
    obtain ⟨zero, e⟩ := Option.ite_none_right_eq_some.1 h
    cases e
    exact encQM_eq op rfl rfl rfl (eq_of_beq zero)
  -- operations with an immediate
  case h_21 _ op | h_22 _ op | h_23 _ op | h_24 _ op =>
    cases h
    exact encQI_eq op rfl rfl rfl
  -- shifts, whose count stands below zeros
  case h_25 _ op | h_26 _ op =>
    obtain ⟨zero, e⟩ := Option.ite_none_right_eq_some.1 h
    cases e
    exact encQI_eq op rfl rfl (shift_eq (eq_of_beq zero))
  -- MOVI and SHLOR
  case h_27 _ op | h_28 _ op =>
    obtain ⟨zero, e⟩ := Option.ite_none_right_eq_some.1 h
    cases e
    exact encQI_eq op rfl (eq_of_beq zero) rfl
  -- the conditional jumps
  case h_29 _ op | h_30 _ op =>
    obtain ⟨zero, e⟩ := Option.ite_none_right_eq_some.1 h
    cases e
    exact encQI_eq op (eq_of_beq zero) rfl rfl
  -- JMP and FAULT
  case h_31 _ op | h_37 _ op =>
    obtain ⟨zero, e⟩ := Option.ite_none_right_eq_some.1 h
    cases e
    rw [Bool.and_eq_true] at zero
    exact encQI_eq op (eq_of_beq zero.1) (eq_of_beq zero.2) rfl
  -- LOOP and LIDX
  case h_32 _ op =>
    obtain ⟨zero, e⟩ := Option.ite_none_right_eq_some.1 h
    cases e
    exact loop_eq op (eq_of_beq zero)
  case h_33 _ op =>
    obtain ⟨zero, e⟩ := Option.ite_none_right_eq_some.1 h
    cases e
    rw [Bool.and_eq_true] at zero
    exact encQI_eq op rfl (eq_of_beq zero.1) (eq_of_beq zero.2)
  -- the services (R308), by the number in the immediate
  case h_34 _ op =>
    split at h
    · cases h
    next ha =>
      split at h
      case h_8 => cases h
      all_goals
        next hi =>
          cases h
          exact encQI_eq op rfl (Classical.not_not.1 ha) (eq_of_toNat_eq hi)
  -- EMIT and HALT
  case h_35 _ op =>
    obtain ⟨zero, e⟩ := Option.ite_none_right_eq_some.1 h
    cases e
    exact encQM_eq op (eq_of_beq zero) rfl rfl rfl
  case h_36 _ op =>
    obtain ⟨zero, e⟩ := Option.ite_none_right_eq_some.1 h
    cases e
    simp only [Bool.and_eq_true] at zero
    obtain ⟨⟨hd, ha⟩, hi⟩ := zero
    exact encQI_eq op (eq_of_beq hd) (eq_of_beq ha) (eq_of_beq hi)
  case h_38 => cases h

/-! ### The statement -/

/-- Settles O59: each core word is read back by the reading of its format, and a queue word is its fields one behind the
other, so that it and its instruction determine each other. -/
theorem encodingRoundTrip : Obligations.EncodingRoundTrip := by
  refine ⟨fun i wf written => ?_, fun w i => encode_decodeQueue⟩
  cases code : encode i with
  | core bits next => exact code ▸ decode_encode_core code wf
  | queue w => exact decodeQueue_encode code
  | none => exact absurd code written

end Sys2Proof
end

section
/-! PROOF. Pair words (05 R125, 08 R206): what one half writes, and PairWords from this. -/

namespace Sys2Proof.Machine
open Sys2Proof

/-! ### What one half writes -/

/-- A half's writes as the pair word makes them: a value in each lane of its guard, but for HNOP. -/
def Ctx.halfVals (c : Ctx) (h : Half) : List (Nat × W32) :=
  if h.op = .hnop then []
  else (lanesOf (c.halfPart h)).map fun l => (l, h.eval (c.regs.vec h.d.toNat l) (c.regs.vec h.a.toNat l))
/-- The registers behind those writes. -/
def Ctx.halfRegs (c : Ctx) (h : Half) (r : Regs) : Regs := (c.halfVals h).foldl (fun r x => r.setVec h.d.toNat x.1 x.2) r
/-- Whether a half writes a lane of a vector register. -/
def Ctx.halfWrites (c : Ctx) (h : Half) (n l : Nat) : Bool := h.op != .hnop && n == h.d.toNat && (c.halfPart h).getLsbD l

theorem execPairWord_eq (h0 h1 : Half) (s : State) :
    execPairWord h0 h1 s = issue (.pairWord h0 h1) s fun s c => .next (s.updRegs c.k fun r => c.halfRegs h1 (c.halfRegs h0 r)) := rfl

theorem Ctx.halfRegs_hnop {h : Half} (nop : h.op = .hnop) (c : Ctx) (r : Regs) : c.halfRegs h r = r := by
  simp only [Ctx.halfRegs, Ctx.halfVals, if_pos nop, List.foldl_nil]
theorem Ctx.halfRegs_lanes {h : Half} (op : h.op ≠ .hnop) (c : Ctx) (r : Regs) :
    c.halfRegs h r = (lanesOf (c.halfPart h)).foldl
      (fun r l => r.setVec h.d.toNat l (h.eval (c.regs.vec h.d.toNat l) (c.regs.vec h.a.toNat l))) r := by
  simp only [Ctx.halfRegs, Ctx.halfVals, if_neg op, List.foldl_map]
/-- A half gives its d its value in the lanes of its guard, and leaves every other lane and vector register. -/
theorem Ctx.vec_halfRegs (c : Ctx) (h : Half) (r : Regs) {n l : Nat} (hl : l < 32) :
    (c.halfRegs h r).vec n l =
      if c.halfWrites h n l then h.eval (c.regs.vec h.d.toNat l) (c.regs.vec h.a.toNat l) else r.vec n l := by
  by_cases op : h.op = .hnop
  · simp [Ctx.halfRegs_hnop op, Ctx.halfWrites, op]
  rw [Ctx.halfRegs_lanes op]
  have inRange : ∀ k ∈ lanesOf (c.halfPart h), k < 32 := fun k hk => (mem_lanesOf.1 hk).1
  by_cases hn : n = h.d.toNat
  · subst hn
    have other : ∀ (r : Regs) k, k < 32 → k ≠ l →
        (r.setVec h.d.toNat k (h.eval (c.regs.vec h.d.toNat k) (c.regs.vec h.a.toNat k))).vec h.d.toNat l = r.vec h.d.toNat l :=
      fun r k hk ne => by rw [Regs.vec_setVec _ _ _ _ _ _ hk hl, if_neg fun e => ne e.2.symm]
    by_cases hp : (c.halfPart h).getLsbD l = true
    · rw [Regs.foldl_lane_mem _ (fun r => r.vec h.d.toNat l) l other _
        (fun r => by rw [Regs.vec_setVec _ _ _ _ _ _ hl hl, if_pos ⟨rfl, rfl⟩]) _ r inRange (lanesOf_nodup _)
        (mem_lanesOf.2 ⟨hl, hp⟩)]
      simp [Ctx.halfWrites, op, hp]
    · rw [Regs.foldl_lane _ (fun r => r.vec h.d.toNat l) l other _ r inRange fun hm => hp (mem_lanesOf.1 hm).2]
      simp [Ctx.halfWrites, hp]
  · rw [Regs.foldl_keep _ (fun r => r.vec n l) _ r fun r k hk => by
      show (r.setVec _ _ _).vec n l = r.vec n l
      rw [Regs.vec_setVec _ _ _ _ _ _ (inRange k hk) hl, if_neg fun e => hn e.1]]
    simp [Ctx.halfWrites, hn]
theorem Ctx.uni_halfRegs (c : Ctx) (h : Half) (r : Regs) (n : Nat) : (c.halfRegs h r).uni n = r.uni n :=
  Regs.foldl_keep _ (fun r => r.uni n) _ r fun _ _ _ => rfl
theorem Ctx.pred_halfRegs (c : Ctx) (h : Half) (r : Regs) (n : Nat) : (c.halfRegs h r).pred n = r.pred n :=
  Regs.foldl_keep _ (fun r => r.pred n) _ r fun _ _ _ => rfl

/-! ### The statement -/

/-- Settles O10: the values of both halves are functions of the registers before the word, and each half writes its own lanes of
its own d; where both would write one lane, the second half's value stands. -/
theorem pairWords : Obligations.PairWords := by
  intro s h0 h1 c issues
  refine leaves_of_updRegs issues (execPairWord_eq h0 h1 s) rfl rfl ⟨fun n l hl => ?_, fun n => ?_, fun n => ?_⟩
  · rw [Ctx.vec_halfRegs _ _ _ hl, Ctx.vec_halfRegs _ _ _ hl]
    rfl
  · rw [Ctx.uni_halfRegs, Ctx.uni_halfRegs]
  · rw [Ctx.pred_halfRegs, Ctx.pred_halfRegs]

end Sys2Proof.Machine
end

section
/-! PROOF. Memory words (09 R207–R217): the address of a lane, what the performance of stores leaves as it was, the course of a
memory word's issue, and MemoryWordsIssue from these. -/

namespace Sys2Proof.Machine
open Sys2Proof

/-! ### What performing stores leaves as it was -/

/-- A role of a redundant pair without its journal. -/
def RedRole.unjournalled (r : RedRole) : RedRole := { r with journal := [] }
/-- A redundant pair without its journals. -/
def Pair.unjournalled (p : Pair) : Pair := { p with lead := p.lead.unjournalled, sweep := p.sweep.unjournalled }
/-- The state without what performed stores change: memory, the caches and translations on the way to it, what watches or rings there,
and the journals of redundant pairs. -/
def State.unstored (s : State) : State :=
  { s with mem := [], keyTags := [], scrTags := [], poison := [], l1 := [], wc := [], msc := [], l1Tlb := [], baseTlb := [],
           lastPage := [], monitors := [], inbox := [], pairs := s.pairs.mapV Pair.unjournalled }

section unstored
variable (s : State)

/-! #### Memory, poison and the memory-side cache -/

@[simp] theorem State.unstored_setByte (a : Nat) (b : Byte) : (s.setByte a b).unstored = s.unstored := rfl
@[simp] theorem State.unstored_rawBytes : ∀ (bs : List Byte) (s : State) (a : Nat), (s.rawBytes a bs).unstored = s.unstored
  | [], _, _ => rfl
  | b :: bs, s, a => State.unstored_rawBytes bs (s.setByte a b) (a + 1)
@[simp] theorem State.unstored_clearRange (a n : Nat) : (s.clearRange a n).unstored = s.unstored := rfl
@[simp] theorem State.unstored_clearPoison (l : List Nat) : (s.clearPoison l).unstored = s.unstored := by
  unfold State.clearPoison; split <;> rfl
@[simp] theorem State.unstored_mscEvict (line : Nat) : (s.mscEvict line).unstored = s.unstored := by
  unfold State.mscEvict; split <;> rfl
@[simp] theorem State.unstored_mscMark (a : Nat) : (s.mscMark a).unstored = s.unstored := by
  unfold State.mscMark
  dsimp only
  repeat' split
  all_goals rfl
@[simp] theorem State.unstored_mscClean : s.mscClean.unstored = s.unstored := rfl
@[simp] theorem State.unstored_mscFill (key a : Nat) : (s.mscFill key a).unstored = s.unstored := by
  unfold State.mscFill
  split
  · rfl
  split
  · split
    · rfl
    · exact s.unstored_mscEvict (a / 128)
  · dsimp only
    split
    · rfl
    · split
      · rfl
      · exact s.unstored_mscEvict _
@[simp] theorem State.unstored_mscTouch (key a : Nat) : (s.mscTouch key a).unstored = s.unstored := by
  unfold State.mscTouch
  split
  · rfl
  · exact s.unstored_mscFill key a
@[simp] theorem State.unstored_setDramByte (key a : Nat) (b : Byte) : (s.setDramByte key a b).unstored = s.unstored := by
  unfold State.setDramByte
  split
  · refine (State.unstored_mscMark _ a).trans ?_
    split
    · split
      · rfl
      · exact State.unstored_rawBytes _ s _
    · rfl
  · exact s.unstored_mscMark a
  · exact s.unstored_mscMark a
  · rfl
@[simp] theorem State.unstored_setMemByte (key a : Nat) (b : Byte) : (s.setMemByte key a b).unstored = s.unstored := by
  simp [State.setMemByte]
@[simp] theorem State.unstored_setPastL1 (key cache scope a : Nat) (b : Byte) :
    (s.setPastL1 key cache scope a b).unstored = s.unstored := by
  unfold State.setPastL1
  repeat' split
  all_goals simp

/-! #### The L1s and the combining buffers -/

@[simp] theorem State.unstored_writeBack (a : Nat) (l : L1Line) : (s.writeBack a l).unstored = s.unstored := by
  simp [State.writeBack, foldl_keeps (p := State.unstored)]
@[simp] theorem State.unstored_evictL1 (k : Nat) : (s.evictL1 k).unstored = s.unstored := by
  unfold State.evictL1
  split
  · exact s.unstored_writeBack _ _
  · rfl
@[simp] theorem State.unstored_drainWc (p : Nat → Bool) : (s.drainWc p).unstored = s.unstored := by
  unfold State.drainWc
  dsimp only
  split
  · rfl
  · rw [State.unstored_clearPoison, foldl_keeps (p := State.unstored) (by simp)]
    rfl
@[simp] theorem State.unstored_flushLine (core a : Nat) : (s.flushLine core a).unstored = s.unstored := by
  simp [State.flushLine, State.drainLine]
@[simp] theorem State.unstored_makeRoom (core a : Nat) : (s.makeRoom core a).unstored = s.unstored := by
  unfold State.makeRoom
  dsimp only
  split
  · rfl
  · exact s.unstored_evictL1 _
@[simp] theorem State.unstored_fillLine (core key a : Nat) : (s.fillLine core key a).unstored = s.unstored := by
  unfold State.fillLine
  dsimp only
  split
  · split
    · rfl
    · exact (State.unstored_mscTouch _ key a).trans (s.unstored_flushLine core a)
  · exact (State.unstored_mscTouch _ key a).trans (s.unstored_makeRoom core a)
@[simp] theorem State.unstored_combine (core key a : Nat) (b : Byte) : (s.combine core key a b).unstored = s.unstored := by
  unfold State.combine
  dsimp only
  split
  · rfl
  · exact s.unstored_drainWc _
@[simp] theorem State.unstored_storeByte (core key cache scope a : Nat) (b : Byte) :
    (s.storeByte core key cache scope a b).unstored = s.unstored := by
  unfold State.storeByte
  split
  · exact s.unstored_combine core key a b
  extract_lets t f u
  have drained : t.unstored = s.unstored := s.unstored_drainWc _
  have filled : f.unstored = t.unstored := t.unstored_fillLine core key a
  have past : u.unstored = t.unstored := by
    unfold u
    split
    · split
      · rfl
      · exact t.unstored_flushLine core a
    · rfl
  clear_value u f t
  split
  · split <;> exact filled.trans drained
  split
  · rw [State.unstored_setPastL1, State.unstored_flushLine, drained]
  · rw [State.unstored_setPastL1, past, drained]

/-! #### The scratchpad, whose lines a pair's journals keep -/

theorem State.unjournalled_journalRole (core ofs : Nat) (r : RedRole) :
    (s.journalRole core ofs r).unjournalled = r.unjournalled := by
  unfold State.journalRole
  split
  · dsimp only
    split <;> rfl
  · rfl
@[simp] theorem State.unstored_journal (core ofs : Nat) : (s.journal core ofs).unstored = s.unstored := by
  have pair (p : Pair) : Pair.unjournalled (if p.committed then p else
      { p with lead := s.journalRole core ofs p.lead, sweep := s.journalRole core ofs p.sweep }) = p.unjournalled := by
    split
    · rfl
    · simp only [Pair.unjournalled, State.unjournalled_journalRole]
  simp only [State.unstored, State.journal, Tab.mapV, List.map_map, Function.comp_def, pair]
@[simp] theorem State.unstored_setScrByte (core key ofs : Nat) (b : Byte) : (s.setScrByte core key ofs b).unstored = s.unstored := by
  unfold State.setScrByte
  extract_lets t row u
  have kept : t.unstored = s.unstored := s.unstored_journal core ofs
  have cleared : u.unstored = t.unstored := by
    unfold u
    split
    · split <;> rfl
    · rfl
  clear_value u t
  exact cleared.trans kept

/-! #### Places and elements -/

@[simp] theorem State.unstored_writePlace (core scope : Nat) (p : Place) (b : Byte) :
    (s.writePlace core scope p b).unstored = s.unstored := by
  cases p with
  | scr c k o => exact s.unstored_setScrByte c k o b
  | mem k ca a => exact s.unstored_storeByte core k ca scope a b
@[simp] theorem State.unstored_writePlaces (core scope : Nat) : ∀ (ps : List Place) (v : Nat) (s : State),
    (s.writePlaces core scope ps v).unstored = s.unstored
  | [], _, _ => rfl
  | _ :: ps, _, _ => (State.unstored_writePlaces core scope ps _ _).trans (State.unstored_writePlace ..)
@[simp] theorem State.unstored_storeEl (core scope : Nat) (ps : List Place) (v : Nat) :
    (s.storeEl core scope ps v).unstored = s.unstored := by
  unfold State.storeEl
  dsimp only
  split
  · split
    · split <;> rfl
    · rfl
  · exact State.unstored_writePlaces ..

/-! #### Translations -/

@[simp] theorem State.unstored_shadowAdd (a n : Nat) : (s.shadowAdd a n).unstored = s.unstored := by
  unfold State.shadowAdd
  split
  · rfl
  · exact State.unstored_rawBytes ..
@[simp] theorem State.unstored_putBase (k : Nat) (t : TlbEntry) : (s.putBase k t).unstored = s.unstored := by
  unfold State.putBase
  extract_lets u
  have made : u.unstored = s.unstored := by
    unfold u
    split
    · rfl
    · split
      · exact s.unstored_shadowAdd _ _
      · rfl
  clear_value u
  exact made
@[simp] theorem State.unstored_putL1Tlb (space k : Nat) (t : TlbEntry) : (s.putL1Tlb space k t).unstored = s.unstored := by
  unfold State.putL1Tlb
  extract_lets mine u
  have made : u.unstored = s.unstored := by
    unfold u
    split
    · rfl
    · split
      · exact State.unstored_putBase _ _ _
      · rfl
  clear_value u
  exact made
@[simp] theorem State.unstored_touchTlb (space pasid : Nat) (va : W64) (t : TlbEntry) :
    (s.touchTlb space pasid va t).unstored = s.unstored := by
  unfold State.touchTlb
  dsimp only
  repeat' split
  all_goals simp
@[simp] theorem State.unstored_touchLast (key lane : Nat) (va : W64) (t : TlbEntry) :
    (s.touchLast key lane va t).unstored = s.unstored := rfl
@[simp] theorem State.unstored_touchAll (w : Wg) (gi : Nat) (used : List (Nat × W64 × TlbEntry)) :
    (s.touchAll w gi used).unstored = s.unstored := by
  unfold State.touchAll
  dsimp only
  rw [foldl_keeps (p := State.unstored) (by simp), foldl_keeps (p := State.unstored) (by simp)]

/-! #### Releases and stores -/

@[simp] theorem State.unstored_cleanL1 (core : Nat) : (s.cleanL1 core).unstored = s.unstored := by
  have back := foldl_keeps (p := State.unstored) (f := fun s (x : Nat × L1Line) => s.writeBack (x.1 * 128) x.2) (by simp)
  exact (back _ _).trans (s.unstored_drainWc _)
/-- A release performs stores alone. -/
@[simp] theorem State.unstored_release (core scope : Nat) : (s.release core scope).unstored = s.unstored := by
  unfold State.release
  split
  · exact s.unstored_drainWc _
  · split
    · exact s.unstored_cleanL1 core
    · exact s.unstored_cleanL1 core
theorem State.unstored_dropAcc (id : Nat) : (s.dropAcc id).unstored = s.unstored.dropAcc id := rfl
/-- A store that is performed changes what stores change, and removes its access. -/
theorem State.unstored_performStore {id : Nat} {a : Access} {w : Wg} {scope : Nat} {vals : List Nat} {t : State}
    (done : s.performStore id a w scope vals = .done t) : t.unstored = s.unstored.dropAcc id := by
  unfold State.performStore at done
  split at done
  · cases done
  split at done
  case h_4 places used _ =>
    cases done
    rw [State.unstored_dropAcc, State.unstored_clearPoison, foldl_keeps (p := State.unstored) (by simp), State.unstored_touchAll]
  all_goals cases done
/-- A store at once is performed, or goes in flight. -/
theorem State.storeNow_cases (k : Nat) (a : Access) (w : Wg) (scope : Nat) (vals : List Nat) :
    (s.storeNow k a w scope vals).unstored = s.unstored.dropAcc s.nextId ∨ s.storeNow k a w scope vals = s.launchAcc k a [] := by
  unfold State.storeNow
  split
  · next done => exact .inl (s.unstored_performStore done)
  · exact .inr rfl
end unstored

/-! ### The address of a lane (R121, R213) -/

section address
variable {r : Regs} {w : MEM} {upd : Bool} {l : Nat}

theorem memAddr_pair {n : BitVec 8} (x : w.x = false) (base : w.base = .v n) :
    memAddr r w upd l = (r.vec (n.toNat + 1) l ++ r.vec n.toNat l) + BitVec.ofInt 64 (memDisp w upd) := by
  simp [memAddr, x, base, Opnd.num, Regs.vec64]
theorem memAddr_uni {n : BitVec 6} (x : w.x = false) (base : w.base = .s n) :
    memAddr r w upd l = r.uni n.toNat + BitVec.ofInt 64 (memDisp w upd) := by
  simp [memAddr, x, base]
theorem memAddr_indexed {n : BitVec 8} (x : w.x = true) (base : w.base = .v n) :
    memAddr r w upd l = r.uni w.idxReg.toNat + BitVec.ofNat 64 (r.vec n.toNat l).toNat + BitVec.ofInt 64 (memDisp w upd) := by
  have unsigned : (r.vec n.toNat l).zeroExtend 64 = BitVec.ofNat 64 (r.vec n.toNat l).toNat := by
    apply BitVec.eq_of_toNat_eq
    simp
  simp only [memAddr, x, if_true, base, Opnd.num, unsigned]
/-- A displacement is read signed from the bits that the form gives it. -/
theorem memDisp_plain (x : w.x = false) :
    memDisp w false = (w.ofs.extractLsb' 0 18).toInt ∧ memDisp w true = (w.ofs.extractLsb' 3 15).toInt := by
  simp [memDisp, x]
theorem memDisp_indexed (x : w.x = true) :
    memDisp w false = (w.ofs.extractLsb' 0 12).toInt ∧ memDisp w true = (w.ofs.extractLsb' 3 9).toInt := by
  simp [memDisp, x]
end address

/-! ### The course of a memory word -/

section course
variable {s : State} {i : Instr} {c : Ctx} {kind : Nat} {align release : Bool} {all : Option Mask} {els : List (Nat × W64 × Nat)}
  {go : Res}

theorem Ctx.memIssue_nil : c.memIssue s kind align release all [] go = .next s := rfl
theorem Ctx.memIssue_blocked (nonempty : els ≠ []) (blocked : s.memBlocked c.g.wg c.g.gi = true) :
    c.memIssue s kind align release all els go = .hold := by
  simp only [Ctx.memIssue, nonempty, blocked, if_false, if_true]
theorem Ctx.memIssue_cause {cause : Cause} {lanes : Mask} {addr extra : W64} (nonempty : els ≠ [])
    (free : s.memBlocked c.g.wg c.g.gi = false) (bad : s.memCause c.w kind align all els = some (cause, lanes, addr, extra)) :
    c.memIssue s kind align release all els go = .trap cause.code lanes addr extra := by
  simp only [Ctx.memIssue, nonempty, free, bad, Bool.false_eq_true, if_false]
  rfl
theorem Ctx.memIssue_behind (nonempty : els ≠ []) (free : s.memBlocked c.g.wg c.g.gi = false)
    (good : s.memCause c.w kind align all els = none)
    (behind : s.overlaps c.g.wg c.g.gi els = true ∨ release = true ∧ s.accsOf c.g.wg c.g.gi ≠ []) :
    c.memIssue s kind align release all els go = .hold := by
  simp only [Ctx.memIssue, nonempty, free, good, Bool.false_eq_true, if_false]
  rcases behind with overlap | ⟨rel, busy⟩
  · rw [if_pos overlap]
  · split
    · rfl
    · rw [if_pos (by simp [rel, busy])]
theorem Ctx.memIssue_go (nonempty : els ≠ []) (free : s.memBlocked c.g.wg c.g.gi = false)
    (good : s.memCause c.w kind align all els = none) (apart : s.overlaps c.g.wg c.g.gi els = false)
    (last : release = true → s.accsOf c.g.wg c.g.gi = []) (alone : s.pairOf c.g.wg = none) :
    c.memIssue s kind align release all els go = go := by
  have unmatched : s.redBusy c.g.wg c.g.gi = false := by simp only [State.redBusy, alone]
  simp only [Ctx.memIssue, nonempty, free, good, apart, unmatched, Bool.false_eq_true, if_false, Bool.or_false]
  cases release with
  | false => rfl
  | true => rw [last rfl]; rfl

/-- A word whose body holds does not issue. -/
theorem waits_of_hold {body : State → Ctx → Res} (h : s.Reaches i c) (written : exec i s = issue i s body)
    (untimed : ∀ clk, body s { c with clk } = body s { c with clk := [] }) (hold : body s c = .hold) : s.Waits i := by
  rw [State.Waits, written, issue_eq h body fun clk => .inl (untimed clk), hold]
  rfl

/-- A state in which the issuing group may go on as it would in `s`. -/
structure State.Onward (s s' : State) (c : Ctx) : Prop where
  group : ∃ g, s'.groups.get? c.k = some g ∧ g.ended = c.g.ended ∧ g.wg = c.g.wg ∧ g.ofs = c.g.ofs
  wgs : s'.wgs = s.wgs
  cores : s'.cores = s.cores
  alone : s'.pairOf c.g.wg = none

theorem State.Reaches.onward_self (h : s.Reaches i c) : s.Onward s c :=
  ⟨⟨c.g, h.spec.2.1, rfl, rfl, rfl⟩, rfl, rfl, h.alone⟩
/-- An access in flight leaves its registers pending, and the group where it stands. -/
theorem State.Onward.launchAcc {s' : State} (h : s.Onward s' c) (a : Access) (dests : List RegSpan) :
    s.Onward (s'.launchAcc c.k a dests) c := by
  obtain ⟨⟨g, hg, he, hw, ho⟩, wgs, cores, alone⟩ := h
  refine ⟨⟨g.setPending dests s'.nextId, ?_, he, hw, ho⟩, wgs, cores, alone⟩
  simp [State.launchAcc, Tab.get?_modify, hg]
theorem State.Onward.dropAcc {s' : State} (h : s.Onward s' c) (id : Nat) : s.Onward (s'.dropAcc id) c :=
  ⟨h.group, h.wgs, h.cores, h.alone⟩
/-- Whether a workgroup has a redundant partner does not rest on the journals. -/
theorem State.pairOf_unstored (wg : Nat) : s.unstored.pairOf wg = none ↔ s.pairOf wg = none := by
  have sameWgs : s.unstored.pairs.findBy (fun _ p => p.lead.wg == wg || p.sweep.wg == wg) =
      (s.pairs.findBy fun _ p => p.lead.wg == wg || p.sweep.wg == wg).map fun x => (x.1, x.2.unjournalled) := by
    simp only [State.unstored, Tab.findBy, Tab.mapV, List.find?_map]
    rfl
  unfold State.pairOf
  rw [sameWgs]
  cases s.pairs.findBy fun _ p => p.lead.wg == wg || p.sweep.wg == wg <;> simp
/-- Performed stores leave the issuing group where it stands. -/
theorem State.Onward.stored {s' t : State} (h : s.Onward s' c) (stored : t.unstored = s'.unstored) : s.Onward t c := by
  have groups : t.groups = s'.groups := congrArg (·.groups) stored
  have wgs : t.wgs = s'.wgs := congrArg (·.wgs) stored
  have cores : t.cores = s'.cores := congrArg (·.cores) stored
  refine ⟨groups ▸ h.group, wgs.trans h.wgs, cores.trans h.cores, ?_⟩
  rw [← State.pairOf_unstored, stored, State.pairOf_unstored]
  exact h.alone

/-- A word whose body leaves such a state completes with it. -/
theorem completes_of_onward {s' : State} {body : State → Ctx → Res} (h : s.Issues i c) (written : exec i s = issue i s body)
    (untimed : ∀ clk, body s { c with clk } = body s { c with clk := [] }) (next : body s c = .next s')
    (onward : s.Onward s' c) : s.Completes i c s' := by
  obtain ⟨_, _, he, hw, _⟩ := h.spec
  obtain ⟨⟨g, hg, ended, wg, ofs⟩, wgs, cores, alone⟩ := onward
  have sound : (s'.core c.core).inject = none := by
    rw [State.core, cores]
    exact h.sound
  obtain ⟨t, ht, only⟩ := issue_next (w := c.w) h.toReaches (fun clk => .inl (untimed clk)) next hg (ended.trans he)
    (by rw [wg, wgs]; exact hw) (by rw [ofs]; exact h.onward) alone sound
  exact ⟨g, t, hg, written.trans ht, only⟩

/-- A word whose body is the course of a memory word. -/
theorem memCourse {done : State} {body : State → Ctx → Res} (written : exec i s = issue i s body)
    (untimed : ∀ clk, body s { c with clk } = body s { c with clk := [] })
    (course : body s c = c.memIssue s kind align release all els go)
    (effect : s.Issues i c → go = .next done ∧ s.Onward done c) : s.MemCourse i c kind align release all els done where
  none h empty := by
    obtain ⟨_, hg, he, hw, _⟩ := h.spec
    have next : body s c = .next s := by rw [course, empty, Ctx.memIssue_nil]
    obtain ⟨t, ht, only⟩ := issue_next h.toReaches (fun clk => .inl (untimed clk)) next hg he hw h.onward h.alone h.sound
    exact ⟨c.g, t, written.trans ht, rfl, only⟩
  blocked h nonempty blocked := waits_of_hold h written untimed (course.trans (Ctx.memIssue_blocked nonempty blocked))
  bad cause lanes addr extra h nonempty free bad :=
    written.trans (issue_trap h (fun clk => .inl (untimed clk)) (course.trans (Ctx.memIssue_cause nonempty free bad)))
  overlap h nonempty free good behind := waits_of_hold h written untimed (course.trans (Ctx.memIssue_behind nonempty free good behind))
  done h nonempty free good apart last := by
    obtain ⟨next, onward⟩ := effect h
    exact completes_of_onward h written untimed
      ((course.trans (Ctx.memIssue_go nonempty free good apart last h.alone)).trans next) onward
end course

/-! ### What a group without a partner sends and reads -/

section alone
variable {s : State} {c : Ctx}

theorem State.auditAdd_none {wg stream : Nat} {string : List Byte} (h : s.audits.get? wg = none) : s.auditAdd wg stream string = s := by
  simp only [State.auditAdd, h]
theorem State.journalEls_alone {u : Nat} {w : Wg} {els : List (Nat × W64 × Nat)} (alone : s.pairOf u = none) :
    s.journalEls u w els = s := by
  simp [State.journalEls, alone]
/-- An effect beyond the core is sent at once. -/
theorem Ctx.send_alone {isLoc : Bool} {stream kind width : Nat} {mask : Mask} {content : List Byte} {els : List (Nat × W64 × Nat)}
    {dests : List RegSpan} {now replayNow : State → State} {act : Nat → EntryAct} (role : c.w.role ≠ 3)
    (unaudited : s.audits.get? c.g.wg = none) (alone : s.pairOf c.g.wg = none) :
    c.send s isLoc stream kind width mask content els dests now replayNow act = .next (now s) := by
  simp only [Ctx.send, State.auditAdd_none unaudited, role, if_false, alone, ite_self]
theorem Ctx.load_alone {i : Instr} {mask : Mask} {els : List (Nat × W64 × Nat)} {acquire : Bool} {dests : List RegSpan} {p : LoadProg}
    (alone : s.pairOf c.g.wg = none) :
    c.load s i mask els acquire dests p = .next (s.launchAcc c.k (c.access i mask els acquire) dests) := by
  simp only [Ctx.load, alone]
end alone

/-! ### The course of each kind of memory word -/

section kinds
variable {s : State} {i : Instr} {c : Ctx} {w : MEM}

theorem State.Reaches.onward_release (h : s.Reaches i c) (p : Prop) [Decidable p] :
    s.Onward (if p then s.release c.core w.scope else s) c := by
  split
  · exact h.onward_self.stored (s.unstored_release _ _)
  · exact h.onward_self

/-- A load of a group without a partner goes in flight. -/
theorem memCourse_load {once : Bool} {dest : RegSpan} {dests : List RegSpan} {p : List (Nat × W64 × Nat) → LoadProg}
    (written : exec i s = issue i s fun s c =>
      c.memIssue s 0 false false (if once then some (c.part w.g) else none) (memEls c.regs w false once (c.part w.g) (typeBytes w.ty))
        (c.load s i (c.part w.g) (memEls c.regs w false once (c.part w.g) (typeBytes w.ty)) (w.order == 1) dests
          (p (memEls c.regs w false once (c.part w.g) (typeBytes w.ty)))))
    (named : i.operandsOk = true → dests = [dest]) :
    s.MemCourse i c 0 false false (if once then some (c.part w.g) else none)
      (memEls c.regs w false once (c.part w.g) (typeBytes w.ty))
      (s.launchAcc c.k (c.access i (c.part w.g) (memEls c.regs w false once (c.part w.g) (typeBytes w.ty)) (w.order == 1)) [dest]) := by
  refine memCourse written (fun _ => rfl) rfl fun h => ⟨?_, h.toReaches.onward_self.launchAcc _ _⟩
  obtain ⟨_, _, operands, _⟩ := legal_checks (Ctx.wordCause_none h.legal).1
  rw [Ctx.load_alone h.alone, named operands]

/-- A store of a group without a partner is performed, behind its release if it is one, or goes in flight. -/
theorem memCourse_store {once : Bool} (role : c.w.role ≠ 3) (unaudited : s.audits.get? c.g.wg = none)
    (written : exec i s = issue i s fun s c => c.store s i w once) :
    s.MemCourse i c 1 false (w.order == 2) (if once then some (c.part w.g) else none)
      (memEls c.regs w false once (c.part w.g) (typeBytes w.ty))
      ((if w.order = 2 then s.release c.core w.scope else s).storeNow c.k
        (c.access i (c.part w.g) (memEls c.regs w false once (c.part w.g) (typeBytes w.ty)) false) c.w w.scope
        ((memEls c.regs w false once (c.part w.g) (typeBytes w.ty)).map fun x => storeVal c.regs w x.1)) := by
  refine memCourse written (fun _ => rfl) rfl fun h => ⟨Ctx.send_alone role unaudited h.alone, ?_⟩
  have released := h.toReaches.onward_release (w := w) (w.order = 2)
  rcases State.storeNow_cases _ c.k _ c.w w.scope _ with performed | flight
  · exact (released.dropAcc _).stored performed
  · rw [flight]
    exact released.launchAcc _ _

/-- An update of a group without a partner goes in flight, behind its release if it is one. -/
theorem memCourse_update {once : Bool} {kind : Nat} {all : Option Mask} {els : List (Nat × W64 × Nat)} {a : Access}
    {isLoc : Bool} {stream sort width : Nat} {mask : Mask} {content : List Byte} {replayNow : State → State} {act : Nat → EntryAct}
    (role : c.w.role ≠ 3) (unaudited : s.audits.get? c.g.wg = none)
    (written : exec i s = issue i s fun s c => c.update s i w once kind)
    (course : c.update s i w once kind = c.memIssue s 2 true (w.order == 2 || w.order == 3) all els
      (c.send s isLoc stream sort width mask content els (updDests i)
        (fun s => ((if w.order == 2 || w.order == 3 then s.release c.core w.scope else s).journalEls c.g.wg c.w els).launchAcc c.k a
          (updDests i)) replayNow act)) :
    s.MemCourse i c 2 true (w.order == 2 || w.order == 3) all els
      ((if w.order = 2 ∨ w.order = 3 then s.release c.core w.scope else s).launchAcc c.k a (updDests i)) := by
  refine memCourse written (fun _ => rfl) course fun h => ?_
  have released := h.toReaches.onward_release (w := w) (w.order = 2 ∨ w.order = 3)
  refine ⟨?_, released.launchAcc _ _⟩
  rw [Ctx.send_alone role unaudited h.alone]
  simp only [Bool.or_eq_true, beq_iff_eq]
  rw [State.journalEls_alone released.alone]
end kinds

/-! ### The destinations of loads -/

theorem ok_of_operandsOk {i : Instr} {x : Slot} (ok : i.operandsOk = true) (h : x ∈ i.slots) : x.ok = true := by
  simp only [Instr.operandsOk, Bool.and_eq_true] at ok
  obtain ⟨⟨_, slots⟩, _⟩ := ok
  exact List.all_eq_true.1 slots x h
theorem spans_of_ld {w : MEM} (ok : (Instr.ld w).operandsOk = true) :
    Slot.spans (.vdst (w.ty == 5) w.d) = [⟨.v, w.d.num, if w.ty = 5 then 2 else 1⟩] := by
  have slot := ok_of_operandsOk (x := .vdst (w.ty == 5) w.d) ok (List.mem_cons_self ..)
  cases hd : w.d with
  | v n => simp [Slot.vdst, Slot.spans, Opnd.num]
  | _ => simp [hd, Slot.ok, Slot.vdst, Kinds.allows] at slot
theorem spans_of_ldu {w : MEM} (ok : (Instr.ldu w).operandsOk = true) : Slot.spans (.uni w.d) = [⟨.s, w.d.num, 1⟩] := by
  have slot := ok_of_operandsOk (x := .uni w.d) ok (List.mem_cons_self ..)
  cases hd : w.d with
  | s n => rfl
  | _ => simp [hd, Slot.ok, Slot.uni, Kinds.allows] at slot

/-! ### The statement -/

/-- Settles O25: the address by the form of its base, and each word by the course that its kind takes. -/
theorem memoryWordsIssue : Obligations.MemoryWordsIssue := by
  refine ⟨fun r w l o => ⟨fun n base x ofs => ?_, fun n base x ofs => ?_, fun n base x ofs => ?_⟩,
    fun s w c role unaudited => ⟨?ld, ?ldu, ?st, ?stu, ?upd, ?updr, ?ucas, ?vismax⟩⟩
  · obtain ⟨plain, update⟩ := memDisp_plain x
    subst ofs
    dsimp only
    rw [← plain, ← update]
    exact ⟨memAddr_pair x base, memAddr_pair x base⟩
  · obtain ⟨plain, update⟩ := memDisp_plain x
    subst ofs
    dsimp only
    rw [← plain, ← update]
    exact ⟨memAddr_uni x base, memAddr_uni x base⟩
  · obtain ⟨plain, update⟩ := memDisp_indexed x
    subst ofs
    dsimp only
    rw [← plain, ← update]
    exact ⟨memAddr_indexed x base, memAddr_indexed x base⟩
  case ld => exact memCourse_load (once := false) (p := ldProg w false) rfl spans_of_ld
  case ldu => exact memCourse_load (once := true) (p := ldProg w true) rfl spans_of_ldu
  case st => exact memCourse_store (once := false) role unaudited rfl
  case stu => exact memCourse_store (once := true) role unaudited rfl
  case upd => exact memCourse_update (once := false) role unaudited rfl rfl
  case updr => exact memCourse_update role unaudited rfl rfl
  case ucas => exact memCourse_update role unaudited rfl rfl
  case vismax => exact memCourse_update (once := false) role unaudited rfl rfl

end Sys2Proof.Machine
end
